-- ==== Sys2Proof/Word.lean ====
section
/-! DEFINITION. The words of the cell link and of the timebase, and the plainest arithmetic over them. -/

namespace Sys2Proof

/-- One byte of a frame (chapter 11.9). -/
abbrev Byte := BitVec 8

/-- A value of the 32-bit millisecond timebase (R176). -/
abbrev Time := BitVec 32

/-- One mark for each of the 64 unit numbers (R1, R19): bit `u` is unit `u`'s mark. -/
abbrev UnitMarks := BitVec 64

/-- One mark for each of the 40 magazine slots (R4, R15): bit `n` set is slot `n` sensed OCCUPIED. -/
abbrev SlotMap := BitVec 40

/-- A strip code: 0 to 16 characters, each one byte (R1). -/
abbrev StripCode := List Byte

/-- "Saturating": a count stays at its largest value once reached (00_scope, Arithmetic). -/
def satAdd (top n k : Nat) : Nat := min top (n + k)

/-- "Clamped to" gives the nearer end of the range (00_scope, Arithmetic). -/
def clampInt (lo hi x : Int) : Int := if x < lo then lo else if hi < x then hi else x

end Sys2Proof
end

