-- ==== Sys2Proof/Syntax.lean ====
section
/-! DEFINITION. The commands of the part, one constructor of Instr per row of spec/opcode_table.json, and the types of
their operands. A field that is written to the part as a name is an Option: none is a value that is none of the names. -/

namespace Sys2Proof

/-! ### Names -/

/-- The two heads and their channels. -/
inductive Head where
  | a | b
  deriving DecidableEq, Repr

/-- The other head. -/
def Head.other : Head → Head
  | .a => .b
  | .b => .a

/-- The four terminals TERM1 to TERM4 (R150). -/
inductive Term where
  | t1 | t2 | t3 | t4
  deriving DecidableEq, Repr

/-- The roles of the forwarding table (R164). -/
inductive Role where
  | head (h : Head) | feedIn | feedOut | track | heater | pull | term (t : Term) | other | unassigned
  deriving DecidableEq, Repr

/-- Actions of the kind table (R163). -/
inductive KindAction where
  | pass | drop
  deriving DecidableEq, Repr

/-- Expected or sensed occupancy of a slot (R1, R3). -/
inductive Occupancy where
  | occupied | empty
  deriving DecidableEq, Repr

/-- UP is rising slot numbers (section 1.3). -/
inductive Direction where
  | up | down
  deriving DecidableEq, Repr

/-- The missed-wire policy (R103). -/
inductive MissedPolicy where
  | ask | rejectUnit
  deriving DecidableEq, Repr

/-- Terminal levels in rising order (R150). -/
inductive Level where
  | view | operator | technician
  deriving DecidableEq, Repr

/-- The alarm codes, in the order of the table of R138. -/
inductive AlarmCode where
  | slotMismatch | inputEmpty | idMismatch | feedJam | outputFull | trackJam | heatSignal | heatNotReady | headFault
  | nsop | nsol | missedWire | pullTimeout | pullStation | pullFail | pullCapability | pullLogFull | estop
  deriving DecidableEq, Repr

/-- The alarm scopes (R137). -/
inductive AlarmScope where
  | cell | head (h : Head) | feeder | track | program (p : Nat)
  deriving DecidableEq, Repr

/-- The tables of R170. -/
inductive TableName where
  | forwarding | kind | cellParameter | lot | program | wire | recipe | plan | limits | terminal | page | tile | keyMap
  | unit | candidate
  deriving DecidableEq, Repr

/-- The three track positions (R23). -/
inductive Position where
  | preheat | bond | post
  deriving DecidableEq, Repr

/-! ### Table entries as written (and, checked, as stored) -/

/-- A forwarding table write: a role, none when it is no role's name, and the valid flag (R164). -/
structure ForwardingWrite where
  role : Option Role
  valid : Bool
  deriving DecidableEq, Repr

/-- A cell parameter value as written (R171): a number, a policy or a direction. -/
inductive ParamValue where
  | number (n : Nat) | policy (p : MissedPolicy) | direction (d : Direction) | unnamed
  deriving DecidableEq, Repr

/-- A lot table entry as written (R1, R2); the expected occupancy is none when it is neither name. -/
structure LotWrite where
  expected : Option Occupancy
  dontCare : Bool
  program : Option Nat
  skip : UnitMarks
  code : Option StripCode
  deriving DecidableEq, Repr

/-- A program table entry (R40). -/
structure ProgramEntry where
  valid : Bool := false
  firstWire : Nat := 0
  wireCount : Nat := 0
  rows : Nat := 0
  columns : Nat := 0
  pitchX : Nat := 0
  pitchY : Nat := 0
  originX : Int := 0
  originY : Int := 0
  guard : Nat := 0
  deriving DecidableEq, Repr

/-- A wire table entry (R41). -/
structure WireEntry where
  valid : Bool := false
  x1 : Int := 0
  y1 : Int := 0
  x2 : Int := 0
  y2 : Int := 0
  dieLevel : Nat := 0
  loopCode : Nat := 0
  ballRecipe : Nat := 0
  stitchRecipe : Nat := 0
  noContinuity : Bool := false
  deriving DecidableEq, Repr

/-- One segment of a profile (R79). -/
structure Segment where
  setpoint : Nat := 0
  length : Nat := 0
  deriving DecidableEq, Repr

/-- A recipe table entry (R79); `seg1` to `seg4` are its four segment fields. -/
structure RecipeEntry where
  valid : Bool := false
  segCount : Nat := 0
  seg1 : Segment := {}
  seg2 : Segment := {}
  seg3 : Segment := {}
  seg4 : Segment := {}
  baseDrive : Nat := 0
  kp : Nat := 0
  kpShift : Nat := 0
  ki : Nat := 0
  kiShift : Nat := 0
  epStart : Nat := 0
  ep : Nat := 0
  en : Nat := 0
  imax : Nat := 0
  dlow : Nat := 0
  dhigh : Nat := 0
  sstep : Nat := 0
  tstart : Nat := 0
  ftrip : Nat := 0
  ntrip : Nat := 0
  windupHold : Bool := false
  emin : Nat := 0
  emax : Nat := 0
  defMin : Nat := 0
  bondForce : Nat := 0
  retryCount : Nat := 0
  deriving DecidableEq, Repr

/-- The directed reason set of a plan (R113). -/
structure ReasonSet where
  dissent : Bool := false
  highEnergy : Bool := false
  slowStart : Bool := false
  retried : Bool := false
  deriving DecidableEq, Repr

/-- A sampling plan entry (R113). -/
structure PlanEntry where
  valid : Bool := false
  interval : Nat := 0
  units : List Nat := []
  wires : List Nat := []
  reasons : ReasonSet := {}
  deriving DecidableEq, Repr

/-- The limits of one failure mode (R114). -/
structure ModeLimit where
  minForce : Nat := 0
  rejectAlways : Bool := false
  deriving DecidableEq, Repr

/-- A pull limits entry (R114); `m1` to `m5` are the five failure modes. -/
structure LimitsEntry where
  valid : Bool := false
  m1 : ModeLimit := {}
  m2 : ModeLimit := {}
  m3 : ModeLimit := {}
  m4 : ModeLimit := {}
  m5 : ModeLimit := {}
  failLimit : Nat := 0
  capCount : Nat := 0
  capLimit : Nat := 0
  deriving DecidableEq, Repr

/-- A page table entry (R151). -/
structure PageEntry where
  valid : Bool := false
  firstTile : Nat := 0
  tileCount : Nat := 0
  keyMap : Nat := 0
  deriving DecidableEq, Repr

/-- A tile's format (R151). -/
inductive TileFormat where
  | decimal (fraction : Nat) | name
  deriving DecidableEq, Repr

/-- A tile table entry (R151). -/
structure TileEntry where
  valid : Bool := false
  row : Nat := 0
  column : Nat := 0
  width : Nat := 0
  value : Nat := 0
  operand : Nat := 0
  format : TileFormat := .decimal 0
  interval : Nat := 0
  deriving DecidableEq, Repr

/-- The actions of R160. -/
inductive KeyAction where
  | page | pageNext | pauseHead | resumeHead | clearFault | pauseCell | resumeCell | ackAlarm | skipUnit | nsbResume
  | waiveWire | rebondWire | releaseProgram | acceptSlot | skipSlot | acceptId
  deriving DecidableEq, Repr

/-- A key map entry's operand source (R152). -/
inductive OperandSource where
  | fixed | tag
  deriving DecidableEq, Repr

/-- A key map entry (R152); a name field is none when what is written is no such name. -/
structure KeyEntry where
  valid : Bool := false
  key : Nat := 0
  action : Option KeyAction := none
  source : Option OperandSource := none
  fixed : Nat := 0
  minLevel : Option Level := none
  deriving DecidableEq, Repr

/-! ### What frames carry -/

/-- The continuity reading of a BOND_END (R99). -/
inductive Continuity where
  | stick | nonStick | notMeasured
  deriving DecidableEq, Repr

/-- HEAD_EVT frames (chapter 4); the byte is the number of the command answered (R60). -/
inductive HeadEvt where
  | touchdown (n : Byte) | bondEnd (n : Byte) (continuity : Continuity) (deformation : Nat) | wireDone (n : Byte)
  | aborted (n : Byte) | motionFault
  deriving DecidableEq, Repr

/-- FEED_EVT frames of both feeders (chapter 1); the code is none when the strip was unread. -/
inductive FeedEvt where
  | magIn (sensed : SlotMap) | magOut | stripIn (code : Option StripCode) | feedFault | ejected (slot : Nat)
  deriving DecidableEq, Repr

/-- The origin that a TRACK_CMD or TRACK_EVT names (R28, R29). -/
inductive Origin where
  | preheat | bond
  deriving DecidableEq, Repr

/-- TRACK_EVT frames (R28, R31). -/
inductive TrackEvt where
  | moveDone (origin : Origin) (n : Byte) | trackFault (origin : Origin) (n : Byte)
  deriving DecidableEq, Repr

/-- The station status of a PULL_RESULT (R122). -/
inductive StationStatus where
  | ok | noHook | testerFault
  deriving DecidableEq, Repr

/-- The six commands of CELL_CMD (R174). -/
inductive CellCmd where
  | arm | start | drain | pause | resume | stop
  deriving DecidableEq, Repr

/-- The operations of HEAD_OP (R64 to R66, R77). -/
inductive HeadOp where
  | enable | disable | pause | resume | clearFault
  deriving DecidableEq, Repr

/-- The decisions of SLOT_OP (R6). -/
inductive SlotOp where
  | acceptSensed | skipSlot
  deriving DecidableEq, Repr

/-- The requests of STRIP_OP with what each names (R14, R33, R55, R74). -/
inductive StripOp where
  | acceptId (seq : Nat) | scrap (seq : Nat) | skipUnit (seq unit : Nat) | nsbResume (seq unit wire : Nat)
  | rebondWire (seq unit wire : Nat) | waiveWire (seq unit wire : Nat)
  deriving DecidableEq, Repr

/-- What STATS_RESET names (R130). -/
inductive StatsSel where
  | program (p : Nat) | all
  deriving DecidableEq, Repr

/-- A TABLE_WRITE: the table, the first index, the count and the entries of its content (R170). -/
inductive TableWrite where
  | forwarding (first count : Nat) (entries : List ForwardingWrite)
  | kind (first count : Nat) (entries : List (Option KindAction))
  | cellParameter (first count : Nat) (entries : List ParamValue)
  | lot (first count : Nat) (entries : List LotWrite)
  | program (first count : Nat) (entries : List ProgramEntry)
  | wire (first count : Nat) (entries : List WireEntry)
  | recipe (first count : Nat) (entries : List RecipeEntry)
  | plan (first count : Nat) (entries : List PlanEntry)
  | limits (first count : Nat) (entries : List LimitsEntry)
  | terminal (first count : Nat) (entries : List (Option Level))
  | page (first count : Nat) (entries : List PageEntry)
  | tile (first count : Nat) (entries : List TileEntry)
  | keyMap (first count : Nat) (entries : List KeyEntry)
  | unit (first count : Nat)
  | candidate (first count : Nat)
  deriving DecidableEq, Repr

/-- A management request (R170). The last three are requests that no owning block takes: an unknown operation number, a table
name that is none of the tables, and content whose length does not suit its operation. -/
inductive Request where
  | tableWrite (w : TableWrite)
  | tableRead (t : TableName) (position : Option Position) (first count : Nat)
  | cellCmd (c : CellCmd)
  | headOp (o : HeadOp) (h : Option Head)
  | stripOp (o : StripOp)
  | slotOp (d : SlotOp) (slot : Nat)
  | programRelease (p : Nat)
  | pullAdd (seq unit wire : Nat)
  | pullRead (count : Nat)
  | pullRelease (n : Nat)
  | statsRead (p : Nat)
  | statsReset (sel : StatsSel)
  | alarmRead (first count : Nat)
  | alarmAck (code : Option AlarmCode) (scope : Option AlarmScope)
  | statusRead (section_ : Nat)
  | countersClear
  | restart
  | unknownOperation (n : Byte)
  | unknownTable (op : Byte)
  | malformed (op : Byte)
  deriving DecidableEq, Repr

/-- What a payload says, for the kinds whose byte layout the manual does not give (00_scope, Names): the frame carries its
bytes and, beside them, the message they stand for (DESIGN CHOICE, log entry 2). -/
inductive Says where
  | nothing
  | headEvt (e : HeadEvt)
  | feedEvt (e : FeedEvt)
  | trackEvt (e : TrackEvt)
  | heatSample (temperature : Nat)
  | pullResult (tag : Byte) (force mode : Nat) (status : StationStatus)
  | screenKey (key tile : Nat) (tag : BitVec 16)
  | request (r : Request)
  deriving DecidableEq, Repr

/-- A frame as it arrives at a port (R162, 11.9): header, the payload bytes that came, the CRC, and what the payload says. -/
structure RxFrame where
  dst : Byte
  src : Byte
  kind : Byte
  length : Byte
  payload : List Byte
  crc : BitVec 16
  reads : Says
  deriving DecidableEq, Repr

/-- An MREQ frame addressed to 1 (R169): tag, part number, LAST mark, content bytes, and the request that the gathered content
spells when this frame completes it. -/
structure MreqFrame where
  tag : Byte
  part : Nat
  last : Bool
  content : List Byte
  reads : Option Request
  deriving DecidableEq, Repr

/-- The cause of a full reset (R176). -/
inductive FullCause where
  | power | line
  deriving DecidableEq, Repr

/-- The commands: one constructor per row of spec/opcode_table.json. A management command carries the tag of its request (R169);
an event of a field node carries the node's address `src`, whose role decides who takes it (R165). -/
inductive Instr where
  | fullReset (cause : FullCause)
  | estopAssert
  | estopRelease
  | millisecondTick
  | dwellComplete
  | fPortFrame (f : RxFrame)
  | uPortFrame (f : RxFrame)
  | fPortFrameSent
  | uPortFrameSent
  | tileIntervalExpiry (t : Term)
  | mreq (f : MreqFrame)
  | tableWriteForwarding (tag : Byte) (first count : Nat) (entries : List ForwardingWrite)
  | tableWriteKind (tag : Byte) (first count : Nat) (entries : List (Option KindAction))
  | tableWriteCellParameter (tag : Byte) (first count : Nat) (entries : List ParamValue)
  | tableWriteLot (tag : Byte) (first count : Nat) (entries : List LotWrite)
  | tableWriteProgram (tag : Byte) (first count : Nat) (entries : List ProgramEntry)
  | tableWriteWire (tag : Byte) (first count : Nat) (entries : List WireEntry)
  | tableWriteRecipe (tag : Byte) (first count : Nat) (entries : List RecipeEntry)
  | tableWritePlan (tag : Byte) (first count : Nat) (entries : List PlanEntry)
  | tableWriteLimits (tag : Byte) (first count : Nat) (entries : List LimitsEntry)
  | tableWriteTerminal (tag : Byte) (first count : Nat) (entries : List (Option Level))
  | tableWritePage (tag : Byte) (first count : Nat) (entries : List PageEntry)
  | tableWriteTile (tag : Byte) (first count : Nat) (entries : List TileEntry)
  | tableWriteKeyMap (tag : Byte) (first count : Nat) (entries : List KeyEntry)
  | tableWriteUnit (tag : Byte) (first count : Nat)
  | tableWriteCandidate (tag : Byte) (first count : Nat)
  | tableReadForwarding (tag : Byte) (first count : Nat)
  | tableReadKind (tag : Byte) (first count : Nat)
  | tableReadCellParameter (tag : Byte) (first count : Nat)
  | tableReadLot (tag : Byte) (first count : Nat)
  | tableReadProgram (tag : Byte) (first count : Nat)
  | tableReadWire (tag : Byte) (first count : Nat)
  | tableReadRecipe (tag : Byte) (first count : Nat)
  | tableReadUnit (tag : Byte) (first count : Nat)
  | tableReadCandidate (tag : Byte) (position : Position) (first count : Nat)
  | tableReadPlan (tag : Byte) (first count : Nat)
  | tableReadLimits (tag : Byte) (first count : Nat)
  | tableReadTerminal (tag : Byte) (first count : Nat)
  | tableReadPage (tag : Byte) (first count : Nat)
  | tableReadTile (tag : Byte) (first count : Nat)
  | tableReadKeyMap (tag : Byte) (first count : Nat)
  | cellCmdArm (tag : Byte)
  | cellCmdStart (tag : Byte)
  | cellCmdDrain (tag : Byte)
  | cellCmdPause (tag : Byte)
  | cellCmdResume (tag : Byte)
  | cellCmdStop (tag : Byte)
  | headOpEnable (tag : Byte) (h : Option Head)
  | headOpDisable (tag : Byte) (h : Option Head)
  | headOpPause (tag : Byte) (h : Option Head)
  | headOpResume (tag : Byte) (h : Option Head)
  | headOpClearFault (tag : Byte) (h : Option Head)
  | stripOpAcceptId (tag : Byte) (seq : Nat)
  | stripOpScrap (tag : Byte) (seq : Nat)
  | stripOpSkipUnit (tag : Byte) (seq unit : Nat)
  | stripOpNsbResume (tag : Byte) (seq unit wire : Nat)
  | stripOpRebondWire (tag : Byte) (seq unit wire : Nat)
  | stripOpWaiveWire (tag : Byte) (seq unit wire : Nat)
  | slotOpAcceptSensed (tag : Byte) (slot : Nat)
  | slotOpSkipSlot (tag : Byte) (slot : Nat)
  | programRelease (tag : Byte) (p : Nat)
  | pullAdd (tag : Byte) (seq unit wire : Nat)
  | pullRead (tag : Byte) (count : Nat)
  | pullRelease (tag : Byte) (n : Nat)
  | statsRead (tag : Byte) (p : Nat)
  | statsReset (tag : Byte) (sel : StatsSel)
  | alarmRead (tag : Byte) (first count : Nat)
  | alarmAck (tag : Byte) (code : Option AlarmCode) (scope : Option AlarmScope)
  | statusRead (tag : Byte) (section_ : Nat)
  | countersClear (tag : Byte)
  | restart (tag : Byte)
  | magIn (src : Byte) (sensed : SlotMap)
  | magOut (src : Byte)
  | stripIn (src : Byte) (code : Option StripCode)
  | feedFault (src : Byte)
  | pushTimeout
  | outputMagIn (src : Byte) (sensed : SlotMap)
  | outputMagOut (src : Byte)
  | pushGrant
  | movePbGrant
  | moveBpGrant
  | ejectGrant
  | moveDone (src : Byte) (origin : Origin) (n : Byte)
  | trackFault (src : Byte) (origin : Origin) (n : Byte)
  | moveTimeout
  | ejected (src : Byte) (slot : Nat)
  | outputFeedFault (src : Byte)
  | heatSample (src : Byte) (temperature : Nat)
  | heatSignalTimerExpiry
  | touchdown (src : Byte) (n : Byte)
  | usSample (src : Byte) (feedback : BitVec 16) (seq : Byte) (generatorFault : Bool)
  | startupTimeout (h : Head)
  | lossWindowExpiry (h : Head)
  | bondEnd (src : Byte) (n : Byte) (continuity : Continuity) (deformation : Nat)
  | wireDone (src : Byte) (n : Byte)
  | aborted (src : Byte) (n : Byte)
  | motionFault (src : Byte)
  | headDeadlineExpiry (h : Head)
  | pullReq
  | pullResult (src : Byte) (tag : Byte) (force mode : Nat) (status : StationStatus)
  | pullRequestTimeout
  | screenKey (src : Byte) (key tile : Nat) (tag : BitVec 16)
  | resetLineAsserted
  deriving DecidableEq, Repr

end Sys2Proof
end

