-- ==== Sys2Proof/Config.lean ====
section
/-! DEFINITION. What the manual fixes as numbers, and the free values: what the manual leaves open. A free value has no
body, so that no proof can lean on what it is. -/

namespace Sys2Proof.Config

/-- Timeout of a push and of an ejection, in ms (R11, R25, R30). -/
def pushTimeout : Nat := 3000
/-- Timeout of MOVE_PB and MOVE_BP, in ms (R25, R28, R29). -/
def moveTimeout : Nat := 2000
/-- The heat signal timer, in ms (R36). -/
def heatTimeout : Nat := 1000
/-- The pull request timeout, in ms (R121). -/
def pullTimeout : Nat := 5000
/-- Deadline of TOUCHDOWN, in ms (R67). -/
def touchdownLimit : Nat := 200
/-- Deadline of BOND_END, in ms (R69). -/
def bondEndLimit : Nat := 50
/-- Deadline of WIRE_DONE, in ms (R70, R73). -/
def wireDoneLimit : Nat := 100

/-- Slots of a magazine (R1, R15). -/
def slots : Nat := 40
/-- Entries of the alarm list (R137). -/
def alarmRoom : Nat := 32
/-- Records of the pull log (R125). -/
def logRoom : Nat := 512
/-- Count at which the log is half full (R126). -/
def logHalf : Nat := 256
/-- Candidates of one strip (R116). -/
def candidateRoom : Nat := 48
/-- Notices of the notice queue (R173). -/
def noticeRoom : Nat := 16
/-- Frames of the U→F forward queue (R167). -/
def ufRoom : Nat := 8
/-- Frames of the F→U forward queue (R167). -/
def fuRoom : Nat := 16
/-- MREP frames of the U-port reply list (R168). -/
def replyRoom : Nat := 8
/-- Requests of the management request queue (R169). -/
def requestRoom : Nat := 4
/-- Content bytes that one MREQ or MREP frame carries (R169). -/
def partBytes : Nat := 58
/-- Frames of one request or reply at most (R169). -/
def partsAtMost : Nat := 8
/-- Largest payload of a frame (R162). -/
def payloadMax : Nat := 60

/-- FREE VALUE (DESIGN CHOICE, log entry 3). Which head is taken first where the manual lets either be: true for head A (R51, R54, R78). The
argument is the state's counter of free choices. -/
opaque firstHeadIsA : Nat → Bool

/-- FREE VALUE (DESIGN CHOICE, log entry 4). The bytes, less one, that one entry of a table takes in a reply: the manual gives no layout for
table entries. One entry alone always fits in a reply of 8 frames. -/
opaque entryBytesLessOne : TableName → Fin 461

/-- FREE VALUE (DESIGN CHOICE, log entry 4). The data bytes of any other reply whose layout the manual does not give, from the operation
number, the section or index asked for and the number of items returned. Such a reply always fits in 8 frames. -/
opaque replyDataBytes : Byte → Nat → Nat → Fin 462

/-- FREE VALUE (DESIGN CHOICE, log entry 5). The operation that a reply echoes where no operation of the request is known (R169). -/
opaque unstatedOperation : Nat → Byte

end Sys2Proof.Config
end

