-- ==== Sys2Proof/Machine/State.lean ====
section
/-! DEFINITION. The state of the part as plain data: one record for each of the eleven blocks, holding everything the manual
gives it (chapters 1 to 11), the queue of waiting commands, and State.reset. -/

namespace Sys2Proof.Machine

/-! ### Words shared by the blocks -/

/-- A value for each head. -/
structure PerHead (α : Type) where
  a : α
  b : α
  deriving DecidableEq, Repr

/-- A value for each terminal. -/
structure PerTerm (α : Type) where
  t1 : α
  t2 : α
  t3 : α
  t4 : α
  deriving DecidableEq, Repr

/-- The cell state (R174). -/
inductive CellState where
  | stopped | ready | run | drain
  deriving DecidableEq, Repr

/-- The reset cause (R176). -/
inductive ResetCause where
  | none | power | line | restart
  deriving DecidableEq, Repr

/-- The result codes of R170. -/
inductive ResultCode where
  | ok | busy | badOp | badTable | badIndex | badValue | duplicate | inUse | badState | notFound | notShown | owned
  deriving DecidableEq, Repr

/-- A display tag (R155); the widths are those of its 16-bit layout (11.9). -/
inductive DisplayTag where
  | none
  | alarm (code : AlarmCode) (scope : AlarmScope)
  | strip (r : BitVec 7)
  | unit (r : BitVec 7) (u : BitVec 6)
  | head (h : Head)
  | program (p : BitVec 3)
  | slot (n : BitVec 6)
  deriving DecidableEq, Repr

/-! ### Bond summaries and head data (chapters 4 to 6) -/

/-- BALL and STITCH; NONE between wires (R60). -/
inductive Phase where
  | none | ball | stitch
  deriving DecidableEq, Repr

/-- How a bond with a summary ended (R95). -/
inductive BondOutcome where
  | complete | trip | sampleLoss
  deriving DecidableEq, Repr

/-- The trip source (R92). -/
inductive TripSource where
  | generator | feedback
  deriving DecidableEq, Repr

/-- The bond summary (R95). -/
structure BondSummary where
  recipe : Nat
  profileLength : Nat
  samples : Nat
  energy : Nat
  peak : Nat
  startupCount : Nat
  slowStart : Bool
  sampleGap : Bool
  lowEnergy : Bool
  highEnergy : Bool
  outcome : BondOutcome
  tripSource : Option TripSource
  deriving DecidableEq, Repr

/-- A wire of a strip: sequence number, unit, wire index (R60). -/
structure WireRef where
  seq : Nat
  unit : Nat
  wire : Nat
  deriving DecidableEq, Repr

/-- The head states (R61). -/
inductive HeadState where
  | off | idle | parked | moving | bonding | forming | hold | fault
  deriving DecidableEq, Repr

/-- The hold reasons (R62). -/
inductive HoldReason where
  | operator | cell | heat | nsb | alarm | program | faultCleared
  deriving DecidableEq, Repr

/-- The hold reason set: one flag a reason, so no duplicates (R60). -/
structure HoldSet where
  operator : Bool := false
  cell : Bool := false
  heat : Bool := false
  nsb : Bool := false
  alarm : Bool := false
  program : Bool := false
  faultCleared : Bool := false
  deriving DecidableEq, Repr

/-- The events a head controller awaits (R60). -/
inductive AwaitedEvent where
  | touchdown | bondEnd | wireDone
  deriving DecidableEq, Repr

/-- The awaited event with its deadline on the timebase (R60). -/
structure Awaited where
  event : AwaitedEvent
  deadline : Time
  deriving DecidableEq, Repr

/-- The pending NSB decision (R73). -/
structure NsbDecision where
  wire : WireRef
  phase : Phase
  deriving DecidableEq, Repr

/-- The fault causes (R75). -/
inductive FaultCause where
  | trip | sampleLoss | timeout | motion
  deriving DecidableEq, Repr

/-- The head context (R60). `abandoning` tells which of FINISH and ABANDON put the head in FORMING: the WIRE_DONE is handled
by the command it answers (R71, R73) (DESIGN CHOICE, log entry 27). -/
structure HeadCtx where
  state : HeadState := .off
  hold : HoldSet := {}
  wire : Option WireRef := none
  phase : Phase := .none
  retries : Nat := 0
  retried : Bool := false
  cmdNo : Byte := 0
  awaited : Option Awaited := none
  nsb : Option NsbDecision := none
  faulted : Option WireRef := none
  cause : Option FaultCause := none
  bonded : Nat := 0
  missed : Nat := 0
  retriesSent : Nat := 0
  abandoning : Bool := false
  deriving DecidableEq, Repr

/-- The channel states (R83). -/
inductive ChannelState where
  | disabled | idle | startup | regulate | tripped
  deriving DecidableEq, Repr

/-- The limit state Lim (R82). -/
inductive LimState where
  | none | high | low
  deriving DecidableEq, Repr

/-- The regulator channel context (R82). -/
structure Channel where
  state : ChannelState := .disabled
  recipe : Option Nat := none
  k : Nat := 0
  prevSeq : Option Byte := none
  integ : Int := 0
  dPrev : Nat := 0
  lim : LimState := .none
  tripCount : Nat := 0
  energy : Nat := 0
  peak : Nat := 0
  startupCount : Nat := 0
  slowStart : Bool := false
  sampleGap : Bool := false
  window : Bool := false
  lastDrive : Option Nat := none
  lastSummary : Option BondSummary := none
  deriving DecidableEq, Repr

/-- A verdict or a vote result (R99, R100). -/
inductive Verdict where
  | stick | nonStick
  deriving DecidableEq, Repr

/-- The last vote of a head (R98): the verdicts, how many, the result and DISSENT. -/
structure LastVote where
  continuity : Option Verdict
  energy : Verdict
  deformation : Verdict
  count : Nat
  result : Verdict
  dissent : Bool
  deriving DecidableEq, Repr

/-- One entry of a wire vote record (R98, R101). -/
structure VoteEntry where
  summary : BondSummary
  dissent : Bool
  deriving DecidableEq, Repr

/-- The wire vote record of a head (R98). -/
structure VoteRecord where
  ball : Option VoteEntry := none
  stitch : Option VoteEntry := none
  deriving DecidableEq, Repr

/-! ### Feed Controller (chapter 1) -/

/-- A lot table entry as stored (R1). -/
structure LotEntry where
  expected : Occupancy := .empty
  dontCare : Bool := false
  program : Option Nat := none
  skip : UnitMarks := 0
  code : Option StripCode := none
  deriving DecidableEq, Repr

/-- The input magazine states (R3). -/
inductive MagState where
  | absent | scanning | ready | feeding | exhausted
  deriving DecidableEq, Repr

/-- A slot's push state (R3). -/
inductive PushState where
  | notPushed | pushed | failed
  deriving DecidableEq, Repr

/-- A slot's working marks (R3). -/
structure SlotMarks where
  sensed : Occupancy := .empty
  masked : Bool := false
  skipped : Bool := false
  push : PushState := .notPushed
  deriving DecidableEq, Repr

/-- The push in flight (R11). `magTouched`: a MAG_IN or MAG_OUT of the FEED_IN node has been taken since the grant (R13)
(DESIGN CHOICE, log entry 27). -/
structure PushInFlight where
  slot : Nat
  program : Nat
  skip : UnitMarks
  code : Option StripCode
  grantTime : Time
  magTouched : Bool := false
  deriving DecidableEq, Repr

/-- The output magazine states (R15). -/
inductive OutState where
  | absent | ready | full
  deriving DecidableEq, Repr

/-- What FDC holds. `dir` and `outDir` are the directions in force: a write of either parameter takes effect only when its
pointer is next set (R9, R15). The next slot is worked out from these fields (DESIGN CHOICE, log entry 15). `outNext` is
the next free output slot, which the last search of R15 found, and none unless the output magazine is READY (DEDUCED, log entry 42). -/
structure Fdc where
  lot : List LotEntry := List.replicate 40 {}
  mag : MagState := .absent
  marks : List SlotMarks := List.replicate 40 {}
  pendingSlot : Option Nat := none
  resume : Nat := 0
  pointer : Option Nat := none
  dir : Direction := .up
  push : Option PushInFlight := none
  out : OutState := .absent
  outFull : SlotMap := 0
  fill : Option Nat := none
  outDir : Direction := .up
  reserved : Option Nat := none
  outNext : Option Nat := none
  deriving DecidableEq, Repr

/-! ### Track Controller (chapter 2) and the candidate lists (chapter 7) -/

/-- Why a wire is a candidate (R116). -/
inductive CandidateReason where
  | planned | dissent | highEnergy | slowStart | retried | operator
  deriving DecidableEq, Repr

/-- The statuses of a candidate (R116). -/
inductive CandidateStatus where
  | waiting | bonded | notBonded | pulled | cancelled
  deriving DecidableEq, Repr

/-- A pull candidate (R116). -/
structure Candidate where
  unit : Nat
  wire : Nat
  reason : CandidateReason
  ball : Option BondSummary := none
  stitch : Option BondSummary := none
  head : Option Head := none
  status : CandidateStatus
  record : Option Nat := none
  deriving DecidableEq, Repr

/-- The strip states (R21). -/
inductive StripState where
  | idHold | preheat | waitBond | bonding | checking | released | pulling | done | ejecting
  deriving DecidableEq, Repr

/-- The strip record (R19). Its position is the field of Trc that holds it. `former` is the state name before EJECTING, to
which a failed ejection returns (R31). `candidates` is the strip's candidate list, which PLM keeps (R116). -/
structure StripRecord where
  seq : Nat
  code : Option StripCode
  slot : Nat
  program : Nat
  state : StripState
  former : StripState := .done
  skip : UnitMarks
  dwell : Nat := 0
  idUnread : Bool := false
  scrapped : Bool := false
  overflow : Bool := false
  rejectUnits : Bool := false
  logWait : Bool := false
  wiresBonded : Nat := 0
  wiresMissed : Nat := 0
  wiresRetried : Nat := 0
  pullFails : Nat := 0
  dest : Option Nat := none
  candidates : List Candidate := []
  deriving DecidableEq, Repr

/-- The indexer's operations (R25). -/
inductive OpKind where
  | push | movePb | moveBp | eject
  deriving DecidableEq, Repr

/-- The operation in flight (R25). -/
structure IndexerOp where
  kind : OpKind
  strip : Option Nat
  moveNo : Option Byte
  slot : Option Nat
  grantTime : Time
  timeout : Nat
  deriving DecidableEq, Repr

/-- The heat monitor states (R35). -/
inductive HeatState where
  | notReady | settling | ready
  deriving DecidableEq, Repr

/-- The heat monitor (R35, R36); `timer` is the time at which the running signal timer was started. -/
structure Heat where
  state : HeatState := .notReady
  counter : Nat := 0
  lastTemp : Option Nat := none
  timer : Option Time := none
  deriving DecidableEq, Repr

/-- What TRC holds; the indexer is FREE when `op` is none. -/
structure Trc where
  preheat : Option StripRecord := none
  bond : Option StripRecord := none
  post : Option StripRecord := none
  lastEjected : Option StripRecord := none
  nextSeq : Nat := 1
  op : Option IndexerOp := none
  moveNo : Byte := 0
  heat : Heat := {}
  deriving DecidableEq, Repr

/-! ### Unit Scheduler (chapter 3) and the coverage unit (chapter 6) -/

/-- The unit states (R47). -/
inductive UnitState where
  | pending | claimed | done | partial_ | skipped
  deriving DecidableEq, Repr

/-- A unit record with its done map and its waiver map (R47, R102), each the rising list of its marked wires. `rebond` is the
model's own: the wire of a rebond claim, none under a normal claim (R58, R60) (DESIGN CHOICE, log entry 43). -/
structure UnitRecord where
  state : UnitState
  claimant : Option Head := none
  rebond : Option Nat := none
  resume : Nat := 0
  lastHead : Option Head := none
  skipPending : Bool := false
  rejected : Bool := false
  done : List Nat := []
  waived : List Nat := []
  deriving DecidableEq, Repr

/-- RUNNING or HELD (R40). -/
inductive ProgramState where
  | running | held
  deriving DecidableEq, Repr

/-- What USC holds; the unit records exist while a strip that arrived not scrapped lies at BOND. -/
structure Usc where
  programs : List ProgramEntry := List.replicate 8 {}
  wires : List WireEntry := List.replicate 1536 {}
  units : Option (List UnitRecord) := none
  deriving DecidableEq, Repr

/-- The scan states (R98). -/
inductive ScanState where
  | notStarted | stopped | rebond | passed | ended
  deriving DecidableEq, Repr

/-- What VCU holds; the waiver maps stand in the unit records. -/
structure Vcu where
  votes : PerHead VoteRecord := ⟨{}, {}⟩
  last : PerHead (Option LastVote) := ⟨none, none⟩
  scan : Option ScanState := none
  pos : Option (Nat × Nat) := none
  pendingWire : Option (Nat × Nat) := none
  rebondHead : Option Head := none
  deriving DecidableEq, Repr

/-! ### Pull Manager (chapters 7 and 8) -/

/-- The verdicts of a pull record (R124). -/
inductive PullVerdict where
  | pass | fail | noResult | notBonded
  deriving DecidableEq, Repr

/-- A pull record (R124). -/
structure PullRecord where
  number : Nat
  time : Time
  seq : Nat
  code : Option StripCode
  program : Nat
  unit : Nat
  wire : Nat
  head : Option Head
  reason : CandidateReason
  ball : Option BondSummary
  stitch : Option BondSummary
  force : Option Nat
  mode : Option Nat
  status : Option StationStatus
  verdict : PullVerdict
  deriving DecidableEq, Repr

/-- The pull request in flight (R121). -/
structure PullRequest where
  tag : Byte
  seq : Nat
  unit : Nat
  wire : Nat
  sendTime : Time
  deriving DecidableEq, Repr

/-- The statistics of a program (R128); `failing` is the capability state FAILING. -/
structure Stats where
  n : Nat := 0
  sum : Nat := 0
  sumSq : Nat := 0
  min : Option Nat := none
  max : Option Nat := none
  saturated : Bool := false
  failing : Bool := false
  deriving DecidableEq, Repr

/-- What PLM holds. -/
structure Plm where
  plans : List PlanEntry := List.replicate 8 {}
  limits : List LimitsEntry := List.replicate 8 {}
  counters : List Nat := List.replicate 8 0
  log : List PullRecord := []
  nextRecord : Nat := 0
  half : Bool := false
  req : Option PullRequest := none
  pullTag : Byte := 0
  timeouts : Nat := 0
  stats : List Stats := List.replicate 8 {}
  progState : List ProgramState := List.replicate 8 .running
  deriving DecidableEq, Repr

/-! ### Alarm Controller (chapter 9) -/

/-- The states of a listed entry (R137). -/
inductive AlarmState where
  | active | activeAcked | cleared
  deriving DecidableEq, Repr

/-- An alarm entry (R137); its class is fixed by its code (R138). -/
structure AlarmEntry where
  code : AlarmCode
  scope : AlarmScope
  state : AlarmState
  first : Time
  last : Time
  repeats : Nat
  shown : Bool
  detail : Nat
  deriving DecidableEq, Repr

/-- What ALC holds, the list oldest first. -/
structure Alc where
  list : List AlarmEntry := []
  unlisted : Nat := 0
  deriving DecidableEq, Repr

/-! ### Terminal Controller (chapter 10) -/

/-- The last SCREEN_PUT of a tile (R150). -/
structure Sent where
  text : List Char
  tag : DisplayTag
  time : Time
  deriving DecidableEq, Repr

/-- A terminal entry (R150): `lastSent` lists the tiles sent since the last page change; `dirty` lists tile index and forced
mark in rising tile index order. -/
structure TermState where
  level : Level := .view
  page : Nat := 0
  lastSent : List (Nat × Sent) := []
  dirty : List (Nat × Bool) := []
  message : List Char := []
  messagePending : Bool := false
  frameWaiting : Bool := false
  pagePending : Bool := false
  deriving DecidableEq, Repr

/-- What TMC holds. -/
structure Tmc where
  terms : PerTerm TermState := ⟨{}, {}, {}, {}⟩
  pages : List PageEntry := List.replicate 16 {}
  tiles : List TileEntry := List.replicate 256 {}
  keys : List KeyEntry := List.replicate 256 {}
  deriving DecidableEq, Repr

/-! ### Cell Control (chapter 11) -/

/-- The cell parameters (R171). -/
structure Params where
  heatTarget : Nat := 0
  heatBand : Nat := 1
  heatHysteresis : Nat := 0
  settleCount : Nat := 1
  preheatDwell : Nat := 0
  policy : MissedPolicy := .ask
  inDir : Direction := .up
  inStart : Nat := 0
  outDir : Direction := .up
  outStart : Nat := 0
  deriving DecidableEq, Repr

/-- What CCS holds. `estop`: the E-stop line is asserted. `inReset`: the reset line is asserted (R176). -/
structure Ccs where
  cell : CellState := .stopped
  estop : Bool := false
  feedPause : Bool := false
  timebase : Time := 0
  params : Params := {}
  cause : ResetCause := .none
  inReset : Bool := false
  deriving DecidableEq, Repr

/-! ### Link Interface (chapter 11) -/

/-- A forwarding table entry (R164). -/
structure ForwardingEntry where
  role : Role := .unassigned
  valid : Bool := false
  deriving DecidableEq, Repr

/-- The three receive counts of a port (R162). -/
structure PortCounts where
  crc : Nat := 0
  length : Nat := 0
  overrun : Nat := 0
  deriving DecidableEq, Repr

/-- A frame that passed the receive checks. -/
structure LinkFrame where
  dst : Byte
  src : Byte
  kind : Byte
  payload : List Byte
  reads : Says
  deriving DecidableEq, Repr

/-- An absolute coordinate in µm (R46). -/
structure Site where
  x : Int
  y : Int
  deriving DecidableEq, Repr

/-- The commands of a HEAD_CMD (chapter 4); a RETRY names the site of the present bond (R72). -/
inductive HeadCmd where
  | wireGo (site1 site2 : Site) (dieLevel loopCode ballForce stitchForce : Nat)
  | retry (phase : Phase)
  | continue_
  | finish
  | abandon
  | abort
  deriving DecidableEq, Repr

/-- What the part's own F-port frames other than US_DRIVE carry. -/
inductive OwnBody where
  | headCmd (c : HeadCmd) (n : Byte)
  | feedPush (slot : Nat)
  | feedEject (slot : Nat)
  | trackMove (origin : Origin) (n : Byte)
  | pullReq (tag : Byte) (hook : Site) (seq unit wire : Nat)
  | screenPage (page : Nat)
  | screenTile (tile row column width : Nat) (tag : DisplayTag) (text : List Char)
  | screenMessage (text : List Char)
  deriving DecidableEq, Repr

/-- One of the part's own frames: the role it is made for and the address that held it. -/
structure OwnFrame where
  role : Role
  dst : Byte
  body : OwnBody
  deriving DecidableEq, Repr

/-- A US_DRIVE frame (R84, R88, R91). -/
structure DriveFrame where
  head : Head
  dst : Byte
  drive : Nat
  endMark : Bool
  deriving DecidableEq, Repr

/-- What the F-port transmitter is sending (R168). -/
inductive FTx where
  | drive (d : DriveFrame)
  | own (o : OwnFrame)
  | forwarded (f : LinkFrame)
  deriving DecidableEq, Repr

/-- The new state that an ALARM notice carries (R148). -/
inductive AlarmChange where
  | active | activeAcked | cleared | removed | notListed
  deriving DecidableEq, Repr

/-- The events of a STRIP notice (R22). -/
inductive StripEvent where
  | admitted | atBond | released | ejected | scrapped
  deriving DecidableEq, Repr

/-- The DECISION notices (R5, R12, R73, R104). -/
inductive Decision where
  | slotMismatch (slot : Nat) (expected sensed : Occupancy)
  | idMismatch (seq : Nat) (expected : StripCode) (read : Option StripCode)
  | nsbHold (h : Head) (wire : WireRef) (phase : Phase)
  | missedWire (wire : WireRef)
  deriving DecidableEq, Repr

/-- The levels of a PULL_LOG notice (R126). -/
inductive LogLevel where
  | half | full | belowHalf
  deriving DecidableEq, Repr

/-- The kinds of notice (R173). -/
inductive Notice where
  | started (cause : ResetCause)
  | alarm (code : AlarmCode) (scope : AlarmScope) (change : AlarmChange) (detail repeats : Nat)
  | strip (seq : Nat) (event : StripEvent)
  | decision (d : Decision)
  | heat (ready : Bool)
  | pullLog (level : LogLevel)
  deriving DecidableEq, Repr

/-- A queued notice with its DROPPED mark (R173). -/
structure NoticeFrame where
  notice : Notice
  dropped : Bool
  deriving DecidableEq, Repr

/-- What a read of one program returns (R45). -/
structure ProgramRead where
  entry : ProgramEntry
  state : ProgramState
  inUse : Bool
  strips : Nat
  deriving DecidableEq, Repr

/-- What a read of one terminal returns (R150). -/
structure TerminalRead where
  level : Level
  page : Nat
  address : Option Nat
  dirtyCount : Nat
  message : List Char
  deriving DecidableEq, Repr

/-- What STATS_READ returns (R131); a derived value is none where it is not valid. -/
structure StatsReport where
  stats : Stats
  mean : Option Nat
  sd : Option Nat
  margin : Option Int
  state : ProgramState
  strips : Nat
  deriving DecidableEq, Repr

/-- The sections of STATUS_READ (R172). -/
inductive StatusReport where
  | cell (cell : CellState) (estop feedPause : Bool) (timebase : Time) (cause : ResetCause) (dropped : Nat)
  | link (u f : PortCounts) (ufFill fuFill requestFill noticeFill : Nat)
  | feed (mag : MagState) (pendingSlot : Option Nat) (resume : Nat) (pointer next : Option Nat) (push : Option PushInFlight)
      (out : OutState) (fill reserved : Option Nat)
  | track (preheat bond post lastEjected : Option StripRecord) (op : Option IndexerOp) (heat : Heat)
  | head (ctx : HeadCtx) (channel : Channel) (vote : Option LastVote)
  | scan (state : Option ScanState) (pos pendingWire : Option (Nat × Nat)) (rebondHead : Option Head)
  | pull (count : Nat) (oldest : Option Nat) (next : Nat) (half : Bool) (req : Option PullRequest) (timeouts : Nat) (tag : Byte)
  deriving DecidableEq, Repr

/-- The data of a reply (R169). -/
inductive ReplyData where
  | none
  | gate (kind dst : Byte)
  | forwarding (es : List ForwardingEntry)
  | kinds (es : List KindAction)
  | params (es : List ParamValue)
  | lot (es : List (LotEntry × SlotMarks))
  | programs (es : List ProgramRead)
  | wires (es : List (WireEntry × Bool))
  | recipes (es : List (RecipeEntry × Nat × Bool))
  | units (es : List UnitRecord)
  | candidates (es : List Candidate)
  | plans (es : List (PlanEntry × Nat))
  | limits (es : List LimitsEntry)
  | terminals (es : List TerminalRead)
  | pages (es : List PageEntry)
  | tiles (es : List TileEntry)
  | keys (es : List KeyEntry)
  | pullRecords (es : List PullRecord)
  | stats (r : StatsReport)
  | alarms (listed unlisted : Nat) (es : List (Nat × AlarmEntry))
  | status (r : StatusReport)
  deriving DecidableEq, Repr

/-- What the owning block answers a request with (R169) (DESIGN CHOICE, log entry 35). -/
structure Answer where
  result : ResultCode
  index : Nat := 0
  data : ReplyData := .none
  deriving DecidableEq, Repr

/-- One MREP frame of a reply (R169); each frame of a reply carries the whole answer, since the manual gives most data no
bytes. -/
structure Mrep where
  tag : Byte
  part : Nat
  last : Bool
  op : Byte
  answer : Answer
  deriving DecidableEq, Repr

/-- What the U-port transmitter is sending (R168). -/
inductive UTx where
  | reply (m : Mrep)
  | notice (n : NoticeFrame)
  | forwarded (f : LinkFrame)
  deriving DecidableEq, Repr

/-- An unfinished gathering (R169): its tag, the last part number taken and the content so far. -/
structure Gathering where
  tag : Byte
  part : Nat
  content : List Byte
  deriving DecidableEq, Repr

/-- What LIF holds. Frames of the U-port wait with a stamp, the order in which they became ready (R168); `stamp` is the next
one. -/
structure Lif where
  forwarding : List ForwardingEntry := List.replicate 64 {}
  kinds : List KindAction := List.replicate 192 .pass
  uCounts : PortCounts := {}
  fCounts : PortCounts := {}
  ufQueue : List LinkFrame := []
  fuQueue : List (Nat × LinkFrame) := []
  gathering : Option Gathering := none
  requests : List (Byte × Request) := []
  replies : List (Nat × Mrep) := []
  notices : List (Nat × NoticeFrame) := []
  dropped : Nat := 0
  droppedMark : Bool := false
  drives : List DriveFrame := []
  own : List OwnFrame := []
  fTx : Option FTx := none
  uTx : Option UTx := none
  stamp : Nat := 0
  deriving DecidableEq, Repr

/-! ### The whole part -/

/-- The state of the part. `free` counts the free choices made so far (DESIGN CHOICE, log entry 3); `pending` is the queue of commands that
wait, first in, first out. -/
structure State where
  ccs : Ccs := {}
  lif : Lif := {}
  fdc : Fdc := {}
  trc : Trc := {}
  usc : Usc := {}
  heads : PerHead HeadCtx := ⟨{}, {}⟩
  channels : PerHead Channel := ⟨{}, {}⟩
  recipes : List RecipeEntry := List.replicate 32 {}
  vcu : Vcu := {}
  plm : Plm := {}
  alc : Alc := {}
  tmc : Tmc := {}
  free : Nat := 0
  pending : List Instr := []
  deriving DecidableEq, Repr

/-- No step of this block ends in a fault: every command of the table has an effect or, where its event cannot come about in
the present state, leaves the state as it is. -/
inductive Fault where
  deriving DecidableEq, Repr

/-- Why a command is refused. -/
inductive Refusal where
  /-- Raised by exec's arm of a command that has no meaning yet; safe. No arm raises it. -/
  | notModelled (mnemonic : String)
  deriving DecidableEq, Repr

/-- The part right after power-on with the E-stop line released: every block at its full reset values, the reset cause POWER,
and STARTED, queued first, taken by the U-port transmitter, which is free (R176, R173, R168). -/
def State.reset : State :=
  { ccs := { cause := .power }
    lif := { uTx := some (.notice { notice := .started .power, dropped := false }), stamp := 1 } }

end Sys2Proof.Machine
end

