-- ==== Sys2Proof/Machine/Ops.lean ====
section
/-! DEFINITION. The named operations over the state that every block uses: the two heads and four terminals, the strip records,
times, marks, the notices of LIF and the part's own frames. -/

namespace Sys2Proof.Machine

/-- What a command answers. -/
abbrev Out := Host.Outcome State Fault Refusal

/-- What the owning block makes of a management request: the state after it and its answer (R169). -/
abbrev Served := State × Answer

/-- The request replies OK. -/
def accept (s : State) : Served := (s, { result := .ok })

/-- The request replies OK with data. -/
def acceptWith (d : ReplyData) (s : State) : Served := (s, { result := .ok, data := d })

/-- The request is refused with a result code, and nothing changes. -/
def refuse (c : ResultCode) (s : State) : Served := (s, { result := c })

/-- A table write is refused with a result code and the index of its failing entry, and nothing is stored (R170). -/
def refuseAt (c : ResultCode) (i : Nat) (s : State) : Served := (s, { result := c, index := i })

/-! ### Small helpers -/

/-- The largest integer whose square does not exceed `x`, bit by bit from bit `n - 1` down (R131). -/
def isqrtBits (x : Nat) : Nat → Nat → Nat
  | 0, acc => acc
  | n + 1, acc => isqrtBits x n (if (acc + 2 ^ n) * (acc + 2 ^ n) ≤ x then acc + 2 ^ n else acc)

/-- The largest integer whose square does not exceed `x` (R131). -/
def isqrt (x : Nat) : Nat := isqrtBits x (x.log2 / 2 + 1) 0

/-- Put a mark into a rising list of marks (done and waiver maps, R47, R102). -/
def insertMark (l : List Nat) (v : Nat) : List Nat :=
  match l with
  | [] => [v]
  | x :: xs => if v < x then v :: x :: xs else if v = x then x :: xs else x :: insertMark xs v

/-- Set mark `i` of a unit skip map. -/
def markUnit (m : UnitMarks) (i : Nat) : UnitMarks := m ||| (1#64 <<< i)

/-- Set mark `i` of a slot map. -/
def markSlot (m : SlotMap) (i : Nat) : SlotMap := m ||| (1#40 <<< i)

/-- Change the entry at index `i` of a list, if there is one. -/
def modifyAt {α : Type} (l : List α) (i : Nat) (f : α → α) : List α := l.modify i f

/-- Store `es` from index `i` on. -/
def storeFrom {α : Type} (l : List α) (i : Nat) (es : List α) : List α :=
  match es with
  | [] => l
  | e :: rest => storeFrom (l.set i e) (i + 1) rest

/-- At least `ms` milliseconds lie between `start` and `now`; time differences are modulo 2^32 (00_scope, Time). -/
def elapsed (now start : Time) (ms : Nat) : Bool := decide (ms ≤ (now - start).toNat)

/-! ### The two heads, the four terminals -/

def PerHead.get {α : Type} (p : PerHead α) : Head → α
  | .a => p.a
  | .b => p.b

def PerHead.set {α : Type} (p : PerHead α) (h : Head) (x : α) : PerHead α :=
  match h with
  | .a => { p with a := x }
  | .b => { p with b := x }

def PerTerm.get {α : Type} (p : PerTerm α) : Term → α
  | .t1 => p.t1
  | .t2 => p.t2
  | .t3 => p.t3
  | .t4 => p.t4

def PerTerm.set {α : Type} (p : PerTerm α) (t : Term) (x : α) : PerTerm α :=
  match t with
  | .t1 => { p with t1 := x }
  | .t2 => { p with t2 := x }
  | .t3 => { p with t3 := x }
  | .t4 => { p with t4 := x }

/-- The head context of `h` (R60). -/
def State.head (s : State) (h : Head) : HeadCtx := s.heads.get h

/-- The fields that R60 gives a head context: `abandoning` is the model's own. -/
def HeadCtx.fields (c : HeadCtx) : HeadCtx := { c with abandoning := false }

/-- The fields that R11 gives the push in flight: `magTouched` is the model's own. -/
def PushInFlight.fields (p : PushInFlight) : PushInFlight := { p with magTouched := false }

/-- Change the head context of `h`. -/
def State.modHead (s : State) (h : Head) (f : HeadCtx → HeadCtx) : State :=
  { s with heads := s.heads.set h (f (s.heads.get h)) }

/-- The channel of head `h` (R82). -/
def State.chan (s : State) (h : Head) : Channel := s.channels.get h

/-- Replace the channel of head `h`. -/
def State.setChan (s : State) (h : Head) (c : Channel) : State := { s with channels := s.channels.set h c }

/-- The terminal entry of `t` (R150). -/
def State.term (s : State) (t : Term) : TermState := s.tmc.terms.get t

/-- Change the terminal entry of `t`. -/
def State.modTerm (s : State) (t : Term) (f : TermState → TermState) : State :=
  { s with tmc := { s.tmc with terms := s.tmc.terms.set t (f (s.tmc.terms.get t)) } }

/-- The timebase (R176). -/
def State.now (s : State) : Time := s.ccs.timebase

/-- Take each head in turn. Where neither is OFF the manual lets either be first: a free choice (DESIGN CHOICE, log entry 3). -/
def eachHead (f : Head → State → State) (s : State) : State :=
  if (s.head .a).state = .off ∨ (s.head .b).state = .off then f .b (f .a s)
  else
    let t := { s with free := s.free + 1 }
    if Config.firstHeadIsA s.free then f .b (f .a t) else f .a (f .b t)

/-! ### Hold sets (R62) -/

def HoldSet.has (r : HoldReason) (h : HoldSet) : Bool :=
  match r with
  | .operator => h.operator
  | .cell => h.cell
  | .heat => h.heat
  | .nsb => h.nsb
  | .alarm => h.alarm
  | .program => h.program
  | .faultCleared => h.faultCleared

def HoldSet.put (r : HoldReason) (b : Bool) (h : HoldSet) : HoldSet :=
  match r with
  | .operator => { h with operator := b }
  | .cell => { h with cell := b }
  | .heat => { h with heat := b }
  | .nsb => { h with nsb := b }
  | .alarm => { h with alarm := b }
  | .program => { h with program := b }
  | .faultCleared => { h with faultCleared := b }

/-- The set is empty. -/
def HoldSet.isEmpty (h : HoldSet) : Bool :=
  !(h.operator || h.cell || h.heat || h.nsb || h.alarm || h.program || h.faultCleared)

/-! ### Strip records (R19, R23) -/

def State.strip (s : State) : Position → Option StripRecord
  | .preheat => s.trc.preheat
  | .bond => s.trc.bond
  | .post => s.trc.post

def State.setStrip (s : State) (p : Position) (r : Option StripRecord) : State :=
  match p with
  | .preheat => { s with trc := { s.trc with preheat := r } }
  | .bond => { s with trc := { s.trc with bond := r } }
  | .post => { s with trc := { s.trc with post := r } }

/-- Change the record at a position, if it holds one. -/
def State.modStrip (s : State) (p : Position) (f : StripRecord → StripRecord) : State :=
  s.setStrip p ((s.strip p).map f)

/-- The position and record of the strip with this sequence number. -/
def State.findStrip (s : State) (seq : Nat) : Option (Position × StripRecord) :=
  [Position.preheat, .bond, .post].findSome? fun p =>
    match s.strip p with
    | some r => if r.seq = seq then some (p, r) else none
    | none => none

/-- The strip records on the track. -/
def State.strips (s : State) : List StripRecord :=
  s.trc.preheat.toList ++ s.trc.bond.toList ++ s.trc.post.toList

/-- The fields that R19 gives a strip record: the candidate list is PLM's (R116), and `former` is the model's own. -/
def StripRecord.fields (r : StripRecord) : StripRecord := { r with candidates := [], former := .done }

/-! ### Programs, wires and coordinates (R40, R41, R46) -/

def State.program (s : State) (p : Nat) : ProgramEntry := s.usc.programs.getD p {}

/-- Units of a program: rows × columns (R40). -/
def unitCount (e : ProgramEntry) : Nat := e.rows * e.columns

/-- The column of unit `u` (R46). -/
def unitColumn (e : ProgramEntry) (u : Nat) : Nat := u / e.rows

/-- The wire entry of wire index `w` of program `p` (R46). -/
def State.wireEntry (s : State) (p w : Nat) : WireEntry := s.usc.wires.getD ((s.program p).firstWire + w) {}

def State.recipe (s : State) (r : Nat) : RecipeEntry := s.recipes.getD r {}

/-- The origin of unit `u` (R46 step 2). -/
def unitOrigin (e : ProgramEntry) (u : Nat) : Site :=
  { x := e.originX + (u / e.rows : Nat) * e.pitchX, y := e.originY + (u % e.rows : Nat) * e.pitchY }

/-- The absolute site 1 of a wire (R46 step 4). -/
def State.site1 (s : State) (p u w : Nat) : Site :=
  let o := unitOrigin (s.program p) u
  let e := s.wireEntry p w
  { x := o.x + e.x1, y := o.y + e.y1 }

/-- The absolute site 2 of a wire (R46 step 4). -/
def State.site2 (s : State) (p u w : Nat) : Site :=
  let o := unitOrigin (s.program p) u
  let e := s.wireEntry p w
  { x := o.x + e.x2, y := o.y + e.y2 }

/-- The hook point: each coordinate floor((site 1 + site 2) / 2) (R121). -/
def State.hook (s : State) (p u w : Nat) : Site :=
  { x := ((s.site1 p u w).x + (s.site2 p u w).x) / 2, y := ((s.site1 p u w).y + (s.site2 p u w).y) / 2 }

/-- The recipe index of a bond phase of a wire (R68). -/
def State.recipeIndex (s : State) (p w : Nat) : Phase → Nat
  | .stitch => (s.wireEntry p w).stitchRecipe
  | _ => (s.wireEntry p w).ballRecipe

/-- The program is HELD (R40, R134). -/
def State.held (s : State) (p : Nat) : Bool := s.plm.progState.getD p .running = .held

/-! ### Unit records and claims (R47, R49) -/

/-- The unit records, none while no strip has any. -/
def State.units (s : State) : List UnitRecord := s.usc.units.getD []

def State.unit? (s : State) (u : Nat) : Option UnitRecord := s.units[u]?

/-- Change unit `u`'s record. -/
def State.modUnit (s : State) (u : Nat) (f : UnitRecord → UnitRecord) : State :=
  { s with usc := { s.usc with units := s.usc.units.map fun l => modifyAt l u f } }

/-- The fields that R47 gives a unit record, with its maps: `rebond` is the model's own (DESIGN CHOICE, log entry 43). -/
def UnitRecord.fields (u : UnitRecord) : UnitRecord := { u with rebond := none }

/-- The unit that head `h` claims (R60: the claim is kept in the unit record). -/
def State.claimOf (s : State) (h : Head) : Option Nat :=
  s.units.findIdx? fun u => u.claimant = some h

/-- The wire that a claim's head starts next: the rebond wire, or the resume wire (R60). -/
def UnitRecord.claimedWire (u : UnitRecord) : Nat := u.rebond.getD u.resume

/-- Every wire of the unit is marked done. -/
def UnitRecord.allDone (u : UnitRecord) (wires : Nat) : Bool := (List.range wires).all fun w => u.done.contains w

/-- The program of the strip at BOND. -/
def State.bondProgram (s : State) : Nat := (s.trc.bond.map (·.program)).getD 0

/-! ### Roles (R164) -/

/-- The role that an address holds; an entry holds a role only while it is valid. -/
def roleIn (t : List ForwardingEntry) (a : Nat) : Role :=
  match t[a]? with
  | some e => if e.valid then e.role else .unassigned
  | none => .unassigned

def State.roleAt (s : State) (a : Nat) : Role := roleIn s.lif.forwarding a

/-- The address that holds a role. -/
def addrIn (t : List ForwardingEntry) (r : Role) : Option Nat :=
  t.findIdx? fun e => e.valid && decide (e.role = r)

def State.addrOf (s : State) (r : Role) : Option Nat := addrIn s.lif.forwarding r

/-! ### Notices (R173) -/

/-- Queue a notice, or count it as dropped when the queue is full. -/
def notify (n : Notice) (s : State) : State :=
  if s.lif.notices.length < Config.noticeRoom then
    { s with lif := { s.lif with notices := s.lif.notices ++ [(s.lif.stamp, { notice := n, dropped := s.lif.droppedMark })]
                                 droppedMark := false
                                 stamp := s.lif.stamp + 1 } }
  else { s with lif := { s.lif with dropped := satAdd 255 s.lif.dropped 1, droppedMark := true } }

/-! ### The part's own F-port frames (R168) -/

/-- Make one of the part's own frames for the node that holds a role. With no such node no frame is made (DESIGN CHOICE, log entry 6). -/
def sendOwn (r : Role) (body : OwnBody) (s : State) : State :=
  match s.addrOf r with
  | some a => { s with lif := { s.lif with own := s.lif.own ++ [{ role := r, dst := BitVec.ofNat 8 a, body := body }] } }
  | none => s

/-- Make a US_DRIVE frame. At most one drive frame of a channel waits: a newer one takes the place of one still waiting
(DEDUCED, log entry 7). -/
def sendDrive (h : Head) (drive : Nat) (endMark : Bool) (s : State) : State :=
  match s.addrOf (.head h) with
  | some a =>
    { s with lif := { s.lif with drives := s.lif.drives.filter (fun d => d.head != h) ++
                                             [{ head := h, dst := BitVec.ofNat 8 a, drive := drive, endMark := endMark }] } }
  | none => s

/-! ### The transmitters (R168) -/

/-- The operation number of a request. -/
def opNumber : Request → Byte
  | .tableWrite _ => 1
  | .tableRead _ _ _ _ => 2
  | .cellCmd _ => 3
  | .headOp _ _ => 4
  | .stripOp _ => 5
  | .slotOp _ _ => 6
  | .programRelease _ => 7
  | .pullAdd _ _ _ => 8
  | .pullRead _ => 9
  | .pullRelease _ => 10
  | .statsRead _ => 11
  | .statsReset _ => 12
  | .alarmRead _ _ => 13
  | .alarmAck _ _ => 14
  | .statusRead _ => 15
  | .countersClear => 16
  | .restart => 17
  | .unknownOperation n => n
  | .unknownTable op => op
  | .malformed op => op

/-- The OK reply of a RESTART: RESTART alone answers OK under its operation number (R176). -/
def Mrep.restartOk (m : Mrep) : Bool := decide (m.op = opNumber .restart) && decide (m.answer.result = .ok)

/-- The OK reply of a RESTART has not been sent: it waits, or is still being sent. Until it has, the F-port transmitter takes no
frame, since that reply is sent before anything else of the restart (R176) (DEDUCED, log entry 11). -/
def Lif.restartUnsent (l : Lif) : Bool :=
  (match l.uTx with
   | some (.reply m) => m.restartOk
   | _ => false) || l.replies.any fun r => r.2.restartOk

/-- The frame that the F-port transmitter takes next, if one waits: a drive frame, then the part's own frames, then forwarded
frames (R168). -/
def pickF (l : Lif) : Lif :=
  match l.drives with
  | d :: rest => { l with drives := rest, fTx := some (.drive d) }
  | [] =>
    match l.own with
    | o :: rest => { l with own := rest, fTx := some (.own o) }
    | [] =>
      match l.ufQueue with
      | f :: rest => { l with ufQueue := rest, fTx := some (.forwarded f) }
      | [] => l

/-- Send the oldest forwarded frame up. -/
def pickForwarded (l : Lif) : Lif :=
  match l.fuQueue with
  | (_, f) :: rest => { l with fuQueue := rest, uTx := some (.forwarded f) }
  | [] => l

/-- The forwarded frame at the head of the queue became ready before stamp `k`. -/
def forwardedBefore (l : Lif) (k : Nat) : Bool :=
  match l.fuQueue with
  | (j, _) :: _ => decide (j < k)
  | [] => false

/-- The frame that the U-port transmitter takes next: the first ready among the oldest reply, the oldest notice when no reply
waits, and the oldest forwarded frame (R168) (DESIGN CHOICE, log entry 32). -/
def pickU (l : Lif) : Lif :=
  match l.replies with
  | (k, m) :: rest => if forwardedBefore l k then pickForwarded l else { l with replies := rest, uTx := some (.reply m) }
  | [] =>
    match l.notices with
    | (k, n) :: rest => if forwardedBefore l k then pickForwarded l else { l with notices := rest, uTx := some (.notice n) }
    | [] => pickForwarded l

/-- A free F-port transmitter sends when a frame waits, unless the OK reply of a RESTART has not been sent (R168, R176). -/
def kickF (s : State) : State :=
  { s with lif := if s.lif.fTx.isNone && !s.lif.restartUnsent then pickF s.lif else s.lif }

/-- A free U-port transmitter sends when a frame waits (R168). -/
def kickU (s : State) : State := { s with lif := if s.lif.uTx.isNone then pickU s.lif else s.lif }

/-- A transmitter that is free sends when frames wait (R168). -/
def kick (s : State) : State := kickU (kickF s)

end Sys2Proof.Machine
end

