-- ==== Sys2Proof/Machine/Flags.lean ====
section
/-! DEFINITION. What the blocks read off the state to decide: alarm classes and stop effects, ownership of nodes, the in-use
rules, the slot searches, the requests towards the indexer arbiter. -/

namespace Sys2Proof.Machine

/-! ### Alarms (R138, R145) -/

/-- The code's class is STOP (R138). -/
def isStop : AlarmCode → Bool
  | .slotMismatch | .inputEmpty | .heatNotReady | .missedWire | .pullTimeout | .pullCapability | .pullLogFull => false
  | .idMismatch | .feedJam | .outputFull | .trackJam | .heatSignal | .headFault | .nsop | .nsol | .pullStation | .pullFail
  | .estop => true

/-- The code is an event alarm: its condition clears as it is raised (R142). -/
def isEvent : AlarmCode → Bool
  | .slotMismatch | .missedWire | .pullTimeout => true
  | .inputEmpty | .heatNotReady | .pullCapability | .pullLogFull | .idMismatch | .feedJam | .outputFull | .trackJam
  | .heatSignal | .headFault | .nsop | .nsol | .pullStation | .pullFail | .estop => false

/-- The scope fits the code (R138, R144). -/
def scopeFits (sc : AlarmScope) : AlarmCode → Bool
  | .slotMismatch | .inputEmpty | .idMismatch | .feedJam => decide (sc = .feeder)
  | .outputFull | .trackJam | .missedWire | .pullTimeout | .pullStation | .pullLogFull => decide (sc = .track)
  | .heatSignal | .heatNotReady | .estop => decide (sc = .cell)
  | .headFault | .nsop | .nsol =>
    match sc with
    | .head _ => true
    | _ => false
  | .pullFail | .pullCapability =>
    match sc with
    | .program p => decide (p < 8)
    | _ => false

/-- The entry is effective: a STOP entry listed and not acknowledged (R145). -/
def AlarmEntry.effective (e : AlarmEntry) : Bool := isStop e.code && decide (e.state ≠ .activeAcked)

/-- The stop effect of a scope holds (R145). -/
def State.stopped (s : State) (sc : AlarmScope) : Bool := s.alc.list.any fun e => e.effective && decide (e.scope = sc)

/-- An effective STOP alarm of the head's scope or of scope CELL is listed (R62, R146). -/
def State.alarmHolds (s : State) (h : Head) : Bool := s.stopped (.head h) || s.stopped .cell

/-! ### Heads (R61) -/

/-- A wire is in progress: MOVING, BONDING or FORMING (R61). -/
def HeadState.working : HeadState → Bool
  | .moving | .bonding | .forming => true
  | .off | .idle | .parked | .hold | .fault => false

/-- A bond is running on the channel (R83). -/
def Channel.running (c : Channel) : Bool := decide (c.state = .startup) || decide (c.state = .regulate)

/-! ### Operations in flight and ownership (R164, R165) -/

/-- The indexer's operation in flight is of this kind. -/
def State.opIs (s : State) (k : OpKind) : Bool :=
  match s.trc.op with
  | some o => decide (o.kind = k)
  | none => false

/-- The node that holds this role is owned by the part (the table of R165). -/
def State.owned (s : State) : Role → Bool
  | .head h => decide ((s.head h).state ≠ .off)
  | .feedIn => decide (s.ccs.cell ≠ .stopped) || s.fdc.push.isSome
  | .feedOut => decide (s.ccs.cell ≠ .stopped) || s.opIs .eject
  | .track => decide (s.ccs.cell ≠ .stopped) || s.opIs .movePb || s.opIs .moveBp
  | .heater => decide (s.ccs.cell ≠ .stopped)
  | .pull => decide (s.ccs.cell ≠ .stopped) || s.plm.req.isSome
  | .term _ => true
  | .other | .unassigned => false

/-- The cell is in RUN or DRAIN. -/
def State.working (s : State) : Bool := decide (s.ccs.cell = .run) || decide (s.ccs.cell = .drain)

/-- The role's block is active, so that its node's entry cannot change role (R164). -/
def State.active (s : State) : Role → Bool
  | .head h => decide ((s.head h).state ≠ .off)
  | .feedIn => s.working || s.fdc.push.isSome
  | .feedOut => s.working || s.opIs .eject
  | .track => s.working || s.opIs .movePb || s.opIs .moveBp
  | .pull => s.working || s.plm.req.isSome
  | .heater => s.working
  | .term _ | .other | .unassigned => false

/-! ### In use (R44) -/

/-- The program is in use: a strip record of it exists, or a push in flight carries it. -/
def State.inUse (s : State) (p : Nat) : Bool :=
  s.strips.any (fun r => r.program == p) ||
  match s.fdc.push with
  | some x => x.program == p
  | none => false

/-- Strips of the program on the track (R45). -/
def State.stripCount (s : State) (p : Nat) : Nat := (s.strips.filter fun r => r.program == p).length

/-- Index `i` lies in the wire range of the program entry (R40). -/
def covers (e : ProgramEntry) (i : Nat) : Bool :=
  decide (e.firstWire ≤ i) && decide (i < e.firstWire + e.wireCount)

/-- The wire entries of a program's range. -/
def State.wiresOf (s : State) (e : ProgramEntry) : List WireEntry := (s.usc.wires.drop e.firstWire).take e.wireCount

/-- The wire entry is in use: it lies in the range of a program in use. -/
def State.wireInUse (s : State) (i : Nat) : Bool :=
  (List.range 8).any fun p => s.inUse p && covers (s.program p) i

/-- The wire entry lies in the range of a valid program. -/
def State.wireNeeded (s : State) (i : Nat) : Bool :=
  (List.range 8).any fun p => (s.program p).valid && covers (s.program p) i

/-- A wire entry of the program's range names the recipe. -/
def State.names (s : State) (e : ProgramEntry) (r : Nat) : Bool :=
  (s.wiresOf e).any fun w => w.ballRecipe == r || w.stitchRecipe == r

/-- The recipe is in use: a wire entry in the range of a program in use names it. -/
def State.recipeInUse (s : State) (r : Nat) : Bool :=
  (List.range 8).any fun p => s.inUse p && s.names (s.program p) r

/-- A wire entry in the range of a valid program names the recipe. -/
def State.recipeNeeded (s : State) (r : Nat) : Bool :=
  (List.range 8).any fun p => (s.program p).valid && s.names (s.program p) r

/-- The recipe entry is valid. -/
def State.recipeValid (s : State) (r : Nat) : Bool := (s.recipe r).valid

/-! ### Magazines (R8, R9, R15) -/

/-- The slots from `start` on in a direction, ending at slot 39 or slot 0: the search does not wrap. -/
def slotsFrom (d : Direction) (start : Nat) : List Nat :=
  match d with
  | .up => (List.range Config.slots).filter (start ≤ ·)
  | .down => ((List.range Config.slots).filter (· ≤ start)).reverse

/-- The slot may be the next slot: sensed OCCUPIED, not skipped, NOT_PUSHED (R9). -/
def SlotMarks.candidate (m : SlotMarks) : Bool :=
  decide (m.sensed = .occupied) && !m.skipped && decide (m.push = .notPushed)

/-- The next slot to feed (R9). -/
def State.nextSlot (s : State) : Option Nat :=
  match s.fdc.pointer with
  | some p => (slotsFrom s.fdc.dir p).find? fun n => (s.fdc.marks.getD n {}).candidate
  | none => none

/-- What a slot feeds: program, unit skip map and expected code (R8). -/
def State.feedValues (s : State) (n : Nat) : Nat × UnitMarks × Option StripCode :=
  let e := s.fdc.lot.getD n {}
  match e.program with
  | some p => (p, e.skip, e.code)
  | none => (0, 0, e.code)

/-- The search for the next free output slot: neither full nor reserved, from the fill pointer on (R15 step 3). -/
def Fdc.freeFrom (f : Fdc) : Option Nat :=
  match f.fill with
  | some p => (slotsFrom f.outDir p).find? fun n => !f.outFull.getLsbD n && decide (f.reserved ≠ some n)
  | none => none

/-- The next free output slot, none unless the output magazine is READY (R16, R153 value 19): what the search of R15 found at the last
MAG_IN or end of an ejection, so that it is always known while the magazine is READY. During an ejection it is the slot that the
ejection has reserved, unless a MAG_IN has made the search again (DEDUCED, log entry 42). -/
def State.nextFree (s : State) : Option Nat := if s.fdc.out = .ready then s.fdc.outNext else none

/-! ### The indexer's requests (R10, R25, R27) -/

/-- TRC reports the track empty: no strip on it and the indexer FREE (R23). -/
def State.trackEmpty (s : State) : Bool :=
  s.trc.preheat.isNone && s.trc.bond.isNone && s.trc.post.isNone && s.trc.op.isNone

/-- The push request stands (R10). -/
def State.pushStands (s : State) : Bool :=
  decide (s.ccs.cell = .run) && (decide (s.fdc.mag = .ready) || decide (s.fdc.mag = .feeding)) &&
  (match s.nextSlot with
   | some n =>
     let p := (s.feedValues n).1
     !s.held p && (s.program p).valid && !s.stopped (.program p)
   | none => false) &&
  !s.stopped .feeder && !s.stopped .cell && s.trc.preheat.isNone && !s.ccs.feedPause && s.fdc.push.isNone

/-- The general conditions of the moves and the ejection (R25). -/
def State.movesFree (s : State) : Bool :=
  s.working && !s.ccs.feedPause && !s.stopped .track && !s.stopped .cell

/-- A head holds a claim on a unit of the strip at BOND. -/
def State.anyClaim (s : State) : Bool := (s.claimOf .a).isSome || (s.claimOf .b).isSome

/-- The MOVE_PB request stands (R27). -/
def State.movePbStands (s : State) : Bool :=
  s.movesFree && s.trc.bond.isNone &&
  match s.trc.preheat with
  | some r => if r.scrapped then decide (r.state ≠ .ejecting) else decide (r.state = .waitBond)
  | none => false

/-- The MOVE_BP request stands (R27). -/
def State.moveBpStands (s : State) : Bool :=
  s.movesFree && s.trc.post.isNone &&
  match s.trc.bond with
  | some r => decide (r.state = .released) || (r.scrapped && !s.anyClaim)
  | none => false

/-- A pull request for the strip is in flight. -/
def State.pulling (s : State) (seq : Nat) : Bool :=
  match s.plm.req with
  | some q => q.seq == seq
  | none => false

/-- The EJECT request stands (R27). -/
def State.ejectStands (s : State) : Bool :=
  s.movesFree && decide (s.fdc.out = .ready) &&
  match s.trc.post with
  | some r => if r.scrapped then !s.pulling r.seq else decide (r.state = .done)
  | none => false

/-! ### Pull candidates (R116, R120) -/

/-- The candidate still needs its record: neither recorded nor CANCELLED (R120). -/
def Candidate.open_ (c : Candidate) : Bool := c.record.isNone && decide (c.status ≠ .cancelled)

/-- The strip's next candidate in list order (R120). -/
def StripRecord.nextCandidate (r : StripRecord) : Option Candidate := r.candidates.find? (·.open_)

end Sys2Proof.Machine
end

