-- ==== Sys2Proof/Machine/Channel.lean ====
section
/-! DEFINITION. The regulator channel (chapter 5) as functions of the channel context and the recipe, and the stick vote
(chapter 6). What they send is returned as data; the head controller sends it. -/

namespace Sys2Proof.Machine

/-! ### Profiles (R79) -/

/-- The segments that take part in the profile. -/
def segmentsOf (r : RecipeEntry) : List Segment := [r.seg1, r.seg2, r.seg3, r.seg4].take r.segCount

/-- The profile length L. -/
def profileLength (r : RecipeEntry) : Nat := ((segmentsOf r).map (·.length)).sum

/-- The setpoint of the segment that covers sample `k` (R79, R89 step 7). -/
def setpointAt (segs : List Segment) (k : Nat) : Nat :=
  match segs with
  | [] => 0
  | s :: rest => if k ≤ s.length then s.setpoint else setpointAt rest (k - s.length)

/-! ### The start and the ends of a bond -/

/-- The bond start values; the first drive is Dlow (R84). -/
def Channel.start (c : Channel) (idx : Nat) (r : RecipeEntry) : Channel :=
  { c with state := .startup, recipe := some idx, k := 0, prevSeq := none, integ := 0, dPrev := r.dlow, lim := .none
           tripCount := 0, energy := 0, peak := r.dlow, startupCount := 0, slowStart := false, sampleGap := false
           window := true, lastDrive := some r.dlow }

/-- The bond summary, taken from the context at the moment it is made (R95). -/
def Channel.summary (c : Channel) (r : RecipeEntry) (o : BondOutcome) (src : Option TripSource) : BondSummary :=
  { recipe := c.recipe.getD 0, profileLength := profileLength r, samples := c.k, energy := c.energy, peak := c.peak
    startupCount := c.startupCount, slowStart := c.slowStart, sampleGap := c.sampleGap
    lowEnergy := decide (c.energy < r.emin), highEnergy := decide (r.emax < c.energy), outcome := o, tripSource := src }

/-- Drive 0 sent, loss window stopped, integrator 0, state `st`; no summary (R94). -/
def Channel.stop (c : Channel) (st : ChannelState) : Channel :=
  { c with state := st, lastDrive := some 0, window := false, integ := 0 }

/-- A trip (R92). -/
def Channel.trip (c : Channel) (r : RecipeEntry) (src : TripSource) : Channel :=
  { c.stop .tripped with lastSummary := some (c.summary r .trip (some src)) }

/-- The end of the profile at sample L (R88 step 6). -/
def Channel.finish (c : Channel) (r : RecipeEntry) : Channel :=
  { c.stop .idle with lastSummary := some (c.summary r .complete none) }

/-- The loss window has expired (R93). -/
def Channel.lose (c : Channel) (r : RecipeEntry) : Channel :=
  { c.stop .idle with lastSummary := some (c.summary r .sampleLoss none) }

/-! ### The fifteen steps of a sample (R85 to R91) -/

/-- Step 2: the sample is counted and its sequence byte kept; a jump of more than 1 sets SAMPLE_GAP (R86). -/
def Channel.count (c : Channel) (seq : Byte) : Channel :=
  { c with k := c.k + 1, prevSeq := some seq
           sampleGap := c.sampleGap || match c.prevSeq with
                                       | some p => decide (1 < (seq - p).toNat)
                                       | none => false }

/-- Step 3: the feedback clamped to at most 4095 (R86). -/
def feedbackOf (raw : Nat) : Nat := min raw 4095

/-- Step 4: the count of consecutive samples above Ftrip (R87). -/
def Channel.weighTrip (c : Channel) (r : RecipeEntry) (f : Nat) : Channel :=
  { c with tripCount := if r.ftrip < f then c.tripCount + 1 else 0 }

/-- Step 5: the energy rises by floor(d_prev × f / 1024), saturating (R88). -/
def Channel.addEnergy (c : Channel) (f : Nat) : Channel :=
  { c with energy := satAdd 4294967295 c.energy (c.dPrev * f / 1024) }

/-- Step 8: the startup exit, and the count of samples computed in STARTUP (R89). -/
def Channel.exitStartup (c : Channel) (f s : Nat) : Channel :=
  if c.state = .startup then
    if s ≤ f then { c with state := .regulate } else { c with startupCount := satAdd 255 c.startupCount 1 }
  else c

/-- Step 9: the error clamped to at most Epos, then to at least −En (R90). -/
def clampedError (r : RecipeEntry) (startup : Bool) (s f : Nat) : Int :=
  max (-(r.en : Int)) (min ((s : Int) - f) (if startup then (r.epStart : Int) else r.ep))

/-- Step 10: the wind-up hold stands for this error (R90). -/
def Channel.windupHolds (c : Channel) (r : RecipeEntry) (ec : Int) : Bool :=
  r.windupHold && ((decide (c.lim = .high) && decide (0 < ec)) || (decide (c.lim = .low) && decide (ec < 0)))

/-- Step 10: the integrator, held or raised by ec × Ki, then clamped to ±Imax (R90). -/
def Channel.integrate (c : Channel) (r : RecipeEntry) (ec : Int) : Int :=
  clampInt (-(r.imax : Int)) r.imax (if c.windupHolds r ec then c.integ else c.integ + ec * r.ki)

/-- Step 11: base drive + P + Iterm, both terms rounded towards minus infinity (R91). -/
def unclampedOutput (r : RecipeEntry) (ec i : Int) : Int :=
  (r.baseDrive : Int) + ec * r.kp / (2 ^ r.kpShift : Nat) + i / (2 ^ r.kiShift : Nat)

/-- Step 12: the output clamped to Dlow to Dhigh, and the limit state (R91). -/
def clampOutput (r : RecipeEntry) (u : Int) : Nat × LimState :=
  if (r.dhigh : Int) < u then (r.dhigh, .high) else if u < r.dlow then (r.dlow, .low) else (u.toNat, .none)

/-- Step 13: the step limit of a sample computed in STARTUP (R91). -/
def stepLimit (r : RecipeEntry) (dPrev : Nat) (x : Nat × LimState) : Nat × LimState :=
  if dPrev + r.sstep < x.1 then (dPrev + r.sstep, .high)
  else if x.1 + r.sstep < dPrev then (dPrev - r.sstep, .low) else x

/-- Step 15: the startup timeout, after the drive of a sample computed in STARTUP (R89). -/
def Channel.startupTimeout (c : Channel) (r : RecipeEntry) : Channel :=
  if c.state = .startup ∧ c.k = r.tstart then { c with state := .regulate, slowStart := true } else c

/-- Steps 7 to 15 of a computed sample: the context after it, whose last drive is the drive sent. -/
def Channel.compute (c : Channel) (r : RecipeEntry) (f : Nat) : Channel :=
  let s := setpointAt (segmentsOf r) c.k
  let c := c.exitStartup f s
  let startup := decide (c.state = .startup)
  let ec := clampedError r startup s f
  let i := c.integrate r ec
  let out := clampOutput r (unclampedOutput r ec i)
  let x := if startup then stepLimit r c.dPrev out else out
  let c := { c with integ := i, lim := x.2, peak := max c.peak x.1, lastDrive := some x.1, dPrev := x.1, window := true }
  c.startupTimeout r

/-- What a sample leads to. -/
inductive SampleResult where
  | discarded | tripped | ended | driven (d : Nat)
  deriving DecidableEq, Repr

/-- Steps 3 to 15, for a sample that is no duplicate. -/
def Channel.work (c : Channel) (r : RecipeEntry) (f : Nat) : Channel × SampleResult :=
  let c := c.weighTrip r f
  if r.ntrip ≤ c.tripCount then (c.trip r .feedback, .tripped)
  else
    let c := c.addEnergy f
    if c.k = profileLength r then (c.finish r, .ended)
    else
      let c := c.compute r f
      (c, .driven c.dPrev)

/-- A US_SAMPLE that reaches the channel (R85 to R92). -/
def Channel.sample (c : Channel) (r : RecipeEntry) (raw : Nat) (seq : Byte) (fault : Bool) : Channel × SampleResult :=
  if !c.running then (c, .discarded)
  else if fault then (c.trip r .generator, .tripped)
  else if c.prevSeq = some seq then (c, .discarded)
  else (c.count seq).work r (feedbackOf raw)

/-! ### The stick vote (R99, R100) -/

/-- The continuity verdict, none when it is left out (R99). -/
def continuityVerdict (noContinuity : Bool) (reading : Continuity) : Option Verdict :=
  if noContinuity then none
  else match reading with
    | .stick => some .stick
    | .nonStick => some .nonStick
    | .notMeasured => none

/-- The energy verdict (R99). -/
def energyVerdict (b : BondSummary) : Verdict := if b.lowEnergy then .nonStick else .stick

/-- The deformation verdict; the deformation is clamped to at most 1023 (R99). -/
def deformationVerdict (r : RecipeEntry) (deformation : Nat) : Verdict :=
  if min deformation 1023 < r.defMin then .nonStick else .stick

/-- VCU's vote: two NON_STICK verdicts make NON_STICK; one against makes DISSENT (R100). -/
def voteOn (c : Option Verdict) (e d : Verdict) : LastVote :=
  let non := (c.toList ++ [e, d]).count .nonStick
  { continuity := c, energy := e, deformation := d, count := (c.toList ++ [e, d]).length
    result := if 2 ≤ non then .nonStick else .stick, dissent := decide (non = 1) }

end Sys2Proof.Machine
end

