-- ==== Sys2Proof/Machine/Heads.lean ====
section
/-! DEFINITION. The heads at their wire boundaries: commands to the nodes, starting a wire (R67), asking for a unit (R49 to
R51), and the hold reasons (R62, R63). -/

namespace Sys2Proof.Machine

/-- The head enters a state. -/
def setHeadState (h : Head) (st : HeadState) (s : State) : State := s.modHead h fun c => { c with state := st }

/-- Send a HEAD_CMD that carries the present command number (ABORT, R60). -/
def sendHeadCmd (h : Head) (cmd : HeadCmd) (s : State) : State :=
  sendOwn (.head h) (.headCmd cmd (s.head h).cmdNo) s

/-- Raise the command number, 0 following 255, and send a HEAD_CMD that carries the new number (R60). -/
def commandHead (h : Head) (cmd : HeadCmd) (s : State) : State :=
  sendHeadCmd h cmd (s.modHead h fun c => { c with cmdNo := c.cmdNo + 1 })

/-- An event is awaited within `ms` milliseconds (R67 to R73). -/
def awaitEvent (h : Head) (e : AwaitedEvent) (ms : Nat) (s : State) : State :=
  s.modHead h fun c => { c with awaited := some { event := e, deadline := s.now + BitVec.ofNat 32 ms } }

/-- The milliseconds within which an event is awaited. -/
def awaitLimit : AwaitedEvent → Nat
  | .touchdown => Config.touchdownLimit
  | .bondEnd => Config.bondEndLimit
  | .wireDone => Config.wireDoneLimit

/-- Both entries of the head's wire vote record become absent (R101). -/
def clearVotes (h : Head) (s : State) : State := { s with vcu := { s.vcu with votes := s.vcu.votes.set h {} } }

/-! ### Hold reasons -/

/-- A reason joins the set; it takes a head in IDLE or PARKED to HOLD at once, and a head that is OFF takes none (R62, R63). -/
def addReason (r : HoldReason) (h : Head) (s : State) : State :=
  match (s.head h).state with
  | .off => s
  | .idle | .parked => s.modHead h fun c => { c with hold := c.hold.put r true, state := .hold }
  | .moving | .bonding | .forming | .hold | .fault => s.modHead h fun c => { c with hold := c.hold.put r true }

/-- USC adds PROGRAM and the head stays at, or comes to, its boundary in HOLD (R57, R67). -/
def holdForProgram (h : Head) (s : State) : State :=
  s.modHead h fun c => { c with hold := c.hold.put .program true, state := .hold }

/-! ### Starting a wire (R67) -/

/-- The head starts the claimed wire of unit `u`, or takes PROGRAM when the program is HELD. -/
def startWire (h : Head) (u : Nat) (s : State) : State :=
  match s.trc.bond, s.unit? u with
  | some r, some x =>
    if s.held r.program then holdForProgram h s
    else
      let w := x.claimedWire
      let e := s.wireEntry r.program w
      let go := HeadCmd.wireGo (s.site1 r.program u w) (s.site2 r.program u w) e.dieLevel e.loopCode
        (s.recipe e.ballRecipe).bondForce (s.recipe e.stitchRecipe).bondForce
      let s := s.modHead h fun c => { c with wire := some { seq := r.seq, unit := u, wire := w }, phase := .ball, retries := 0
                                             retried := false, abandoning := false, state := .moving }
      awaitEvent h .touchdown Config.touchdownLimit (commandHead h go (clearVotes h s))
  | _, _ => s

/-! ### Asking for a unit (R49, R50) -/

/-- The head's candidate unit: the PENDING unit lowest in number for head A, highest for head B. -/
def candidateUnit (h : Head) (units : List UnitRecord) : Option Nat :=
  match h with
  | .a => (List.range units.length).find? fun u => (units[u]?.map (·.state)) = some .pending
  | .b => (List.range units.length).reverse.find? fun u => (units[u]?.map (·.state)) = some .pending

/-- The candidate in unit `u` is claimable: the other head holds no claim, or one more than the guard columns away (R50). -/
def claimable (e : ProgramEntry) (u : Nat) (other : Option Nat) : Bool :=
  match other with
  | none => true
  | some v =>
    let c := unitColumn e u
    let c' := unitColumn e v
    decide (e.guard < c - c') || decide (e.guard < c' - c)

/-- The head claims unit `u` and starts its resume wire (R49). -/
def claimUnit (h : Head) (u : Nat) (s : State) : State :=
  startWire h u (s.modUnit u fun x => { x with state := .claimed, claimant := some h, rebond := none, lastHead := some h })

/-- The conditions under which a head asks USC for a unit (R49); a PARKED head asks again under them (R51). -/
def State.mayAsk (s : State) (h : Head) : Bool :=
  (decide ((s.head h).state = .idle) || decide ((s.head h).state = .parked)) && (s.claimOf h).isNone && s.working &&
  match s.trc.bond with
  | some r => decide (r.state = .bonding) && !r.scrapped
  | none => false

/-- A head asks for a unit: it takes PROGRAM, claims its candidate, parks, or stays IDLE (the table of R49). -/
def askUnit (h : Head) (s : State) : State :=
  if s.mayAsk h then
    if s.held s.bondProgram then holdForProgram h s
    else
      match candidateUnit h s.units with
      | some u =>
        if claimable (s.program s.bondProgram) u (s.claimOf h.other) then claimUnit h u s else setHeadState h .parked s
      | none => setHeadState h (if (s.claimOf h.other).isSome then .parked else .idle) s
  else s

/-- The head enters IDLE and asks for a unit (R49). -/
def enterIdle (h : Head) (s : State) : State := askUnit h (setHeadState h .idle s)

/-- A PARKED head is weighed again, as a fresh request (R51). -/
def reaskParked (h : Head) (s : State) : State := if (s.head h).state = .parked then askUnit h s else s

/-- A PARKED head enters IDLE (R51, R59). -/
def unpark (h : Head) (s : State) : State := if (s.head h).state = .parked then setHeadState h .idle s else s

/-! ### Leaving HOLD -/

/-- The head's set has become empty in HOLD: it starts its claimed wire, or enters IDLE and asks (R63). -/
def leaveHold (h : Head) (s : State) : State :=
  match s.claimOf h with
  | some u => startWire h u s
  | none => enterIdle h s

/-- A reason leaves the set; a head in HOLD whose set becomes empty leaves HOLD (R62, R63). -/
def removeReason (r : HoldReason) (h : Head) (s : State) : State :=
  if (s.head h).hold.has r then
    let s := s.modHead h fun c => { c with hold := c.hold.put r false }
    if (s.head h).state = .hold ∧ (s.head h).hold.isEmpty then leaveHold h s else s
  else s

/-- The head is at its wire boundary: it enters HOLD when its set is not empty, starts its claimed wire, or enters IDLE and
asks (R52 step 6, R53, R71). -/
def atBoundary (h : Head) (s : State) : State :=
  if (s.head h).hold.isEmpty then leaveHold h s else setHeadState h .hold s

end Sys2Proof.Machine
end

