-- ==== Sys2Proof/Machine/Alarms.lean ====
section
/-! DEFINITION. The Alarm Controller (chapter 9): raises and repeats, making room, condition clears, acknowledgments, the hold
reason ALARM, and the forced marking of alarm tiles (R156). -/

namespace Sys2Proof.Machine

/-! ### Marking the tiles of an alarm (R156) -/

/-- The tile indexes of a page's range, in order, whether or not the page is valid (R151). -/
def State.pageRange (s : State) (p : Nat) : List Nat :=
  List.range' (s.tmc.pages.getD p {}).firstTile (s.tmc.pages.getD p {}).tileCount

/-- The tiles that a page shows: those of its range, none while it is not valid (R151, R158). -/
def State.pageTiles (s : State) (p : Nat) : List Nat := if (s.tmc.pages.getD p {}).valid then s.pageRange p else []

def State.tile (s : State) (i : Nat) : TileEntry := s.tmc.tiles.getD i {}

/-- Tile `i` joins a dirty set in its place; a member gains a forced mark, and keeps one it has. -/
def markDirty (l : List (Nat × Bool)) (i : Nat) (forced : Bool) : List (Nat × Bool) :=
  match l with
  | [] => [(i, forced)]
  | (j, f) :: rest =>
    if i < j then (i, forced) :: (j, f) :: rest
    else if i = j then (j, f || forced) :: rest else (j, f) :: markDirty rest i forced

/-- The terminal is in service: a valid forwarding entry holds its role (section 10). -/
def State.inService (s : State) (t : Term) : Bool := (s.addrOf (.term t)).isSome

/-- The tiles of a terminal's current page that show the alarm at list position `k` become dirty with the forced mark. -/
def forceAlarmTiles (k : Nat) (t : Term) (s : State) : State :=
  if s.inService t then
    let shows := (s.pageTiles (s.term t).page).filter fun i => (s.tile i).value == 30 && (s.tile i).operand == k
    s.modTerm t fun x => { x with dirty := shows.foldl (fun d i => markDirty d i true) x.dirty }
  else s

/-- The four terminals in turn. -/
def eachTerm (f : Term → State → State) (s : State) : State := f .t4 (f .t3 (f .t2 (f .t1 s)))

/-! ### Stop effects on the heads (R146) -/

/-- An entry of this code and scope becomes effective: ALARM joins the sets of the heads concerned. -/
def becomeEffective (code : AlarmCode) (scope : AlarmScope) (s : State) : State :=
  if isStop code then
    match scope with
    | .head h => addReason .alarm h s
    | .cell => addReason .alarm .b (addReason .alarm .a s)
    | .feeder | .track | .program _ => s
  else s

/-- ALC looks again at a head: ALARM leaves its set when no effective entry of its scope or of scope CELL remains. -/
def dropAlarmReason (h : Head) (s : State) : State :=
  if (s.head h).state ≠ .off ∧ !s.alarmHolds h then removeReason .alarm h s else s

/-- An entry of this scope has stopped being effective. -/
def effectEnded (scope : AlarmScope) (s : State) : State :=
  match scope with
  | .head h => dropAlarmReason h s
  | .cell => eachHead dropAlarmReason s
  | .feeder | .track | .program _ => s

/-! ### The list -/

/-- The list position of the entry with this code and scope. -/
def State.findAlarm (s : State) (code : AlarmCode) (scope : AlarmScope) : Option Nat :=
  s.alc.list.findIdx? fun e => decide (e.code = code) && decide (e.scope = scope)

def State.setAlarms (s : State) (l : List AlarmEntry) : State := { s with alc := { s.alc with list := l } }

/-- The ALARM notice of a change to an entry (R148). -/
def alarmNotice (e : AlarmEntry) (c : AlarmChange) (s : State) : State :=
  notify (.alarm e.code e.scope c e.detail e.repeats) s

/-- The entry that makes room: the oldest CLEARED, the oldest WARN, the oldest acknowledged STOP (R140). -/
def roomEntry (l : List AlarmEntry) : Option Nat :=
  (l.findIdx? fun e => decide (e.state = .cleared)).or
    ((l.findIdx? fun e => !isStop e.code).or (l.findIdx? fun e => isStop e.code && decide (e.state = .activeAcked)))

/-- Take the entry at position `i` off the list with a REMOVED notice; an effective entry's stop effect ends (R140, R142,
R144). -/
def removeAlarm (i : Nat) (s : State) : State :=
  match s.alc.list[i]? with
  | some e =>
    let t := alarmNotice e .removed (s.setAlarms (s.alc.list.eraseIdx i))
    if e.effective then effectEnded e.scope t else t
  | none => s

/-- Append a new entry and queue its notice; an event alarm is left CLEARED in the same step (R139, R142). -/
def appendAlarm (code : AlarmCode) (scope : AlarmScope) (detail : Nat) (s : State) : State :=
  let e : AlarmEntry := { code := code, scope := scope, state := if isEvent code then .cleared else .active, first := s.now
                          last := s.now, repeats := 0, shown := false, detail := detail }
  let t := alarmNotice e (if isEvent code then .cleared else .active) (s.setAlarms (s.alc.list ++ [e]))
  becomeEffective code scope (eachTerm (forceAlarmTiles s.alc.list.length) t)

/-- Repeat the entry at position `i` (R141); an event alarm is left CLEARED (R142). -/
def repeatAlarm (i : Nat) (e : AlarmEntry) (detail : Nat) (s : State) : State :=
  let e' := { e with repeats := satAdd 255 e.repeats 1, last := s.now, detail := detail, shown := false
                     state := if isEvent e.code then .cleared else .active }
  let t := alarmNotice e' (if isEvent e.code then .cleared else .active) (s.setAlarms (s.alc.list.set i e'))
  let t := eachTerm (forceAlarmTiles i) t
  if e.state = .activeAcked then becomeEffective e.code e.scope t else t

/-- A raise (R139 to R141). The notice of a raise that finds no place carries repeat count 0 (DEDUCED, log entry 39). -/
def raiseAlarm (code : AlarmCode) (scope : AlarmScope) (detail : Nat) (s : State) : State :=
  match s.findAlarm code scope with
  | some i =>
    match s.alc.list[i]? with
    | some e => repeatAlarm i e detail s
    | none => s
  | none =>
    if s.alc.list.length < Config.alarmRoom then appendAlarm code scope detail s
    else
      match roomEntry s.alc.list with
      | some j => appendAlarm code scope detail (removeAlarm j s)
      | none =>
        notify (.alarm code scope .notListed detail 0)
          { s with alc := { s.alc with unlisted := satAdd 255 s.alc.unlisted 1 } }

/-- A condition clear (R142). -/
def clearAlarm (code : AlarmCode) (scope : AlarmScope) (s : State) : State :=
  match s.findAlarm code scope with
  | some i =>
    match s.alc.list[i]? with
    | some e =>
      match e.state with
      | .active =>
        let e' := { e with state := .cleared }
        alarmNotice e' .cleared (s.setAlarms (s.alc.list.set i e'))
      | .activeAcked => removeAlarm i s
      | .cleared => s
    | none => s
  | none => s

/-- An acknowledgment of the listed, shown entry at position `i` (R144). -/
def ackEntry (i : Nat) (e : AlarmEntry) (s : State) : State :=
  match e.state with
  | .active =>
    let e' := { e with state := .activeAcked }
    let t := alarmNotice e' .activeAcked (s.setAlarms (s.alc.list.set i e'))
    if isStop e.code then effectEnded e.scope t else t
  | .cleared => removeAlarm i s
  | .activeAcked => s

/-- Set the shown flag of the entry with this code and scope (R143). -/
def showAlarm (code : AlarmCode) (scope : AlarmScope) (s : State) : State :=
  s.setAlarms (s.alc.list.map fun e => if e.code = code ∧ e.scope = scope then { e with shown := true } else e)

end Sys2Proof.Machine
end

