-- ==== Sys2Proof/Machine/Candidates.lean ====
section
/-! DEFINITION. The candidate list of a strip (R115 to R119) as functions of the strip record. -/

namespace Sys2Proof.Machine

/-- The candidate of a (unit, wire) pair is at this list index. -/
def candidateIndex (l : List Candidate) (u w : Nat) : Option Nat := l.findIdx? fun c => c.unit == u && c.wire == w

/-- A candidate is recorded when its record number is present (R116). -/
def Candidate.recorded (c : Candidate) : Bool := c.record.isSome

/-- The planned candidates, plan units in list order and plan wires in list order (R115). -/
def plannedCandidates (pl : PlanEntry) (e : ProgramEntry) (skip : UnitMarks) : List Candidate :=
  (pl.units.filter fun u => decide (u < unitCount e) && !skip.getLsbD u).flatMap fun u =>
    (pl.wires.filter fun w => decide (w < e.wireCount)).map fun w =>
      { unit := u, wire := w, reason := .planned, status := .waiting }

/-- The directed reasons in force: those of a plan that is valid (R113). -/
def PlanInForce (pl : PlanEntry) : ReasonSet := if pl.valid then pl.reasons else {}

/-- The first of DISSENT, HIGH_ENERGY, SLOW_START, RETRIED that the set holds and the wire shows (R117 step 2). -/
def directedReason (set : ReasonSet) (ball stitch : Option VoteEntry) (retried : Bool) : Option CandidateReason :=
  let any (f : VoteEntry → Bool) : Bool := ball.any f || stitch.any f
  if set.dissent && any (·.dissent) then some .dissent
  else if set.highEnergy && any (·.summary.highEnergy) then some .highEnergy
  else if set.slowStart && any (·.summary.slowStart) then some .slowStart
  else if set.retried && retried then some .retried
  else none

/-- The index of the most recently inserted PLANNED candidate that is not recorded (R117 step 4). -/
def replaceable (l : List Candidate) : Option Nat :=
  (List.range l.length).reverse.find? fun i =>
    match l[i]? with
    | some c => decide (c.reason = .planned) && !c.recorded
    | none => false

/-- A new directed candidate joins the list, replaces a planned one, or sets CANDIDATE_OVERFLOW (R117 step 4). -/
def insertDirected (r : StripRecord) (c : Candidate) : StripRecord :=
  if r.candidates.length < Config.candidateRoom then { r with candidates := r.candidates ++ [c] }
  else
    match replaceable r.candidates with
    | some i => { r with candidates := r.candidates.eraseIdx i ++ [c] }
    | none => { r with overflow := true }

/-- The hand-over of a finished wire (R117); `set` is the directed reason set in force. -/
def wireMade (set : ReasonSet) (h : Head) (u w : Nat) (v : VoteRecord) (retried : Bool) (r : StripRecord) : StripRecord :=
  if r.scrapped then r
  else
    let ball := v.ball.map (·.summary)
    let stitch := v.stitch.map (·.summary)
    let reason := directedReason set v.ball v.stitch retried
    match candidateIndex r.candidates u w with
    | some i =>
      { r with candidates := modifyAt r.candidates i fun c =>
          { c with ball := ball, stitch := stitch, head := some h, status := .bonded, reason := reason.getD c.reason } }
    | none =>
      match reason with
      | some x => insertDirected r { unit := u, wire := w, reason := x, ball := ball, stitch := stitch, head := some h, status := .bonded }
      | none => r

/-- At the completion of MOVE_BP every WAITING candidate becomes NOT_BONDED (R119). -/
def markNotBonded (r : StripRecord) : StripRecord :=
  { r with candidates := r.candidates.map fun c => if c.status = .waiting then { c with status := .notBonded } else c }

/-- SCRAP cancels every candidate that is not recorded and not in flight (R119). -/
def cancelCandidates (inFlight : Option (Nat × Nat)) (r : StripRecord) : StripRecord :=
  { r with candidates := r.candidates.map fun c =>
      if c.recorded ∨ inFlight = some (c.unit, c.wire) then c else { c with status := .cancelled } }

end Sys2Proof.Machine
end

