-- ==== Sys2Proof/Machine/Coverage.lean ====
section
/-! DEFINITION. The coverage scan (R103 to R109): the walk, the stop on a missed wire, the rejected unit, the release. -/

namespace Sys2Proof.Machine

/-- The first wire of a unit, from `w0` on, that is neither done nor waived; a SKIPPED unit has none (R103). -/
def missIn (wires w0 : Nat) (x : UnitRecord) : Option Nat :=
  if x.state = .skipped then none
  else (List.range wires).find? fun w => decide (w0 ≤ w) && !x.done.contains w && !x.waived.contains w

/-- The first failing wire of the units given, the first of them being unit `u` taken from wire `w0` on (R103). -/
def nextMiss (wires : Nat) : List UnitRecord → Nat → Nat → Option (Nat × Nat)
  | [], _, _ => none
  | x :: xs, u, w0 =>
    match missIn wires w0 x with
    | some w => some (u, w)
    | none => nextMiss wires xs (u + 1) 0

/-- A passed scan releases the strip (R109) (DEDUCED, log entry 25). -/
def releaseStrip (s : State) : State :=
  match s.trc.bond with
  | some r =>
    let t := { s with vcu := { s.vcu with scan := some .passed, pendingWire := none } }
    notify (.strip r.seq .released) (t.modStrip .bond fun r => { r with state := .released })
  | none => s

/-- The scan stops at a missed wire under policy ASK (R104). -/
def stopScan (u w : Nat) (s : State) : State :=
  let t := { s with vcu := { s.vcu with scan := some .stopped, pos := some (u, w), pendingWire := some (u, w) } }
  let t := raiseAlarm .missedWire .track (u * 1000 + w) t
  notify (.decision (.missedWire { seq := (s.trc.bond.map (·.seq)).getD 0, unit := u, wire := w })) t

/-- Policy REJECT_UNIT: the unit is REJECTED and every wire of it not done is waived (R107). The scan does not stop on the failing
wire, so the pending wire is absent (R98) (DEDUCED, log entry 25). -/
def rejectUnit (u w wires : Nat) (s : State) : State :=
  let t := { s with vcu := { s.vcu with pos := some (u, w), pendingWire := none } }
  let t := t.modUnit u fun x =>
    { x with rejected := true
             waived := (List.range wires).foldl (fun m v => if x.done.contains v then m else insertMark m v) x.waived }
  t.modStrip .bond fun r => { r with rejectUnits := true }

/-- A walk from unit `u`, wire `w` on (R103); the policy is read each time a failing wire is found. -/
def walkFrom : Nat → Nat → Nat → State → State
  | 0, _, _, s => s
  | fuel + 1, u, w, s =>
    let wires := (s.program s.bondProgram).wireCount
    match nextMiss wires (s.units.drop u) u w with
    | none => releaseStrip s
    | some (u', w') =>
      match s.ccs.params.policy with
      | .ask => stopScan u' w' s
      | .rejectUnit => walkFrom fuel (u' + 1) 0 (rejectUnit u' w' wires s)

/-- A whole walk: each unit is rejected at most once, so the fuel suffices. -/
def walk (u w : Nat) (s : State) : State := walkFrom (s.units.length + 1) u w s

end Sys2Proof.Machine
end

