-- ==== Sys2Proof/Machine/Units.lean ====
section
/-! DEFINITION. The Unit Scheduler's work on claims: wire end reports (R52), the end of a claim (R53, R54, R56, R58), skipped
units and the evaluation for CHECKING (R59). -/

namespace Sys2Proof.Machine

/-- The strip at BOND enters CHECKING when it is BONDING, not scrapped, and no unit is PENDING or CLAIMED (R59). While its program is
HELD it stays in BONDING until the program is released or the strip is scrapped (R57, R134) (DEDUCED, log entry 41). -/
def evaluateChecking (s : State) : State :=
  match s.trc.bond, s.usc.units with
  | some r, some l =>
    if r.state = .bonding ∧ r.scrapped = false ∧ s.held r.program = false ∧ l.all (fun x => x.state != .pending && x.state != .claimed) then
      walk 0 0 (unpark .b (unpark .a (s.modStrip .bond fun r => { r with state := .checking })))
    else s
  | _, _ => s

/-- The closing steps of a claim's end: the head's own next step at its boundary (when `own`), the other head's fresh request
if it is PARKED, then the evaluation for CHECKING. Either request may be taken first (R51): a free choice (DESIGN CHOICE, log entry 3). -/
def closeClaim (h : Head) (own : Bool) (s : State) : State :=
  if own then
    if (s.head h.other).state = .parked ∧ (s.head h).hold.isEmpty then
      let t := { s with free := s.free + 1 }
      if Config.firstHeadIsA s.free = decide (h = .a) then evaluateChecking (reaskParked h.other (atBoundary h t))
      else evaluateChecking (atBoundary h (reaskParked h.other t))
    else evaluateChecking (reaskParked h.other (atBoundary h s))
  else evaluateChecking (reaskParked h.other s)

/-- The unit's mark is set in the skip map of the strip at BOND (R55, R56). -/
def markSkipped (u : Nat) (s : State) : State := s.modStrip .bond fun r => { r with skip := markUnit r.skip u }

/-- A claimed unit with skip pending becomes SKIPPED (R56). -/
def skipClaimed (u : Nat) (s : State) : State :=
  markSkipped u (s.modUnit u fun x => { x with state := .skipped, skipPending := false, claimant := none, rebond := none })

/-- A claim ends with the unit DONE, or PARTIAL when a mark is clear (R53, R58). -/
def finishUnit (u wires : Nat) (s : State) : State :=
  s.modUnit u fun x =>
    { x with state := if x.allDone wires then .done else .partial_, claimant := none, rebond := none }

/-- A unit returns to PENDING with its resume wire and done map (R54). -/
def returnUnit (u : Nat) (s : State) : State :=
  s.modUnit u fun x => { x with state := .pending, claimant := none }

/-- The outcome of a wire: "done" sets its done mark, raises wires bonded and hands the wire to PLM (R52 step 1, R117); "not
done" raises wires missed. The head's wire vote record becomes absent (R101). -/
def wireOutcome (h : Head) (u w : Nat) (done : Bool) (s : State) : State :=
  if done then
    let set := PlanInForce (s.plm.plans.getD s.bondProgram {})
    let t := s.modUnit u fun x => { x with done := insertMark x.done w }
    let t := t.modStrip .bond fun r =>
      wireMade set h u w (s.vcu.votes.get h) (s.head h).retried { r with wiresBonded := satAdd 65535 r.wiresBonded 1 }
    clearVotes h t
  else clearVotes h (s.modStrip .bond fun r => { r with wiresMissed := satAdd 65535 r.wiresMissed 1 })

/-- A rebond claim ends; the scan, if it waits for it, walks on from the same wire (R58, R108). It ends at a report or as the head goes
OFF, and at a CLEAR_FAULT that sends no report it does not (DEDUCED, log entry 48). -/
def endRebond (h : Head) (u w : Nat) (done own : Bool) (s : State) : State :=
  let wires := (s.program s.bondProgram).wireCount
  let t := finishUnit u wires (wireOutcome h u w done s)
  let resumes := decide (s.vcu.scan = some .rebond)
  let t := { t with vcu := { t.vcu with pendingWire := none, rebondHead := none } }
  let t := reaskParked h.other (if own then atBoundary h t else t)
  if resumes then walk u w t else t

/-- The wire end report of a head for its claimed unit (R52). `own` is false where the head's next state is left to others: at
CLEAR_FAULT, in FAULT, and for a head going OFF. -/
def wireEndReport (h : Head) (done own : Bool) (s : State) : State :=
  match s.claimOf h with
  | none => s
  | some u =>
    match s.unit? u with
    | none => s
    | some x =>
      match x.rebond with
      | some w => endRebond h u w done own s
      | none =>
        let wires := (s.program s.bondProgram).wireCount
        let t := (wireOutcome h u x.resume done s).modUnit u fun x => { x with resume := x.resume + 1 }
        if x.skipPending then closeClaim h own (skipClaimed u t)
        else if wires ≤ x.resume + 1 then closeClaim h own (finishUnit u wires t)
        else
          let t := if t.held t.bondProgram then addReason .program h t else t
          if own then atBoundary h t else t

/-- A head that goes OFF keeps no claim (R54 step 2, R58). -/
def giveUpClaim (h : Head) (s : State) : State :=
  match s.claimOf h with
  | none => s
  | some u =>
    match s.unit? u with
    | none => s
    | some x =>
      match x.rebond with
      | some w => endRebond h u w false false s
      | none => closeClaim h false (if x.skipPending then skipClaimed u s else returnUnit u s)

/-- The claim of a head in HOLD, or at CLEAR_FAULT, ends at once with the unit SKIPPED (R56). -/
def skipNow (h : Head) (own : Bool) (s : State) : State :=
  match s.claimOf h with
  | some u => closeClaim h own (skipClaimed u s)
  | none => s

/-- Unit records with clear done and waiver maps for a strip arriving at BOND not scrapped, and the scan at its start (R47,
R102, R103). -/
def createUnits (r : StripRecord) (s : State) : State :=
  let n := unitCount (s.program r.program)
  let l := (List.range n).map fun u =>
    ({ state := if r.skip.getLsbD u then .skipped else .pending } : UnitRecord)
  { s with usc := { s.usc with units := some l }
           vcu := { s.vcu with scan := some .notStarted, pos := some (0, 0), pendingWire := none, rebondHead := none } }

/-- The unit records, done maps, waiver maps and the scan are discarded (R48, R102). -/
def discardUnits (s : State) : State :=
  { s with usc := { s.usc with units := none }
           vcu := { s.vcu with scan := none, pos := none, pendingWire := none, rebondHead := none } }

end Sys2Proof.Machine
end

