-- ==== Sys2Proof/Machine/HeadControl.lean ====
section
/-! DEFINITION. The head controllers' own work (chapter 4): faults, going OFF, enable, pause and resume, the events of the
wire cycle, the vote's outcome, and the NSB decision. -/

namespace Sys2Proof.Machine

/-! ### Faults (R75) -/

/-- The detail of HEAD_FAULT for a fault cause (R75 step 5). -/
def faultDetail : FaultCause → Nat
  | .trip => 1
  | .sampleLoss => 2
  | .timeout => 3
  | .motion => 4

/-- A bond running on the channel ends with drive 0 and no summary, and the channel enters `st` (R94). -/
def stopBond (h : Head) (st : ChannelState) (s : State) : State :=
  sendDrive h 0 false (s.setChan h ((s.chan h).stop st))

/-- What steps 3 and 4 of a fault write in the head context. -/
def HeadCtx.toFault (cause : FaultCause) (c : HeadCtx) : HeadCtx :=
  { c with awaited := none, faulted := if c.state.working then c.wire else none, wire := none, phase := .none
           cause := some cause, state := .fault }

/-- The head faults (R75). Its wire vote record becomes absent, as R101 gives for a fault, also where the bond ended in TRIP or
SAMPLE_LOSS, for which R100 says that the record does not change (DEDUCED, log entry 44). -/
def headFault (h : Head) (cause : FaultCause) (s : State) : State :=
  let s := if (s.chan h).running then stopBond h .idle s else s
  let s := clearVotes h ((sendHeadCmd h .abort s).modHead h (·.toFault cause))
  raiseAlarm .headFault (.head h) (faultDetail cause) s

/-! ### The pending NSB decision (R73, R74) -/

/-- The alarm of a bond abandoned after its retries (R73 step 3). -/
def nsbCode : Phase → AlarmCode
  | .stitch => .nsol
  | .ball | .none => .nsop

/-- The conditions of NSOP and NSOL of the head's scope clear (R65 step 5, R73). -/
def clearNsb (h : Head) (s : State) : State := clearAlarm .nsol (.head h) (clearAlarm .nsop (.head h) s)

/-- The decision is taken: it becomes absent, reason NSB is removed and the alarm's condition clears (R74). -/
def takeNsb (h : Head) (s : State) : State :=
  clearNsb h (s.modHead h fun c => { c with nsb := none, hold := c.hold.put .nsb false })

/-- A not-done report of the head: its wires missed count rises by 1 (R52, R74). -/
def reportMissed (h : Head) (own : Bool) (s : State) : State :=
  wireEndReport h false own (s.modHead h fun c => { c with missed := satAdd 65535 c.missed 1 })

/-- The decision ends as by NSB_RESUME (R74, R110 step 3). A head in FAULT stays there. -/
def endNsb (h : Head) (s : State) : State :=
  let own := decide ((s.head h).state = .hold)
  reportMissed h own (takeNsb h s)

/-- The head whose pending NSB decision names this wire (R74). -/
def State.nsbHead (s : State) (w : WireRef) : Option Head :=
  [Head.a, .b].find? fun h => (s.head h).nsb.any fun d => decide (d.wire = w)

/-! ### Enable and going OFF (R64, R65) -/

/-- A report is due as the head goes OFF (R65 step 3). -/
def HeadCtx.owesReport (c : HeadCtx) : Bool :=
  c.state.working || (decide (c.state = .fault) && c.faulted.isSome) || c.nsb.isSome

/-- The head context of a head that has gone OFF: its counts are kept, and the command number it had before (R65 step 6). -/
def HeadCtx.toOff (before c : HeadCtx) : HeadCtx :=
  { cmdNo := before.cmdNo, bonded := c.bonded, missed := c.missed, retriesSent := c.retriesSent }

/-- The head goes OFF, in the order of R65. -/
def goOff (h : Head) (s : State) : State :=
  if (s.head h).state = .off then s
  else
    let due := (s.head h).owesReport
    let t := stopBond h .disabled s
    let t := if (s.head h).state.working then sendHeadCmd h .abort t else t
    let t := if due then reportMissed h false t else t
    let t := giveUpClaim h (clearVotes h t)
    (clearNsb h (clearAlarm .headFault (.head h) t)).modHead h (s.head h).toOff

/-- A HEAD_CMD or US_DRIVE frame to address `a` or to all (R166 step 3) (DEDUCED, log entry 24). -/
def LinkFrame.drivesHead (a : Nat) (f : LinkFrame) : Bool :=
  (decide (f.kind = 0x10) || decide (f.kind = 0x13)) && (decide (f.dst.toNat = a) || decide (f.dst = 63))

/-- Gated frames that wait for the head's node leave the U→F forward queue (R166). -/
def dropGated (h : Head) (s : State) : State :=
  match s.addrOf (.head h) with
  | some a => { s with lif := { s.lif with ufQueue := s.lif.ufQueue.filter fun f => !f.drivesHead a } }
  | none => s

/-- The hold reasons whose causes stand at ENABLE (R64 step 3). -/
def State.standing (s : State) (h : Head) : HoldSet :=
  { heat := decide (s.trc.heat.state ≠ .ready), alarm := s.alarmHolds h, cell := s.ccs.feedPause }

/-- What an ENABLE that passes does (R64 steps 1 to 4). -/
def enable (h : Head) (s : State) : State :=
  let set := s.standing h
  let s := dropGated h (s.setChan h { s.chan h with state := .idle })
  let s := s.modHead h fun c => { c with hold := set, state := .hold }
  if set.isEmpty then enterIdle h s else s

/-- RESUME removes OPERATOR and FAULT_CLEARED together (R62, R66). -/
def resumeHead (h : Head) (s : State) : State := removeReason .faultCleared h (removeReason .operator h s)

/-- What a CLEAR_FAULT that passes does (R77), a unit with skip pending becoming SKIPPED where no report is due (R56). R56 and R77 do not
place that among the four steps; it is done in place of the report of step 2, before the condition of HEAD_FAULT clears (DEDUCED, log
entry 45). Where no faulted wire is recorded no report is sent, so a rebond claim stands past CLEAR_FAULT, though R108 and R111 have it
end there (DEDUCED, log entry 48). -/
def clearFault (h : Head) (s : State) : State :=
  let ctx := s.head h
  let s := if (s.chan h).state = .tripped then s.setChan h { s.chan h with state := .idle } else s
  let s :=
    if ctx.faulted.isSome then reportMissed h false s
    else if ctx.nsb.isNone ∧ ((s.claimOf h).bind s.unit?).any (·.skipPending) then skipNow h false s else s
  let s := clearAlarm .headFault (.head h) (s.modHead h fun c => { c with faulted := none, cause := none })
  s.modHead h fun c => { c with hold := c.hold.put .faultCleared true, state := .hold }

/-! ### The wire cycle (R68 to R73) -/

/-- TOUCHDOWN: the channel starts the bond of the present phase and sends its first drive, Dlow (R68, R84). -/
def startBond (h : Head) (s : State) : State :=
  let c := s.head h
  let idx := s.recipeIndex s.bondProgram ((c.wire.map (·.wire)).getD 0) c.phase
  let r := s.recipe idx
  let s := s.modHead h fun c => { c with awaited := none, state := .bonding }
  sendDrive h r.dlow false (s.setChan h ((s.chan h).start idx r))

/-- A TOUCHDOWN with command number `n` (R68, R76). -/
def onTouchdown (h : Head) (n : Byte) (s : State) : State :=
  if (s.head h).state = .moving ∧ n = (s.head h).cmdNo then startBond h s else s

/-- A sticking bond enters the head's wire vote record (R101). -/
def VoteRecord.enter (v : VoteRecord) (p : Phase) (e : VoteEntry) : VoteRecord :=
  match p with
  | .stitch => { v with stitch := some e }
  | .ball | .none => { v with ball := some e }

/-- A STICK vote (R70). -/
def onStick (h : Head) (e : VoteEntry) (s : State) : State :=
  let phase := (s.head h).phase
  let s := { s with vcu := { s.vcu with votes := s.vcu.votes.set h ((s.vcu.votes.get h).enter phase e) } }
  if phase = .stitch then
    let s := s.modHead h fun c => { c with state := .forming, abandoning := false }
    awaitEvent h .wireDone Config.wireDoneLimit (commandHead h .finish s)
  else
    let s := s.modHead h fun c => { c with phase := .stitch, retries := 0, state := .moving }
    awaitEvent h .touchdown Config.touchdownLimit (commandHead h .continue_ s)

/-- A NON_STICK vote: RETRY while the recipe allows one, else ABANDON (R72, R73). -/
def onNonStick (h : Head) (retryCount : Nat) (s : State) : State :=
  let c := s.head h
  if c.retries < retryCount then
    let s := s.modHead h fun c =>
      { c with retries := c.retries + 1, retried := true, retriesSent := satAdd 65535 c.retriesSent 1, state := .moving }
    let s := s.modStrip .bond fun r => { r with wiresRetried := satAdd 65535 r.wiresRetried 1 }
    awaitEvent h .touchdown Config.touchdownLimit (commandHead h (.retry c.phase) s)
  else
    let s := s.modHead h fun c => { c with state := .forming, abandoning := true }
    awaitEvent h .wireDone Config.wireDoneLimit (commandHead h .abandon s)

/-- The vote on a finished bond (R99, R100). -/
def State.voteFor (s : State) (h : Head) (b : BondSummary) (reading : Continuity) (deformation : Nat) : LastVote :=
  let e := s.wireEntry s.bondProgram (((s.head h).wire.map (·.wire)).getD 0)
  voteOn (continuityVerdict e.noContinuity reading) (energyVerdict b) (deformationVerdict (s.recipe b.recipe) deformation)

/-- The vote and the command it leads to, one step (R69, R70, R72, R73). -/
def bondVoted (h : Head) (b : BondSummary) (reading : Continuity) (deformation : Nat) (s : State) : State :=
  let v := s.voteFor h b reading deformation
  let s := { s with vcu := { s.vcu with last := s.vcu.last.set h (some v) } }
  let s := s.modHead h fun c => { c with awaited := none }
  match v.result with
  | .stick => onStick h { summary := b, dissent := v.dissent } s
  | .nonStick => onNonStick h (s.recipe b.recipe).retryCount s

/-- A BOND_END with command number `n` (R69, R76): taken in BONDING once the channel has ended the bond. -/
def onBondEnd (h : Head) (n : Byte) (reading : Continuity) (deformation : Nat) (s : State) : State :=
  if (s.head h).state = .bonding ∧ n = (s.head h).cmdNo ∧ !(s.chan h).running then
    match (s.chan h).lastSummary with
    | some b => bondVoted h b reading deformation s
    | none => s
  else s

/-- WIRE_DONE in answer to FINISH (R71). -/
def wireFinished (h : Head) (s : State) : State :=
  wireEndReport h true true (s.modHead h fun c =>
    { c with awaited := none, phase := .none, wire := none, bonded := satAdd 65535 c.bonded 1 })

/-- WIRE_DONE in answer to ABANDON: the NSB hold of wire `w` (R73). -/
def nsbHold (h : Head) (w : WireRef) (s : State) : State :=
  let phase := (s.head h).phase
  let s := s.modHead h fun c =>
    { c with awaited := none, phase := .none, wire := none, nsb := some { wire := w, phase := phase }
             hold := c.hold.put .nsb true, state := .hold }
  notify (.decision (.nsbHold h w phase)) (raiseAlarm (nsbCode phase) (.head h) (w.unit * 1000 + w.wire) s)

/-- A WIRE_DONE with command number `n` (R71, R73, R76). -/
def onWireDone (h : Head) (n : Byte) (s : State) : State :=
  let c := s.head h
  if c.state = .forming ∧ n = c.cmdNo then
    match c.abandoning, c.wire with
    | true, some w => nsbHold h w s
    | _, _ => wireFinished h s
  else s

/-- A MOTION_FAULT (R75, R76). -/
def onMotionFault (h : Head) (s : State) : State :=
  match (s.head h).state with
  | .off => s
  | .fault => raiseAlarm .headFault (.head h) (faultDetail .motion) s
  | .idle | .parked | .moving | .bonding | .forming | .hold => headFault h .motion s

/-- A deadline of R67 to R73 has passed by `now`. -/
def Awaited.passed (a : Awaited) (now : Time) : Bool :=
  elapsed now (a.deadline - BitVec.ofNat 32 (awaitLimit a.event)) (awaitLimit a.event)

/-- The awaited deadline of the head passes (R75). -/
def onDeadline (h : Head) (s : State) : State :=
  match (s.head h).awaited with
  | some a => if a.passed s.now then headFault h .timeout s else s
  | none => s

/-! ### Samples (R85 to R93) -/

/-- A US_SAMPLE that LIF hands to the channel, with what the head and the channel send for it. -/
def onSample (h : Head) (raw : Nat) (seq : Byte) (fault : Bool) (s : State) : State :=
  let c := s.chan h
  let x := c.sample (s.recipe (c.recipe.getD 0)) raw seq fault
  let s := s.setChan h x.1
  match x.2 with
  | .discarded => s
  | .tripped => headFault h .trip (sendDrive h 0 false s)
  | .ended => awaitEvent h .bondEnd Config.bondEndLimit (sendDrive h 0 true s)
  | .driven d => sendDrive h d false s

/-- The loss window expires (R93) (DESIGN CHOICE, log entry 14). -/
def onLossWindow (h : Head) (s : State) : State :=
  let c := s.chan h
  if c.running ∧ c.window then
    headFault h .sampleLoss (sendDrive h 0 false (s.setChan h (c.lose (s.recipe (c.recipe.getD 0)))))
  else s

/-- The drive of sample Tstart has been sent while still in STARTUP (R89 step 15) (DESIGN CHOICE, log entry 9). -/
def onStartupTimeout (h : Head) (s : State) : State :=
  let c := s.chan h
  if 0 < c.k then s.setChan h (c.startupTimeout (s.recipe (c.recipe.getD 0))) else s

end Sys2Proof.Machine
end

