-- ==== Sys2Proof/Machine/Pull.lean ====
section
/-! DEFINITION. The Pull Manager (chapters 7 and 8): statistics and capability, program hold, pull records and the pull log,
the work on the strip at POST, pull requests and their ends, and its management requests. -/

namespace Sys2Proof.Machine

/-! ### Limits (R114) -/

/-- The limits that judge a program: its entry, or the default limits while that is not valid (R114). -/
def State.limitsOf (s : State) (p : Nat) : LimitsEntry :=
  let e := s.plm.limits.getD p {}
  if e.valid then e else { m1 := { rejectAlways := true }, m5 := { rejectAlways := true }, failLimit := 1 }

/-- The limits of failure mode `m`, for `m` from 1 to 5. -/
def modeLimit (e : LimitsEntry) (m : Nat) : ModeLimit :=
  match m with
  | 1 => e.m1
  | 2 => e.m2
  | 3 => e.m3
  | 4 => e.m4
  | _ => e.m5

/-- The verdict on a force and a mode with station status OK (R122 step 4). -/
def judge (m : ModeLimit) (force : Nat) : PullVerdict :=
  if m.minForce ≤ force ∧ m.rejectAlways = false then .pass else .fail

/-! ### Statistics and derived values (R128 to R132) -/

/-- floor(Σx / n), valid from n = 1 on (R131). -/
def Stats.mean (x : Stats) : Option Nat := if 1 ≤ x.n then some (x.sum / x.n) else none

/-- The largest integer whose square does not exceed floor(V / (n × (n − 1))), valid from n = 2 on (R131). -/
def Stats.sd (x : Stats) : Option Nat :=
  if 2 ≤ x.n then some (isqrt ((x.n * x.sumSq - x.sum * x.sum) / (x.n * (x.n - 1)))) else none

/-- mean − 3 × sd, signed, valid from n = 2 on (R131). -/
def Stats.margin (x : Stats) : Option Int :=
  match x.mean, x.sd with
  | some m, some d => some ((m : Int) - 3 * d)
  | _, _ => none

/-- A counted force enters the record (R129 steps 1 and 2). -/
def Stats.count (x : Stats) (force : Nat) : Stats :=
  if x.n = 65535 then { x with saturated := true }
  else { x with n := x.n + 1, sum := x.sum + force, sumSq := x.sumSq + force * force
                min := some (match x.min with
                             | some m => Nat.min m force
                             | none => force)
                max := some (match x.max with
                             | some m => Nat.max m force
                             | none => force) }

def State.stats (s : State) (p : Nat) : Stats := s.plm.stats.getD p {}

def State.setStats (s : State) (p : Nat) (x : Stats) : State :=
  { s with plm := { s.plm with stats := s.plm.stats.set p x } }

/-- The capability check (R132). -/
def capabilityCheck (p : Nat) (s : State) : State :=
  let e := s.plm.limits.getD p {}
  let x := s.stats p
  if e.valid ∧ e.capCount ≤ x.n then
    match x.margin with
    | some m =>
      if m < e.capLimit then
        if x.failing then s else raiseAlarm .pullCapability (.program p) m.toNat (s.setStats p { x with failing := true })
      else if x.failing then clearAlarm .pullCapability (.program p) (s.setStats p { x with failing := false }) else s
    | none => s
  else s

/-- A counted record enters the statistics of its program (R129). -/
def countForce (p force : Nat) (s : State) : State :=
  let x := s.stats p
  let s := s.setStats p (x.count force)
  if x.n = 65535 then s else capabilityCheck p s

/-! ### Program hold (R133, R135) -/

def State.setProgState (s : State) (p : Nat) (x : ProgramState) : State :=
  { s with plm := { s.plm with progState := s.plm.progState.set p x } }

/-- The hold is weighed at a FAIL record of the strip at POST (R133). -/
def weighHold (p mode : Nat) (s : State) : State :=
  let s := s.modStrip .post fun r => { r with pullFails := r.pullFails + 1 }
  let fails := (s.trc.post.map (·.pullFails)).getD 0
  let e := s.limitsOf p
  if e.failLimit ≤ fails ∨ (modeLimit e mode).rejectAlways then
    raiseAlarm .pullFail (.program p) ((s.trc.post.map (·.seq)).getD 0) (s.setProgState p .held)
  else s

/-- A program is released (R135) (DEDUCED, log entry 30). The strip at BOND, which a HELD program keeps in BONDING (R57, R134), is then
evaluated for CHECKING (DEDUCED, log entry 41). -/
def releaseProgram (p : Nat) (s : State) : State :=
  evaluateChecking (eachHead (removeReason .program) (clearAlarm .pullFail (.program p) (s.setProgState p .running)))

/-- PROGRAM_RELEASE (R135). -/
def onProgramRelease (p : Nat) (s : State) : Served :=
  if 8 ≤ p then refuse .badIndex s
  else if s.held p then accept (releaseProgram p s) else refuse .badState s

/-! ### Records and the log (R124 to R126) -/

/-- The end of a candidate: the readings of its record (R122, R123, R120 step 2). -/
structure PullOutcome where
  force : Option Nat := none
  mode : Option Nat := none
  status : Option StationStatus := none
  verdict : PullVerdict
  deriving DecidableEq, Repr

/-- The record of a candidate, with the log's next record number (R124). -/
def State.pullRecord (s : State) (r : StripRecord) (c : Candidate) (o : PullOutcome) : PullRecord :=
  { number := s.plm.nextRecord, time := s.now, seq := r.seq, code := r.code, program := r.program, unit := c.unit
    wire := c.wire, head := c.head, reason := c.reason, ball := c.ball, stitch := c.stitch, force := o.force
    mode := o.mode, status := o.status, verdict := o.verdict }

/-- The record joins the newest end of the log (R124 step 1). -/
def appendRecord (x : PullRecord) (s : State) : State :=
  { s with plm := { s.plm with log := s.plm.log ++ [x], nextRecord := (s.plm.nextRecord + 1) % 65536 } }

/-- The candidate takes its record number, and a BONDED one becomes PULLED (R124 step 2). -/
def Candidate.take (n : Nat) (c : Candidate) : Candidate :=
  { c with record := some n, status := if c.status = .bonded then .pulled else c.status }

/-- The level notices of an append (R126). -/
def levelNotices (s : State) : State :=
  let n := s.plm.log.length
  let s := if n = Config.logHalf ∧ s.plm.half = false then
      notify (.pullLog .half) { s with plm := { s.plm with half := true } }
    else s
  if n = Config.logRoom then notify (.pullLog .full) s else s

/-- The statistics and the hold at an append (R124 step 3). -/
def weighRecord (p : Nat) (o : PullOutcome) (s : State) : State :=
  match o.verdict, o.force, o.mode with
  | .pass, some f, some _ => countForce p f s
  | .fail, some f, some m => weighHold p m (countForce p f s)
  | _, _, _ => s

/-- A candidate of the strip at POST is recorded: steps 1 to 4 of the append (R124). -/
def recordCandidate (r : StripRecord) (c : Candidate) (o : PullOutcome) (s : State) : State :=
  let n := s.plm.nextRecord
  let t := appendRecord (s.pullRecord r c o) s
  let t := t.modStrip .post fun x =>
    { x with candidates := match candidateIndex x.candidates c.unit c.wire with
                           | some i => modifyAt x.candidates i (Candidate.take n)
                           | none => x.candidates }
  levelNotices (weighRecord r.program o t)

/-! ### The work on the strip at POST (R120) -/

/-- The strip waits for a place in the log (R120 step 1). -/
def enterLogWait (r : StripRecord) (s : State) : State :=
  if r.logWait then s
  else
    let s := notify (.pullLog .full) (s.modStrip .post fun r => { r with logWait := true })
    raiseAlarm .pullLogFull .track r.seq s

/-- PLM works on the next candidates of the strip at POST, each time as far as it can without a request: it records those
NOT_BONDED, waits for a place in the log, or takes the strip to DONE (R120). -/
def workPost : Nat → State → State
  | 0, s => s
  | fuel + 1, s =>
    match s.trc.post with
    | none => s
    | some r =>
      if r.state = .pulling ∧ r.scrapped = false ∧ s.plm.req.isNone then
        match r.nextCandidate with
        | none => s.modStrip .post fun r => { r with state := .done }
        | some c =>
          if Config.logRoom ≤ s.plm.log.length then enterLogWait r s
          else if c.status = .notBonded then workPost fuel (recordCandidate r c { verdict := .notBonded } s)
          else s
      else s

/-- The work in whole: one round for each candidate and one more suffice. -/
def pullWork (s : State) : State := workPost (Config.candidateRoom + 1) s

/-- LOG_WAIT ends: the flag and the condition of PULL_LOG_FULL clear (R119, R120). -/
def endLogWait (p : Position) (s : State) : State :=
  if (s.strip p).any (·.logWait) then clearAlarm .pullLogFull .track (s.modStrip p fun r => { r with logWait := false }) else s

/-! ### Pull requests (R121 to R123) -/

/-- The conditions under which a request is sent (R120 step 3). -/
def State.pullFree (s : State) : Bool :=
  s.working && !s.ccs.feedPause && !s.stopped .track && !s.stopped .cell && (s.addrOf .pull).isSome && s.plm.req.isNone &&
  decide (s.plm.log.length < Config.logRoom)

/-- The candidate that PLM would send a request for. -/
def State.pullTarget (s : State) : Option (StripRecord × Candidate) :=
  match s.trc.post with
  | some r =>
    if r.state = .pulling ∧ r.scrapped = false ∧ s.pullFree then
      match r.nextCandidate with
      | some c => if c.status = .bonded then some (r, c) else none
      | none => none
    else none
  | none => none

/-- A request for a candidate is sent (R121). -/
def sendPull (r : StripRecord) (c : Candidate) (s : State) : State :=
  let tag := s.plm.pullTag + 1
  let s := { s with plm := { s.plm with pullTag := tag
                                        req := some { tag := tag, seq := r.seq, unit := c.unit, wire := c.wire, sendTime := s.now } } }
  sendOwn .pull (.pullReq tag (s.hook r.program c.unit c.wire) r.seq c.unit c.wire) s

/-- PULL_REQ: PLM sends the request that stands, if one does (R120, R121) (DESIGN CHOICE, log entry 9). -/
def onPullReq (s : State) : State :=
  match s.pullTarget with
  | some (r, c) => sendPull r c s
  | none => s

/-- The outcome of a PULL_RESULT (R122 steps 1 to 4). -/
def State.pullOutcome (s : State) (p force mode : Nat) (status : StationStatus) : PullOutcome :=
  match status with
  | .noHook => { status := some .noHook, verdict := .noResult }
  | .testerFault => { status := some .testerFault, verdict := .noResult }
  | .ok =>
    if 1 ≤ mode ∧ mode ≤ 5 then
      { force := some (min force 65000), mode := some mode, status := some .ok
        verdict := judge (modeLimit (s.limitsOf p) mode) (min force 65000) }
    else { status := some .testerFault, verdict := .noResult }

/-- The candidate of a request that has ended is recorded, for the strip at POST (R124). -/
def recordRequest (q : PullRequest) (o : StripRecord → PullOutcome) (s : State) : State :=
  match s.trc.post with
  | some r =>
    if r.seq = q.seq then
      match r.candidates.find? fun c => c.unit == q.unit && c.wire == q.wire with
      | some c => recordCandidate r c (o r) s
      | none => s
    else s
  | none => s

/-- PULL_RESULT (R122). -/
def onPullResult (tag : Byte) (force mode : Nat) (status : StationStatus) (s : State) : State :=
  match s.plm.req with
  | some q =>
    if q.tag = tag then
      let t := { s with plm := { s.plm with req := none, timeouts := 0 } }
      let t := recordRequest q (fun r => s.pullOutcome r.program force mode status) t
      clearAlarm .pullStation .track (pullWork t)
    else s
  | none => s

/-- The pull request timeout (R123). -/
def onPullTimeout (s : State) : State :=
  match s.plm.req with
  | some q =>
    if elapsed s.now q.sendTime Config.pullTimeout then
      let n := satAdd 255 s.plm.timeouts 1
      let t := { s with plm := { s.plm with req := none, timeouts := n } }
      let t := raiseAlarm .pullTimeout .track (q.unit * 1000 + q.wire) t
      let t := if 3 ≤ n then raiseAlarm .pullStation .track n t else t
      pullWork (recordRequest q (fun _ => { verdict := .noResult }) t)
    else s
  | none => s

/-! ### Admission (R115) -/

/-- PLM counts an admitted strip and plans its candidates (R115). -/
def admitToPlm (s : State) : State :=
  match s.trc.preheat with
  | some r =>
    let p := r.program
    let n := (s.plm.counters.getD p 0 + 1) % 65536
    let s := { s with plm := { s.plm with counters := s.plm.counters.set p n } }
    let pl := s.plm.plans.getD p {}
    if pl.valid ∧ pl.interval ≠ 0 ∧ n % pl.interval = 0 then
      s.modStrip .preheat fun r => { r with candidates := plannedCandidates pl (s.program p) r.skip }
    else s
  | none => s

/-! ### Management (R118, R125, R126, R130, R131) -/

/-- The candidate that PULL_ADD appends (R118). -/
def State.operatorCandidate (s : State) (p : Position) (u w : Nat) : Candidate :=
  { unit := u, wire := w, reason := .operator
    status := if p = .bond ∧ (s.unit? u).any (·.done.contains w) then .bonded else .waiting }

/-- PULL_ADD (R118). -/
def onPullAdd (seq u w : Nat) (s : State) : Served :=
  match s.findStrip seq with
  | none => refuse .notFound s
  | some (p, r) =>
    let e := s.program r.program
    if unitCount e ≤ u ∨ e.wireCount ≤ w then refuse .badIndex s
    else if r.scrapped then refuse .badState s
    else if p = .post then refuse .badState s
    else if r.skip.getLsbD u then refuse .badState s
    else
      match candidateIndex r.candidates u w with
      | some i =>
        accept (s.modStrip p fun r => { r with candidates := modifyAt r.candidates i fun c => { c with reason := .operator } })
      | none =>
        if Config.candidateRoom ≤ r.candidates.length then refuse .badState s
        else accept (s.modStrip p fun r => { r with candidates := r.candidates ++ [s.operatorCandidate p u w] })

/-- PULL_READ (R125). -/
def onPullRead (count : Nat) (s : State) : Served :=
  if 1 ≤ count ∧ count ≤ 4 then acceptWith (.pullRecords (s.plm.log.take count)) s else refuse .badValue s

/-- The place of record number `n` in the log, counted from the oldest (R126). -/
def State.logPlace (s : State) (n : Nat) : Option Nat :=
  match s.plm.log with
  | [] => none
  | x :: _ =>
    let d := (n + 65536 - x.number) % 65536
    if d < s.plm.log.length then some d else none

/-- Records leave the log through place `d` (R126). -/
def releaseRecords (d : Nat) (s : State) : State :=
  let s := { s with plm := { s.plm with log := s.plm.log.drop (d + 1) } }
  let s := if s.plm.half ∧ s.plm.log.length < Config.logHalf then
      notify (.pullLog .belowHalf) { s with plm := { s.plm with half := false } }
    else s
  if s.trc.post.any (·.logWait) then pullWork (endLogWait .post s) else s

/-- PULL_RELEASE (R126). -/
def onPullRelease (n : Nat) (s : State) : Served :=
  match s.logPlace n with
  | some d => accept (releaseRecords d s)
  | none => refuse .notFound s

/-- What STATS_READ returns (R131). -/
def State.statsReport (s : State) (p : Nat) : StatsReport :=
  let x := s.stats p
  { stats := x, mean := x.mean, sd := x.sd, margin := x.margin, state := s.plm.progState.getD p .running
    strips := s.stripCount p }

/-- STATS_READ (R131). -/
def onStatsRead (p : Nat) (s : State) : Served :=
  if p < 8 then acceptWith (.stats (s.statsReport p)) s else refuse .badIndex s

/-- The statistics of one program start again (R130). -/
def resetStats (p : Nat) (s : State) : State :=
  let t := s.setStats p {}
  if (s.stats p).failing then clearAlarm .pullCapability (.program p) t else t

/-- STATS_RESET (R130); ALL takes the programs from 0 to 7, and so the notices of their alarms (DEDUCED, log entry 17). -/
def onStatsReset (sel : StatsSel) (s : State) : Served :=
  match sel with
  | .all => accept ((List.range 8).foldl (fun t p => resetStats p t) s)
  | .program p => if p < 8 then accept (resetStats p s) else refuse .badIndex s

end Sys2Proof.Machine
end

