-- ==== Sys2Proof/Machine/Feed.lean ====
section
/-! DEFINITION. The Feed Controller (chapter 1): the load check, the next slot, pushes and admissions, the output magazine; and
TRC's part in them, the preheat dwell (R24). -/

namespace Sys2Proof.Machine

/-- Change FDC's record. -/
def State.modFdc (s : State) (f : Fdc → Fdc) : State := { s with fdc := f s.fdc }

/-- Change TRC's record. -/
def State.modTrc (s : State) (f : Trc → Trc) : State := { s with trc := f s.trc }

/-- The indexer becomes FREE (R25). -/
def freeIndexer (s : State) : State := s.modTrc fun t => { t with op := none }

/-! ### Preheat dwell (R24) -/

/-- A strip in PREHEAT whose dwell has reached the parameter enters WAIT_BOND (R24) (DEDUCED, log entry 29). -/
def dwellCheck (s : State) : State :=
  match s.trc.preheat with
  | some r =>
    if r.state = .preheat ∧ r.scrapped = false ∧ s.ccs.params.preheatDwell ≤ r.dwell then
      s.modStrip .preheat fun r => { r with state := .waitBond }
    else s
  | none => s

/-- The strip at PREHEAT counts dwell (R24). -/
def State.dwells (s : State) : Bool :=
  decide (s.trc.heat.state = .ready) &&
  match s.trc.preheat with
  | some r => (decide (r.state = .preheat) || decide (r.state = .waitBond)) && !r.scrapped
  | none => false

/-- One millisecond of dwell (R24). -/
def countDwell (s : State) : State :=
  if s.dwells then dwellCheck (s.modStrip .preheat fun r => { r with dwell := satAdd 65535 r.dwell 1 }) else s

/-! ### The next slot (R9) -/

/-- The next slot is evaluated: a READY or FEEDING magazine with none and no push in flight becomes EXHAUSTED (R9). -/
def evaluateNext (s : State) : State :=
  if (s.fdc.mag = .ready ∨ s.fdc.mag = .feeding) ∧ s.nextSlot = none ∧ s.fdc.push = none then
    raiseAlarm .inputEmpty .feeder 0 (s.modFdc fun f => { f with mag := .exhausted, pointer := none })
  else s

/-- The magazine becomes READY: the pointer is set from the parameters (R5 step 2, R9). -/
def becomeReady (s : State) : State :=
  evaluateNext (s.modFdc fun f =>
    { f with mag := .ready, pendingSlot := none, pointer := some s.ccs.params.inStart, dir := s.ccs.params.inDir })

/-! ### The load check (R5) -/

/-- Slot `n` fails the masked compare (R5 step 1). -/
def Fdc.mismatch (f : Fdc) (n : Nat) : Bool :=
  let m := f.marks.getD n {}
  !m.masked && decide ((f.lot.getD n {}).expected ≠ m.sensed)

/-- The first slot from the scan resume slot on that fails the compare (R5 step 1). -/
def Fdc.firstMismatch (f : Fdc) : Option Nat :=
  (List.range Config.slots).find? fun n => decide (f.resume ≤ n) && f.mismatch n

/-- Change one slot's working marks. -/
def Fdc.modMark (f : Fdc) (n : Nat) (g : SlotMarks → SlotMarks) : Fdc := { f with marks := modifyAt f.marks n g }

/-- The check stops at a mismatch (R5 step 3) (DEDUCED, log entry 17). -/
def stopCheck (n : Nat) (s : State) : State :=
  let s := s.modFdc fun f => { f.modMark n (fun m => { m with masked := true }) with pendingSlot := some n, resume := n + 1 }
  notify (.decision (.slotMismatch n (s.fdc.lot.getD n {}).expected (s.fdc.marks.getD n {}).sensed))
    (raiseAlarm .slotMismatch .feeder n s)

/-- The load check from the scan resume slot on (R5). -/
def loadCheck (s : State) : State :=
  match s.fdc.firstMismatch with
  | none => becomeReady s
  | some n => stopCheck n s

/-! ### The input magazine's events (R4, R7) -/

/-- The condition of INPUT_EMPTY ends as the magazine leaves EXHAUSTED (R4, R7). -/
def leaveExhausted (was : MagState) (s : State) : State := if was = .exhausted then clearAlarm .inputEmpty .feeder s else s

/-- The working marks that a MAG_IN sets (R4). -/
def Fdc.sensedMarks (f : Fdc) (sensed : SlotMap) : List SlotMarks :=
  (List.range Config.slots).map fun n =>
    { sensed := if sensed.getLsbD n then .occupied else .empty, masked := (f.lot.getD n {}).dontCare }

/-- A push in flight sees a MAG_IN or MAG_OUT (R13). -/
def Fdc.touch (f : Fdc) : Fdc := { f with push := f.push.map fun p => { p with magTouched := true } }

/-- MAG_IN of the FEED_IN node (R4). -/
def onMagIn (sensed : SlotMap) (s : State) : State :=
  let t := s.modFdc fun f =>
    { f.touch with marks := f.sensedMarks sensed, pendingSlot := none, pointer := none, resume := 0, mag := .scanning }
  loadCheck (leaveExhausted s.fdc.mag t)

/-- MAG_OUT of the FEED_IN node (R7). -/
def onMagOut (s : State) : State :=
  let t := s.modFdc fun f =>
    { f.touch with marks := List.replicate Config.slots {}, pendingSlot := none, pointer := none, mag := .absent }
  leaveExhausted s.fdc.mag t

/-- SLOT_OP (R6). -/
def onSlotOp (d : SlotOp) (n : Nat) (s : State) : Served :=
  if Config.slots ≤ n then refuse .badIndex s
  else if s.fdc.mag ≠ .scanning ∨ s.fdc.pendingSlot = none then refuse .badState s
  else if s.fdc.pendingSlot ≠ some n then refuse .notFound s
  else
    let s := match d with
      | .acceptSensed => s
      | .skipSlot => s.modFdc (·.modMark n fun m => { m with skipped := true })
    accept (loadCheck (s.modFdc fun f => { f with pendingSlot := none }))

/-! ### Pushes (R11 to R13) -/

/-- The push of slot `n` is granted (R11). -/
def startPush (n : Nat) (s : State) : State :=
  let v := s.feedValues n
  let t := s.modFdc fun f =>
    { f.modMark n (fun m => { m with push := .pushed }) with
      push := some { slot := n, program := v.1, skip := v.2.1, code := v.2.2, grantTime := s.now }
      pointer := some n, mag := if f.mag = .ready then .feeding else f.mag }
  let t := t.modTrc fun x =>
    { x with op := some { kind := .push, strip := none, moveNo := none, slot := some n, grantTime := s.now, timeout := Config.pushTimeout } }
  sendOwn .feedIn (.feedPush n) t

/-- The push in flight ends and the indexer is freed (R12, R13). -/
def endPush (s : State) : State := freeIndexer (s.modFdc fun f => { f with push := none })

/-- The push fails (R13). The cell is looked at again by the caller, since the track may now be empty. -/
def failPush (p : PushInFlight) (s : State) : State :=
  let s := raiseAlarm .feedJam .feeder p.slot (endPush s)
  let s := if p.magTouched then s else s.modFdc (·.modMark p.slot fun m => { m with push := .failed })
  evaluateNext s

/-- The code check (R12 step 2): an expected code and an unread or different code fail it. -/
def codeFails (expected read : Option StripCode) : Bool :=
  match expected with
  | none => false
  | some c => decide (read ≠ some c)

/-- The record of an admitted strip (R12 step 1, R19). -/
def State.admission (s : State) (p : PushInFlight) (code : Option StripCode) : StripRecord :=
  { seq := s.trc.nextSeq, code := code, slot := p.slot, program := p.program, skip := p.skip, idUnread := code.isNone
    state := if codeFails p.code code then .idHold else .preheat }

/-- A strip that fails the code check (R12 step 4). -/
def idMismatch (seq : Nat) (expected read : Option StripCode) (s : State) : State :=
  match expected with
  | some c => notify (.decision (.idMismatch seq c read)) (raiseAlarm .idMismatch .feeder seq s)
  | none => s

/-- STRIP_IN ends the push `p` and admits its strip (R12). -/
def admitStrip (p : PushInFlight) (code : Option StripCode) (s : State) : State :=
  let r := s.admission p code
  let t := (endPush s).modTrc fun x => { x with preheat := some r, nextSeq := if x.nextSeq = 65535 then 1 else x.nextSeq + 1 }
  let t := if codeFails p.code code then idMismatch r.seq p.code code t else dwellCheck t
  let t := admitToPlm (notify (.strip r.seq .admitted) t)
  evaluateNext (clearAlarm .feedJam .feeder t)

/-- STRIP_IN of the FEED_IN node (R12). -/
def onStripIn (code : Option StripCode) (s : State) : State :=
  match s.fdc.push with
  | some p => admitStrip p code s
  | none => s

/-! ### The output magazine (R15 to R17) -/

/-- The search for the next free slot finds none: the magazine becomes FULL (R15 step 4, R16) (DEDUCED, log entry 31). -/
def becomeFull (s : State) : State :=
  raiseAlarm .outputFull .track 0 (s.modFdc fun f => { f with out := .full, outNext := none })

/-- The magazine becomes READY with the slot that the search finds; the condition of OUTPUT_FULL clears if it was FULL (R15). -/
def becomeOutReady (s : State) : State :=
  let t := s.modFdc fun f => { f with out := .ready, outNext := f.freeFrom }
  if s.fdc.out = .full then clearAlarm .outputFull .track t else t

/-- MAG_IN of the FEED_OUT node (R15): a slot reserved by an ejection keeps its mark. -/
def onOutMagIn (sensed : SlotMap) (s : State) : State :=
  let kept := match s.fdc.reserved with
    | some n => sensed &&& ~~~(1#40 <<< n)
    | none => sensed
  let t := s.modFdc fun f => { f with outFull := kept, fill := some s.ccs.params.outStart, outDir := s.ccs.params.outDir }
  if t.fdc.freeFrom.isSome then becomeOutReady t else becomeFull t

/-- MAG_OUT of the FEED_OUT node (R17). -/
def onOutMagOut (s : State) : State :=
  let t := s.modFdc fun f => { f with outFull := 0, fill := none, out := .absent, outNext := none }
  if s.fdc.out = .full then clearAlarm .outputFull .track t else t

/-- The reserved slot takes its strip (R16) (DEDUCED, log entry 16). R16 gives only the case that the search finds no free slot; where
it finds one while a MAG_IN during the ejection has made the magazine FULL, the magazine becomes READY and the condition of OUTPUT_FULL
clears (DEDUCED, log entry 31). -/
def fillSlot (n : Nat) (s : State) : State :=
  let t := s.modFdc fun f =>
    { f with outFull := if f.out = .absent then f.outFull else markSlot f.outFull n, reserved := none, fill := some n }
  if t.fdc.out = .absent then t else if t.fdc.freeFrom.isSome then becomeOutReady t else becomeFull t

/-- The reservation of a failed ejection is cleared (R16). -/
def clearReservation (s : State) : State :=
  let t := s.modFdc fun f => { f with reserved := none }
  if t.fdc.out = .absent then t
  else if t.fdc.freeFrom.isSome then becomeOutReady t
  else if t.fdc.out = .full then t else becomeFull t

end Sys2Proof.Machine
end

