-- ==== Sys2Proof/Machine/Track.lean ====
section
/-! DEFINITION. The Track Controller (chapter 2): grants in the arbiter's order, completions, failures and timeouts of the
indexer's operations, the heat monitor; and the cell's change from DRAIN to READY that an empty track brings (R174). -/

namespace Sys2Proof.Machine

/-! ### The track empty (R23, R174) -/

/-- The cell enters READY from DRAIN (R174): the feed pause clears, reason CELL is removed from both heads, and a PARKED head
enters IDLE (R51). -/
def drainToReady (s : State) : State :=
  let t := { s with ccs := { s.ccs with cell := .ready, feedPause := false } }
  eachHead (fun h t => unpark h (removeReason .cell h t)) t

/-- TRC reports the track empty to a cell in DRAIN (R23, R174). -/
def drainCheck (s : State) : State := if s.ccs.cell = .drain ∧ s.trackEmpty then drainToReady s else s

/-! ### The arbiter (R25, R26) -/

/-- The operation that the arbiter would grant now, in the order EJECT, MOVE_BP, MOVE_PB, PUSH (R26) (DESIGN CHOICE, log
entry 8). -/
def State.granted (s : State) : Option OpKind :=
  if s.trc.op.isSome then none
  else if s.ejectStands then some .eject
  else if s.moveBpStands then some .moveBp
  else if s.movePbStands then some .movePb
  else if s.pushStands then some .push else none

/-- The grant of a push (R11, R25) (DESIGN CHOICE, log entry 9). -/
def grantPush (s : State) : State :=
  match s.granted, s.nextSlot with
  | some .push, some n => startPush n s
  | _, _ => s

/-- A move is granted: the move number rises by 1 and TRACK_CMD MOVE is sent (R25, R28, R29). -/
def startMove (k : OpKind) (o : Origin) (seq : Nat) (s : State) : State :=
  let n := s.trc.moveNo + 1
  let t := s.modTrc fun x =>
    { x with moveNo := n
             op := some { kind := k, strip := some seq, moveNo := some n, slot := none, grantTime := s.now, timeout := Config.moveTimeout } }
  sendOwn .track (.trackMove o n) t

/-- The grant of MOVE_PB (R28). -/
def grantMovePb (s : State) : State :=
  match s.granted, s.trc.preheat with
  | some .movePb, some r => startMove .movePb .preheat r.seq s
  | _, _ => s

/-- The grant of MOVE_BP (R29). -/
def grantMoveBp (s : State) : State :=
  match s.granted, s.trc.bond with
  | some .moveBp, some r => startMove .moveBp .bond r.seq s
  | _, _ => s

/-- The ejection of the strip at POST into slot `n` (R16, R30). -/
def startEject (r : StripRecord) (n : Nat) (s : State) : State :=
  let t := s.modFdc fun f => { f with reserved := some n }
  let t := t.modStrip .post fun r => { r with state := .ejecting, former := r.state }
  let t := t.modTrc fun x =>
    { x with op := some { kind := .eject, strip := some r.seq, moveNo := none, slot := some n, grantTime := s.now
                          timeout := Config.pushTimeout } }
  sendOwn .feedOut (.feedEject n) t

/-- The grant of EJECT (R30). -/
def grantEject (s : State) : State :=
  match s.granted, s.trc.post, s.nextFree with
  | some .eject, some r, some n => startEject r n s
  | _, _, _ => s

/-! ### Completions (R28 to R30) -/

/-- The condition of TRACK_JAM ends with a completion (R31). -/
def clearJam (s : State) : State := clearAlarm .trackJam .track s

/-- MOVE_PB completes (R28). The condition of TRACK_JAM (R31) clears before the notice (DEDUCED, log entry 17). -/
def completeMovePb (s : State) : State :=
  match s.trc.preheat with
  | none => freeIndexer s
  | some r =>
    let t := clearJam (s.modTrc fun x => { x with op := none, preheat := none, bond := some r })
    if r.scrapped then notify (.strip r.seq .atBond) t
    else
      let t := createUnits r (t.modStrip .bond fun r => { r with state := .bonding })
      eachHead askUnit (evaluateChecking (notify (.strip r.seq .atBond) t))

/-- What entering POST makes of the state name of a strip that is not scrapped (R29 step 3). -/
def StripRecord.enterPost (r : StripRecord) : StripRecord :=
  if r.scrapped then r else { r with state := if r.nextCandidate.isSome then .pulling else .done }

/-- MOVE_BP completes (R29); reason PROGRAM is removed as the strip leaves BOND (R57), and the pull work of the strip at POST begins
(R120). No rule gives the order of these and of the clear of TRACK_JAM (R31): TRACK_JAM clears first, and reason PROGRAM leaves the
heads before the pull work, whose notices and PULL_LOG_FULL so come last (DEDUCED, log entry 17). -/
def completeMoveBp (s : State) : State :=
  match s.trc.bond with
  | none => freeIndexer s
  | some r =>
    let t := clearJam (s.modTrc fun x => { x with op := none, bond := none, post := some (markNotBonded r).enterPost })
    pullWork (eachHead (removeReason .program) (discardUnits t))

/-- The kind of move from an origin. -/
def moveKind : Origin → OpKind
  | .preheat => .movePb
  | .bond => .moveBp

/-- The move in flight has this origin and number (R28, R31). -/
def State.moveMatches (s : State) (o : Origin) (n : Byte) : Bool :=
  match s.trc.op with
  | some x => decide (x.kind = moveKind o) && decide (x.moveNo = some n)
  | none => false

/-- MOVE_DONE (R28, R29); a late one is discarded (R31). -/
def onMoveDone (o : Origin) (n : Byte) (s : State) : State :=
  if s.moveMatches o n then
    match o with
    | .preheat => completeMovePb s
    | .bond => completeMoveBp s
  else s

/-- The slot that the ejection in flight holds. -/
def State.ejectSlot (s : State) : Option Nat :=
  match s.trc.op with
  | some x => if x.kind = .eject then x.slot else none
  | none => none

/-- The ejection completes (R30). The strip's candidate list is discarded with its record: the copy holds the fields of R19 alone
(R116, R20). The condition of TRACK_JAM (R31) clears after the slot work and before the notice (DEDUCED, log entry 17). -/
def completeEject (n : Nat) (s : State) : State :=
  match s.trc.post with
  | none => freeIndexer s
  | some r =>
    let t := clearJam (fillSlot n (freeIndexer s))
    let t := t.modTrc fun x => { x with post := none, lastEjected := some { r with dest := some n }.fields }
    drainCheck (notify (.strip r.seq .ejected) t)

/-- EJECTED (R30); one that names another slot, or finds no ejection in flight, is discarded. -/
def onEjected (n : Nat) (s : State) : State := if s.ejectSlot = some n then completeEject n s else s

/-! ### Failures (R31) -/

/-- The detail of TRACK_JAM for a failed operation (R31). -/
def jamDetail : OpKind → Nat
  | .movePb => 1
  | .moveBp => 2
  | .eject => 3
  | .push => 0

/-- A move or an ejection fails; its strip stays at its origin (R31). -/
def failOp (k : OpKind) (s : State) : State :=
  let t := freeIndexer s
  let t :=
    if k = .eject then (clearReservation t).modStrip .post fun r => { r with state := r.former } else t
  raiseAlarm .trackJam .track (jamDetail k) t

/-- TRACK_FAULT (R31). -/
def onTrackFault (o : Origin) (n : Byte) (s : State) : State :=
  if s.moveMatches o n then failOp (moveKind o) s else raiseAlarm .trackJam .track 0 s

/-- FEED_FAULT of the FEED_OUT node (R31). -/
def onOutFeedFault (s : State) : State :=
  if s.opIs .eject then failOp .eject s else raiseAlarm .trackJam .track 0 s

/-- The timeout of a move or an ejection (R31). -/
def onMoveTimeout (s : State) : State :=
  match s.trc.op with
  | some x => if x.kind ≠ .push ∧ elapsed s.now x.grantTime x.timeout then failOp x.kind s else s
  | none => s

/-- FEED_FAULT of the FEED_IN node (R13). -/
def onFeedFault (s : State) : State :=
  match s.fdc.push with
  | some p => drainCheck (failPush p s)
  | none => raiseAlarm .feedJam .feeder Config.slots s

/-- The timeout of a push (R13). -/
def onPushTimeout (s : State) : State :=
  match s.fdc.push with
  | some p => if elapsed s.now p.grantTime Config.pushTimeout then drainCheck (failPush p s) else s
  | none => s

/-! ### The heat monitor (R35 to R38) -/

/-- Change the heat monitor. -/
def State.modHeat (s : State) (f : Heat → Heat) : State := s.modTrc fun x => { x with heat := f x.heat }

/-- The monitor has entered READY (R37) (DEDUCED, log entry 17). -/
def heatReady (s : State) : State :=
  clearAlarm .heatNotReady .cell (eachHead (removeReason .heat) (notify (.heat true) s))

/-- The monitor has left READY (R37). -/
def heatLost (s : State) : State :=
  let t := addReason .heat .b (addReason .heat .a (notify (.heat false) s))
  if t.ccs.cell = .run then raiseAlarm .heatNotReady .cell (t.trc.heat.lastTemp.getD 0) t else t

/-- The temperature lies within `band` of the target. -/
def inBand (target band t : Nat) : Bool := decide (target ≤ t + band) && decide (t ≤ target + band)

/-- The counter has come to `n` samples: SETTLING, or READY with the counter at the settle count once it has reached it (R35). -/
def Heat.settle (settleCount n : Nat) (h : Heat) : Heat :=
  if settleCount ≤ n then { h with state := .ready, counter := settleCount } else { h with state := .settling, counter := n }

/-- The monitor's state and counter after a sample (the table of R35); a sample that leaves the monitor READY leaves its counter at
the settle count as it is at that sample (DEDUCED, log entry 36). -/
def weighHeat (p : Params) (t : Nat) (h : Heat) : Heat :=
  let near := inBand p.heatTarget p.heatBand t
  let wide := inBand p.heatTarget (p.heatBand + p.heatHysteresis) t
  match h.state with
  | .notReady =>
    if near then h.settle p.settleCount 1 else { h with counter := 0 }
  | .settling =>
    if near then h.settle p.settleCount (h.counter + 1) else { h with state := .notReady, counter := 0 }
  | .ready => if wide then { h with counter := p.settleCount } else { h with state := .notReady, counter := 0 }

/-- The effects of a change of the monitor into or out of READY (R37). -/
def heatChange (before : HeatState) (s : State) : State :=
  if before ≠ .ready ∧ s.trc.heat.state = .ready then heatReady s
  else if before = .ready ∧ s.trc.heat.state ≠ .ready then heatLost s else s

/-- A HEAT_SAMPLE taken (R35, R36). The condition of HEAT_SIGNAL clears before the sample is weighed, and so before the HEAT notice and
HEAT_NOT_READY (DEDUCED, log entry 17). -/
def onHeatSample (temperature : Nat) (s : State) : State :=
  let t := min temperature 5000
  let u := (clearAlarm .heatSignal .cell s).modHeat fun h =>
    weighHeat s.ccs.params t { h with lastTemp := some t, timer := some s.now }
  heatChange s.trc.heat.state u

/-- The heat signal timer has run out. -/
def State.heatSilent (s : State) : Bool :=
  match s.trc.heat.timer with
  | some t => elapsed s.now t Config.heatTimeout
  | none => false

/-- The heat signal timer expires (R36). -/
def onHeatTimer (s : State) : State :=
  if s.heatSilent then
    let t := s.modHeat fun _ => {}
    raiseAlarm .heatSignal .cell 0 (heatChange s.trc.heat.state t)
  else s

/-- The monitor as the cell enters STOPPED (R38). -/
def resetHeat (s : State) : State :=
  let t := clearAlarm .heatNotReady .cell (clearAlarm .heatSignal .cell (s.modHeat fun _ => {}))
  if s.trc.heat.state = .ready then notify (.heat false) t else t

end Sys2Proof.Machine
end

