-- ==== Sys2Proof/Machine/Strips.lean ====
section
/-! DEFINITION. The requests of STRIP_OP: ACCEPT_ID (R14), SCRAP (R33, R110, R111), SKIP_UNIT (R55, R56), and the decisions
NSB_RESUME, REBOND_WIRE and WAIVE_WIRE as NSB decisions (R74) and as coverage decisions (R105, R106). -/

namespace Sys2Proof.Machine

/-! ### ACCEPT_ID (R14) -/

/-- ACCEPT_ID (R14). -/
def onAcceptId (seq : Nat) (s : State) : Served :=
  match s.findStrip seq with
  | none => refuse .notFound s
  | some (p, r) =>
    if r.state = .idHold ∧ r.scrapped = false then
      accept (clearAlarm .idMismatch .feeder (dwellCheck (s.modStrip p fun r => { r with state := .preheat })))
    else refuse .badState s

/-! ### SCRAP (R33, R110, R111) -/

/-- The head has a pending NSB decision on the strip. -/
def State.awaitsNsb (s : State) (h : Head) (seq : Nat) : Bool := (s.head h).nsb.any fun d => d.wire.seq == seq

/-- What a SCRAP in BONDING does to one unit (R110 steps 1 and 2). -/
def UnitRecord.scrap (x : UnitRecord) : UnitRecord :=
  match x.state with
  | .pending => { x with state := .skipped }
  | .claimed => { x with skipPending := true }
  | .done | .partial_ | .skipped => x

/-- The marks of the PENDING units, unit `u` the first of the list. -/
def pendingMarks : List UnitRecord → Nat → UnitMarks → UnitMarks
  | [], _, m => m
  | x :: xs, u, m => pendingMarks xs (u + 1) (if x.state = .pending then markUnit m u else m)

/-- Every PENDING unit becomes SKIPPED and every CLAIMED unit gets skip pending (R110 steps 1 and 2). -/
def skipAll (s : State) : State :=
  let t := { s with usc := { s.usc with units := s.usc.units.map (List.map UnitRecord.scrap) } }
  t.modStrip .bond fun r => { r with skip := pendingMarks s.units 0 r.skip }

/-- SCRAP of a strip in BONDING (R110); in steps 3 to 5 head A is taken before head B (DESIGN CHOICE, log entry 3). -/
def scrapBonding (seq : Nat) (s : State) : State :=
  let t := skipAll s
  let t := [Head.a, .b].foldl (fun t h => if t.awaitsNsb h seq then endNsb h t else t) t
  let t := [Head.a, .b].foldl (fun t h => if (t.head h).state = .hold then skipNow h true t else t) t
  unpark .b (unpark .a t)

/-- The scrapped strip enters RELEASED from CHECKING (R111). -/
def releaseScrapped (seq : Nat) (s : State) : State :=
  notify (.strip seq .released) (s.modStrip .bond fun r => { r with state := .released })

/-- SCRAP of a strip in CHECKING ends the scan (R111). While a rebond claim stands the rebond head stays, though the scan is ENDED
(DEDUCED, log entry 25). -/
def scrapChecking (seq : Nat) (s : State) : State :=
  let t := { s with vcu := { s.vcu with scan := some .ended
                                        pendingWire := if s.vcu.rebondHead.isSome then s.vcu.pendingWire else none } }
  match s.vcu.rebondHead with
  | none => releaseScrapped seq t
  | some h => if t.awaitsNsb h seq then releaseScrapped seq (endNsb h t) else t

/-- The pair that a pull request in flight for this strip names. -/
def State.pairInFlight (s : State) (seq : Nat) : Option (Nat × Nat) :=
  match s.plm.req with
  | some q => if q.seq = seq then some (q.unit, q.wire) else none
  | none => none

/-- A SCRAP that passes (R33). -/
def scrapStrip (p : Position) (r : StripRecord) (s : State) : State :=
  let t := s.modStrip p fun r => { r with scrapped := true }
  let t := notify (.strip r.seq .scrapped) t
  let t := endLogWait p (t.modStrip p (cancelCandidates (s.pairInFlight r.seq)))
  match r.state with
  | .idHold => clearAlarm .idMismatch .feeder t
  | .bonding => scrapBonding r.seq t
  | .checking => scrapChecking r.seq t
  | .preheat | .waitBond | .released | .pulling | .done | .ejecting => t

/-- SCRAP (R33). -/
def onScrap (seq : Nat) (s : State) : Served :=
  match s.findStrip seq with
  | none => refuse .notFound s
  | some (p, r) =>
    if r.scrapped ∨ r.state = .ejecting then refuse .badState s else accept (scrapStrip p r s)

/-! ### SKIP_UNIT (R55, R56) -/

/-- A CLAIMED unit gets skip pending; with its claimant in HOLD it becomes SKIPPED at once (R55, R56). -/
def skipClaim (u : Nat) (h : Head) (s : State) : State :=
  let t := s.modUnit u fun x => { x with skipPending := true }
  if (s.head h).state = .hold then (if (s.head h).nsb.isSome then endNsb h t else skipNow h true t) else t

/-- A PENDING unit becomes SKIPPED; a PARKED head asks again and the strip is evaluated for CHECKING (R55). -/
def skipPendingUnit (u : Nat) (s : State) : State :=
  let t := markSkipped u (s.modUnit u fun x => { x with state := .skipped })
  evaluateChecking (reaskParked .b (reaskParked .a t))

/-- SKIP_UNIT for a strip in BONDING (the second table of R55). -/
def skipBonding (u : Nat) (s : State) : Served :=
  match s.unit? u with
  | none => refuse .badState s
  | some x =>
    match x.state with
    | .pending => accept (skipPendingUnit u s)
    | .claimed =>
      if x.skipPending then accept s
      else
        match x.claimant with
        | some h => accept (skipClaim u h s)
        | none => accept (s.modUnit u fun x => { x with skipPending := true })
    | .skipped => accept s
    | .done | .partial_ => refuse .badState s

/-- SKIP_UNIT (R55). -/
def onSkipUnit (seq u : Nat) (s : State) : Served :=
  match s.findStrip seq with
  | none => refuse .notFound s
  | some (p, r) =>
    if unitCount (s.program r.program) ≤ u then refuse .badIndex s
    else if r.scrapped then refuse .badState s
    else
      match r.state with
      | .idHold | .preheat | .waitBond => accept (s.modStrip p fun r => { r with skip := markUnit r.skip u })
      | .bonding => skipBonding u s
      | .checking | .released | .pulling | .done | .ejecting => refuse .badState s

/-! ### NSB decisions (R74) -/

/-- NSB_RESUME (R74). -/
def onNsbResume (w : WireRef) (s : State) : Served :=
  match s.findStrip w.seq with
  | none => refuse .notFound s
  | some _ =>
    match s.nsbHead w with
    | some h => accept (endNsb h s)
    | none => refuse .badState s

/-- Set a wire's waiver mark (R102). -/
def waive (u w : Nat) (s : State) : State := s.modUnit u fun x => { x with waived := insertMark x.waived w }

/-- WAIVE_WIRE as the NSB decision of head `h` (R74). -/
def waiveNsb (h : Head) (w : WireRef) (s : State) : State :=
  let own := decide ((s.head h).state = .hold)
  reportMissed h own (waive w.unit w.wire (takeNsb h s))

/-- REBOND_WIRE as the NSB decision of head `h` (R74). -/
def rebondNsb (h : Head) (s : State) : State :=
  let t := takeNsb h s
  if (t.head h).state = .hold ∧ (t.head h).hold.isEmpty then leaveHold h t else t

/-! ### Coverage decisions (R105, R106) -/

/-- The wire has not been stepped past by its unit (R105). -/
def UnitRecord.notPassed (x : UnitRecord) (w : Nat) : Bool :=
  (decide (x.state = .pending) || (decide (x.state = .claimed) && x.rebond.isNone)) && decide (x.resume ≤ w)

/-- The checks of WAIVE_WIRE as a coverage decision, in the order of R105; none when it passes. -/
def State.waiveFault (s : State) (w : WireRef) : Option ResultCode :=
  match s.trc.bond with
  | none => some .badState
  | some r =>
    let e := s.program r.program
    if r.seq ≠ w.seq ∨ (r.state ≠ .bonding ∧ r.state ≠ .checking) then some .badState
    else if r.scrapped then some .badState
    else if unitCount e ≤ w.unit ∨ e.wireCount ≤ w.wire then some .badIndex
    else
      match s.unit? w.unit with
      | none => some .badState
      | some x =>
        if x.state = .skipped ∨ x.done.contains w.wire ∨ x.waived.contains w.wire ∨ x.notPassed w.wire ∨ x.rebond = some w.wire
        then some .badState else none

/-- A coverage waiver that passes (R105). -/
def waiveCoverage (w : WireRef) (s : State) : State :=
  let t := waive w.unit w.wire s
  if s.vcu.scan = some .stopped ∧ s.vcu.pendingWire = some (w.unit, w.wire) then
    walk w.unit (w.wire + 1) { t with vcu := { t.vcu with pendingWire := none } }
  else t

/-- WAIVE_WIRE: an NSB decision first, else a coverage decision (R74, R105). -/
def onWaiveWire (w : WireRef) (s : State) : Served :=
  match s.findStrip w.seq with
  | none => refuse .notFound s
  | some _ =>
    match s.nsbHead w with
    | some h => accept (waiveNsb h w s)
    | none =>
      match s.waiveFault w with
      | some c => refuse c s
      | none => accept (waiveCoverage w s)

/-- The head chosen for a rebond: the unit's last head if IDLE, else the other if IDLE; A before B with no last head (R106). -/
def State.rebondChoice (s : State) (last : Option Head) : Option Head :=
  let first := last.getD .a
  if (s.head first).state = .idle then some first
  else if (s.head first.other).state = .idle then some first.other else none

/-- The checks of REBOND_WIRE as a coverage decision, in the order of R106; the chosen head when it passes. -/
def State.rebondCheck (s : State) (w : WireRef) : Except ResultCode Head :=
  match s.trc.bond with
  | none => .error .badState
  | some r =>
    let e := s.program r.program
    if r.seq ≠ w.seq ∨ r.state ≠ .checking ∨ r.scrapped then .error .badState
    else if unitCount e ≤ w.unit ∨ e.wireCount ≤ w.wire then .error .badIndex
    else if s.vcu.scan ≠ some .stopped ∨ s.vcu.pendingWire ≠ some (w.unit, w.wire) then .error .badState
    else if s.held r.program then .error .badState
    else if !s.working then .error .badState
    else
      match s.rebondChoice ((s.unit? w.unit).bind (·.lastHead)) with
      | some h => .ok h
      | none => .error .badState

/-- The rebond claim is made and the head starts the wire (R58, R106). -/
def rebondCoverage (h : Head) (w : WireRef) (s : State) : State :=
  let t := { s with vcu := { s.vcu with scan := some .rebond, rebondHead := some h } }
  startWire h w.unit (t.modUnit w.unit fun x =>
    { x with state := .claimed, claimant := some h, lastHead := some h, rebond := some w.wire })

/-- REBOND_WIRE: an NSB decision first, else a coverage decision (R74, R106). -/
def onRebondWire (w : WireRef) (s : State) : Served :=
  match s.findStrip w.seq with
  | none => refuse .notFound s
  | some _ =>
    match s.nsbHead w with
    | some h => accept (rebondNsb h s)
    | none =>
      match s.rebondCheck w with
      | .ok h => accept (rebondCoverage h w s)
      | .error c => refuse c s

end Sys2Proof.Machine
end

