-- ==== Sys2Proof/Machine/Cell.lean ====
section
/-! DEFINITION. Cell Control (R174, R175): the six commands, the entry to STOPPED, the E-stop line; and the requests of HEAD_OP
(R64 to R66, R77) and ALARM_READ and ALARM_ACK (R144, R147). -/

namespace Sys2Proof.Machine

/-! ### The cell state (R174) -/

/-- The cell enters STOPPED: the feed pause clears, each head goes OFF, the heat monitor resets, and the conditions of FEED_JAM,
TRACK_JAM and PULL_STATION clear (R174), in that order (DEDUCED, log entry 17). -/
def enterStopped (s : State) : State :=
  let t := { s with ccs := { s.ccs with cell := .stopped, feedPause := false } }
  let t := resetHeat (eachHead goOff t)
  clearAlarm .pullStation .track (clearAlarm .trackJam .track (clearAlarm .feedJam .feeder t))

/-- ARM (R174): the heat signal timer starts as the cell leaves STOPPED (R36). -/
def onArm (s : State) : Served :=
  if s.ccs.cell = .stopped ∧ s.ccs.estop = false then
    accept (({ s with ccs := { s.ccs with cell := .ready } } : State).modHeat fun h => { h with timer := some s.now })
  else refuse .badState s

/-- START (R174, R37, R49). -/
def onStart (s : State) : Served :=
  if s.ccs.cell = .ready then
    let t := { s with ccs := { s.ccs with cell := .run } }
    let t := if t.trc.heat.state = .ready then t else raiseAlarm .heatNotReady .cell (t.trc.heat.lastTemp.getD 0) t
    accept (eachHead askUnit t)
  else refuse .badState s

/-- DRAIN (R174). -/
def onDrain (s : State) : Served :=
  if s.ccs.cell = .run then accept (drainCheck { s with ccs := { s.ccs with cell := .drain } }) else refuse .badState s

/-- PAUSE (R174). -/
def onPause (s : State) : Served :=
  if s.working then
    accept (addReason .cell .b (addReason .cell .a { s with ccs := { s.ccs with feedPause := true } }))
  else refuse .badState s

/-- RESUME (R174). -/
def onResume (s : State) : Served :=
  if s.working then
    accept (eachHead (removeReason .cell) { s with ccs := { s.ccs with feedPause := false } })
  else refuse .badState s

/-- STOP (R174). -/
def onStop (s : State) : Served := if s.ccs.cell = .stopped then accept s else accept (enterStopped s)

/-- CELL_CMD (R174). -/
def onCellCmd (c : CellCmd) (s : State) : Served :=
  match c with
  | .arm => onArm s
  | .start => onStart s
  | .drain => onDrain s
  | .pause => onPause s
  | .resume => onResume s
  | .stop => onStop s

/-! ### The E-stop line (R175) -/

/-- ESTOP is raised, and a cell not STOPPED enters STOPPED (R175). -/
def estopStop (s : State) : State :=
  let t := raiseAlarm .estop .cell 0 s
  if t.ccs.cell = .stopped then t else enterStopped t

/-- The line is asserted (R175). -/
def assertEstop (s : State) : State := estopStop { s with ccs := { s.ccs with estop := true } }

/-- The line is released (R175). -/
def releaseEstop (s : State) : State := clearAlarm .estop .cell { s with ccs := { s.ccs with estop := false } }

/-! ### HEAD_OP (R64 to R66, R77) -/

/-- ENABLE (R64). -/
def onEnable (h : Head) (s : State) : Served :=
  if (s.head h).state ≠ .off then refuse .badState s
  else if s.ccs.cell = .stopped then refuse .badState s
  else if (s.addrOf (.head h)).isNone then refuse .notFound s
  else accept (enable h s)

/-- DISABLE (R65). -/
def onDisable (h : Head) (s : State) : Served := accept (goOff h s)

/-- PAUSE of a head (R66). -/
def onHeadPause (h : Head) (s : State) : Served :=
  if (s.head h).state = .off then refuse .badState s else accept (addReason .operator h s)

/-- RESUME of a head (R66). -/
def onHeadResume (h : Head) (s : State) : Served :=
  if (s.head h).state = .off then refuse .badState s else accept (resumeHead h s)

/-- CLEAR_FAULT (R77). -/
def onClearFault (h : Head) (s : State) : Served :=
  if (s.head h).state = .fault then accept (clearFault h s) else refuse .badState s

/-- HEAD_OP; one that names another head is refused (R64 to R66, R77). -/
def onHeadOp (o : HeadOp) (h : Option Head) (s : State) : Served :=
  match h with
  | none => refuse .badValue s
  | some h =>
    match o with
    | .enable => onEnable h s
    | .disable => onDisable h s
    | .pause => onHeadPause h s
    | .resume => onHeadResume h s
    | .clearFault => onClearFault h s

/-! ### ALARM_READ and ALARM_ACK (R144, R147) -/

/-- Set the shown flags of the entries at list positions `first` on, `count` of them, entry `i` the first of the list (R143,
R147). -/
def markShown (first count : Nat) : List AlarmEntry → Nat → List AlarmEntry
  | [], _ => []
  | e :: rest, i =>
    (if first ≤ i ∧ i < first + count then { e with shown := true } else e) :: markShown first count rest (i + 1)

/-- The entries at list positions `first` on, `count` of them, with their positions, entry `i` the first of the list (R147). -/
def readAlarms (first count : Nat) : List AlarmEntry → Nat → List (Nat × AlarmEntry)
  | [], _ => []
  | e :: rest, i =>
    if first ≤ i ∧ i < first + count then (i, e) :: readAlarms first count rest (i + 1) else readAlarms first count rest (i + 1)

/-- ALARM_READ (R147): each entry as it stood before its flag was set. -/
def onAlarmRead (first count : Nat) (s : State) : Served :=
  if Config.alarmRoom ≤ first then refuse .badIndex s
  else if count < 1 ∨ 4 < count then refuse .badValue s
  else
    acceptWith (.alarms s.alc.list.length s.alc.unlisted (readAlarms first count s.alc.list 0))
      (s.setAlarms (markShown first count s.alc.list 0))

/-- ALARM_ACK of a code and a scope that fit each other (R144). -/
def ackListed (code : AlarmCode) (scope : AlarmScope) (s : State) : Served :=
  match s.findAlarm code scope with
  | none => refuse .notFound s
  | some i =>
    match s.alc.list[i]? with
    | none => refuse .notFound s
    | some e =>
      if e.state = .activeAcked then refuse .notFound s
      else if e.shown then accept (ackEntry i e s) else refuse .notShown s

/-- ALARM_ACK (R144). -/
def onAlarmAck (code : Option AlarmCode) (scope : Option AlarmScope) (s : State) : Served :=
  match code, scope with
  | some c, some sc => if scopeFits sc c then ackListed c sc s else refuse .badValue s
  | _, _ => refuse .badValue s

end Sys2Proof.Machine
end

