-- ==== Sys2Proof/Machine/Terminal.lean ====
section
/-! DEFINITION. The Terminal Controller (chapter 10): the value catalogue, formatting, tags, refresh and the making of screen
frames, page changes, keys and actions. -/

namespace Sys2Proof.Machine

/-! ### Short names (R154) -/

def cellName : CellState → List Char
  | .stopped => "STOPPED".toList
  | .ready => "READY".toList
  | .run => "RUN".toList
  | .drain => "DRAIN".toList

def headName : HeadState → List Char
  | .off => "OFF".toList
  | .idle => "IDLE".toList
  | .parked => "PARKED".toList
  | .moving => "MOVING".toList
  | .bonding => "BONDING".toList
  | .forming => "FORMING".toList
  | .hold => "HOLD".toList
  | .fault => "FAULT".toList

def channelName : ChannelState → List Char
  | .disabled => "DISABLED".toList
  | .idle => "IDLE".toList
  | .startup => "STARTUP".toList
  | .regulate => "REGULATE".toList
  | .tripped => "TRIPPED".toList

def heatName : HeatState → List Char
  | .notReady => "NOTREADY".toList
  | .settling => "SETTLING".toList
  | .ready => "READY".toList

def stripName : StripState → List Char
  | .idHold => "ID_HOLD".toList
  | .preheat => "PREHEAT".toList
  | .waitBond => "WAITBOND".toList
  | .bonding => "BONDING".toList
  | .checking => "CHECKING".toList
  | .released => "RELEASED".toList
  | .pulling => "PULLING".toList
  | .done => "DONE".toList
  | .ejecting => "EJECTING".toList

def magName : MagState → List Char
  | .absent => "ABSENT".toList
  | .scanning => "SCANNING".toList
  | .ready => "READY".toList
  | .feeding => "FEEDING".toList
  | .exhausted => "EXHAUST".toList

def outName : OutState → List Char
  | .absent => "ABSENT".toList
  | .ready => "READY".toList
  | .full => "FULL".toList

def progName : ProgramState → List Char
  | .running => "RUNNING".toList
  | .held => "HELD".toList

def alarmName : AlarmCode → List Char
  | .slotMismatch => "SLOTMIS".toList
  | .inputEmpty => "INEMPTY".toList
  | .idMismatch => "IDMIS".toList
  | .feedJam => "FEED_JAM".toList
  | .outputFull => "OUTFULL".toList
  | .trackJam => "TRACKJAM".toList
  | .heatSignal => "HEATSIG".toList
  | .heatNotReady => "HEATNRDY".toList
  | .headFault => "HEADFLT".toList
  | .nsop => "NSOP".toList
  | .nsol => "NSOL".toList
  | .missedWire => "MISSWIRE".toList
  | .pullTimeout => "PULLTMO".toList
  | .pullStation => "PULLSTN".toList
  | .pullFail => "PULLFAIL".toList
  | .pullCapability => "PULLCAP".toList
  | .pullLogFull => "LOGFULL".toList
  | .estop => "ESTOP".toList

/-- ACT, ACK or CLR (R153). -/
def alarmStateName : AlarmState → List Char
  | .active => "ACT".toList
  | .activeAcked => "ACK".toList
  | .cleared => "CLR".toList

/-- The hold reasons as seven characters (R153). -/
def holdText (h : HoldSet) : List Char :=
  [if h.operator then 'O' else '.', if h.cell then 'C' else '.', if h.heat then 'H' else '.', if h.nsb then 'N' else '.'
   , if h.alarm then 'A' else '.', if h.program then 'P' else '.', if h.faultCleared then 'F' else '.']

/-! ### Formatting (R154) -/

/-- A value of the catalogue: a number, a short name, or not valid (R153). -/
inductive TileValue where
  | number (n : Int) | name (short : List Char) | notValid
  deriving DecidableEq, Repr

/-- The decimal digits of `n`, at most `fuel` of them, in front of `acc`. -/
def digitsBefore : Nat → Nat → List Char → List Char
  | 0, _, acc => acc
  | fuel + 1, n, acc =>
    let acc := Char.ofNat (48 + n % 10) :: acc
    if n < 10 then acc else digitsBefore fuel (n / 10) acc

/-- The decimal digits of a number. -/
def digits (n : Nat) : List Char := digitsBefore 20 n []

/-- The digits with a point before the last `f`, zeros added in front until a digit stands before the point (R154). -/
def withPoint (f : Nat) (ds : List Char) : List Char :=
  if f = 0 then ds
  else
    let ds := List.replicate (f + 1 - ds.length) '0' ++ ds
    ds.take (ds.length - f) ++ '.' :: ds.drop (ds.length - f)

/-- The text of a number with `f` fraction digits, before it is fitted (R154). -/
def decimalText (f : Nat) (n : Int) : List Char :=
  let t := withPoint f (digits n.natAbs)
  if n < 0 then '-' :: t else t

/-- Right-justified in the width, or the width full of '*' (R154). -/
def fitRight (width : Nat) (t : List Char) : List Char :=
  if width < t.length then List.replicate width '*' else List.replicate (width - t.length) ' ' ++ t

/-- Left-justified in the width, or the width full of '*' (R154). -/
def fitLeft (width : Nat) (t : List Char) : List Char :=
  if width < t.length then List.replicate width '*' else t ++ List.replicate (width - t.length) ' '

/-- The text of a value in a tile's format and width (R154). -/
def formatValue (f : TileFormat) (width : Nat) (v : TileValue) : List Char :=
  match v with
  | .notValid => List.replicate width '-'
  | .name t => fitLeft width t
  | .number n =>
    match f with
    | .decimal k => fitRight width (decimalText k n)
    | .name => fitRight width (decimalText 0 n)

/-! ### Tags (R155, 11.9) -/

/-- The number of an alarm code in a tag: 1 to 18 in the order of the code table (11.9). -/
def alarmNumber : AlarmCode → Nat
  | .slotMismatch => 1
  | .inputEmpty => 2
  | .idMismatch => 3
  | .feedJam => 4
  | .outputFull => 5
  | .trackJam => 6
  | .heatSignal => 7
  | .heatNotReady => 8
  | .headFault => 9
  | .nsop => 10
  | .nsol => 11
  | .missedWire => 12
  | .pullTimeout => 13
  | .pullStation => 14
  | .pullFail => 15
  | .pullCapability => 16
  | .pullLogFull => 17
  | .estop => 18

/-- The alarm code of a number in a tag. -/
def alarmOfNumber (n : Nat) : Option AlarmCode :=
  match n with
  | 1 => some .slotMismatch
  | 2 => some .inputEmpty
  | 3 => some .idMismatch
  | 4 => some .feedJam
  | 5 => some .outputFull
  | 6 => some .trackJam
  | 7 => some .heatSignal
  | 8 => some .heatNotReady
  | 9 => some .headFault
  | 10 => some .nsop
  | 11 => some .nsol
  | 12 => some .missedWire
  | 13 => some .pullTimeout
  | 14 => some .pullStation
  | 15 => some .pullFail
  | 16 => some .pullCapability
  | 17 => some .pullLogFull
  | 18 => some .estop
  | _ => none

/-- The number of a scope in a tag: CELL 0, HEAD_A 1, HEAD_B 2, FEEDER 3, TRACK 4, PROGRAM_0 to PROGRAM_7 5 to 12 (11.9). -/
def scopeNumber : AlarmScope → Nat
  | .cell => 0
  | .head .a => 1
  | .head .b => 2
  | .feeder => 3
  | .track => 4
  | .program p => 5 + p

/-- The scope of a number in a tag. -/
def scopeOfNumber (n : Nat) : Option AlarmScope :=
  match n with
  | 0 => some .cell
  | 1 => some (.head .a)
  | 2 => some (.head .b)
  | 3 => some .feeder
  | 4 => some .track
  | n + 5 => if n < 8 then some (.program n) else none

/-- The 16 bits of a tag (11.9). -/
def encodeTag : DisplayTag → BitVec 16
  | .none => 0
  | .alarm c sc => (1#3 ++ 0#4 ++ BitVec.ofNat 5 (alarmNumber c) ++ BitVec.ofNat 4 (scopeNumber sc)).cast (by decide)
  | .strip r => (2#3 ++ 0#6 ++ r).cast (by decide)
  | .unit r u => (3#3 ++ r ++ u).cast (by decide)
  | .head .a => 0x8000#16
  | .head .b => 0x8001#16
  | .program p => (5#3 ++ 0#10 ++ p).cast (by decide)
  | .slot n => (6#3 ++ 0#7 ++ n).cast (by decide)

/-- The tag that 16 bits spell; none where the kind, a field or an unused bit is none that the layout has (11.9, DEDUCED, log entry 20). -/
def decodeTag (b : BitVec 16) : Option DisplayTag :=
  match (b.extractLsb' 13 3).toNat with
  | 0 => if b = 0 then some .none else none
  | 1 =>
    if b.extractLsb' 9 4 = 0 then
      match alarmOfNumber (b.extractLsb' 4 5).toNat, scopeOfNumber (b.extractLsb' 0 4).toNat with
      | some c, some sc => some (.alarm c sc)
      | _, _ => none
    else none
  | 2 => if b.extractLsb' 7 6 = 0 then some (.strip (b.extractLsb' 0 7)) else none
  | 3 => some (.unit (b.extractLsb' 6 7) (b.extractLsb' 0 6))
  | 4 => if b.extractLsb' 1 12 = 0 then some (.head (if b.getLsbD 0 then .b else .a)) else none
  | 5 => if b.extractLsb' 3 10 = 0 then some (.program (b.extractLsb' 0 3)) else none
  | 6 => if b.extractLsb' 6 7 = 0 then some (.slot (b.extractLsb' 0 6)) else none
  | _ => none

/-- The STRIP tag of a strip: its sequence number modulo 128 (R155). -/
def stripTag (seq : Nat) : DisplayTag := .strip (BitVec.ofNat 7 seq)

/-! ### The value catalogue (R153) -/

/-- The head of an operand 0 or 1. -/
def headOf (n : Nat) : Head := if n = 0 then .a else .b

/-- The position of an operand 0 to 2. -/
def positionOf (n : Nat) : Position :=
  match n with
  | 0 => .preheat
  | 1 => .bond
  | _ => .post

/-- A number that may be absent. -/
def optNumber (x : Option Nat) : TileValue :=
  match x with
  | some n => .number n
  | none => .notValid

/-- A signed number that may be absent. -/
def optInt (x : Option Int) : TileValue :=
  match x with
  | some n => .number n
  | none => .notValid

/-- The tag of the strip at BOND, NONE when BOND is empty (DEDUCED, log entry 28). -/
def State.bondTag (s : State) : DisplayTag :=
  match s.trc.bond with
  | some r => stripTag r.seq
  | none => .none

/-- Units left: the units that are PENDING or CLAIMED (R48). -/
def State.unitsLeft (s : State) : Option Nat :=
  s.usc.units.map fun l => (l.filter fun x => decide (x.state = .pending) || decide (x.state = .claimed)).length

/-- The input slot: the pending decision slot, otherwise the next slot (R153). -/
def State.inputSlot (s : State) : Option Nat := s.fdc.pendingSlot.or s.nextSlot

/-- Values 5 and 6: the strip and the unit of a head's claim (R153). -/
def State.claimValue (s : State) (v : Nat) (h : Head) : TileValue × DisplayTag :=
  match s.claimOf h, s.trc.bond with
  | some u, some r =>
    if v = 5 then (.number r.seq, stripTag r.seq) else (.number u, .unit (BitVec.ofNat 7 r.seq) (BitVec.ofNat 6 u))
  | _, _ => (.notValid, .head h)

/-- Values 12 and 13: the strip and its state at a position (R153). -/
def State.stripValue (s : State) (v : Nat) (p : Position) : TileValue × DisplayTag :=
  match s.strip p with
  | some r =>
    (if v = 12 then .number r.seq else .name (if r.scrapped then "SCRAPPED".toList else stripName r.state), stripTag r.seq)
  | none => (.notValid, .none)

/-- Value 28: a program field by its number (R153). -/
def programField (e : ProgramEntry) (f : Nat) : Int :=
  match f with
  | 0 => if e.valid then 1 else 0
  | 1 => e.firstWire
  | 2 => e.wireCount
  | 3 => e.rows
  | 4 => e.columns
  | 5 => e.pitchX
  | 6 => e.pitchY
  | 7 => e.originX
  | 8 => e.originY
  | _ => e.guard

/-- Value 30: the alarm at list position `k` (R153). -/
def State.alarmValue (s : State) (k : Nat) : TileValue × DisplayTag :=
  match s.alc.list[k]? with
  | some e => (.name (alarmName e.code ++ ' ' :: alarmStateName e.state), .alarm e.code e.scope)
  | none => (.notValid, .none)

/-- Value 31: a link error count (R153). -/
def State.linkCount (s : State) (k : Nat) : Nat :=
  match k with
  | 0 => s.lif.uCounts.crc
  | 1 => s.lif.uCounts.length
  | 2 => s.lif.uCounts.overrun
  | 3 => s.lif.fCounts.crc
  | 4 => s.lif.fCounts.length
  | _ => s.lif.fCounts.overrun

/-- The catalogue (R153): the value and the tag of a value number with its operand. -/
def State.catalogue (s : State) (v o : Nat) : TileValue × DisplayTag :=
  let h := headOf o
  match v with
  | 0 => (.number (s.now.toNat / 1000 : Nat), .none)
  | 1 => (.name (cellName s.ccs.cell), .none)
  | 2 => (.name (headName (s.head h).state), .head h)
  | 3 => (.name (holdText (s.head h).hold), .head h)
  | 4 => (.number (s.head h).bonded, .head h)
  | 5 | 6 => s.claimValue v h
  | 7 => (.name (channelName (s.chan h).state), .head h)
  | 8 => (optNumber ((s.chan h).lastSummary.map (·.energy)), .head h)
  | 9 => (optNumber ((s.chan h).lastSummary.map (·.peak)), .head h)
  | 10 => (optNumber s.trc.heat.lastTemp, .none)
  | 11 => (.name (heatName s.trc.heat.state), .none)
  | 12 | 13 => s.stripValue v (positionOf o)
  | 14 => (optNumber s.unitsLeft, s.bondTag)
  | 15 => (optNumber (s.trc.bond.map (·.wiresMissed)), s.bondTag)
  | 16 => (optNumber (s.vcu.pendingWire.map fun x => x.1 * 1000 + x.2), s.bondTag)
  | 17 => (.name (magName s.fdc.mag), .none)
  | 18 =>
    match s.inputSlot with
    | some n => (.number n, .slot (BitVec.ofNat 6 n))
    | none => (.notValid, .none)
  | 19 => (optNumber s.nextFree, .none)
  | 20 => (.name (outName s.fdc.out), .none)
  | 21 => (.number s.plm.log.length, .none)
  | 22 => (.number (s.stats o).n, .program (BitVec.ofNat 3 o))
  | 23 => (optNumber (s.stats o).mean, .program (BitVec.ofNat 3 o))
  | 24 => (optNumber (s.stats o).sd, .program (BitVec.ofNat 3 o))
  | 25 => (optNumber (s.stats o).min, .program (BitVec.ofNat 3 o))
  | 26 => (optInt (s.stats o).margin, .program (BitVec.ofNat 3 o))
  | 27 => (.name (progName (s.plm.progState.getD o .running)), .program (BitVec.ofNat 3 o))
  | 28 => (.number (programField (s.program (o / 16)) (o % 16)), .program (BitVec.ofNat 3 (o / 16)))
  | 29 => (.number s.alc.list.length, .none)
  | 30 => s.alarmValue o
  | _ => (.number (s.linkCount o), .none)

/-- The operand is one that the value accepts (R153). -/
def operandFits (v o : Nat) : Bool :=
  match v with
  | 2 | 3 | 4 | 5 | 6 | 7 | 8 | 9 => decide (o ≤ 1)
  | 12 | 13 => decide (o ≤ 2)
  | 22 | 23 | 24 | 25 | 26 | 27 => decide (o ≤ 7)
  | 28 => decide (o / 16 ≤ 7) && decide (o % 16 ≤ 9)
  | 30 => decide (o ≤ 31)
  | 31 => decide (o ≤ 5)
  | _ => decide (o = 0)

/-- The value is a name (R153). -/
def isName (v : Nat) : Bool :=
  match v with
  | 1 | 2 | 3 | 7 | 11 | 13 | 17 | 20 | 27 | 30 => true
  | _ => false

/-! ### Refresh (R156) and the making of frames (R157) -/

/-- The text and tag of a tile, formed now (R154, R155). -/
def State.tileNow (s : State) (i : Nat) : List Char × DisplayTag :=
  let e := s.tile i
  let v := s.catalogue e.value e.operand
  (formatValue e.format e.width v.1, v.2)

/-- The last SCREEN_PUT of tile `i` of a terminal. -/
def TermState.sent (t : TermState) (i : Nat) : Option Sent := (t.lastSent.find? fun x => x.1 == i).map (·.2)

/-- The tile's text and tag equal those last sent. -/
def State.unchanged (s : State) (t : TermState) (i : Nat) : Bool :=
  match t.sent i with
  | some x => decide (x.text = (s.tileNow i).1) && decide (x.tag = (s.tileNow i).2)
  | none => false

/-- Each tile of the current page that differs from what was last sent joins the dirty set (R156). -/
def refreshTerm (t : Term) (s : State) : State :=
  if s.inService t then
    s.modTerm t fun x =>
      { x with dirty := (s.pageTiles x.page).foldl (fun d i => if s.unchanged x i then d else markDirty d i false) x.dirty }
  else s

/-- The four terminals are refreshed (R156). -/
def refreshTiles (s : State) : State := eachTerm refreshTerm s

/-- The tile may be sent now: never sent, or its minimum interval has passed (R157 step 2). -/
def State.maySend (s : State) (t : TermState) (i : Nat) : Bool :=
  match t.sent i with
  | some x => elapsed s.now x.time ((s.tile i).interval * 100)
  | none => true

/-- Steps 2 and 3 of R157 over a dirty set: what stays in it, and the tile to send. -/
def State.pickTile (s : State) (t : TermState) : List (Nat × Bool) → List (Nat × Bool) × Option Nat
  | [] => ([], none)
  | (i, forced) :: rest =>
    if s.maySend t i then
      if s.unchanged t i && !forced then s.pickTile t rest else (rest, some i)
    else
      let r := s.pickTile t rest
      ((i, forced) :: r.1, r.2)

/-- The entry that an alarm tag names has its shown flag set (R143). -/
def showTagged (value : Nat) (tag : DisplayTag) (s : State) : State :=
  match tag with
  | .alarm c sc => if value = 30 then showAlarm c sc s else s
  | .none | .strip _ | .unit _ _ | .head _ | .program _ | .slot _ => s

/-- A SCREEN_PUT of tile `i` (R157 step 4). -/
def putTile (t : Term) (i : Nat) (s : State) : State :=
  let e := s.tile i
  let x := s.tileNow i
  let u := s.modTerm t fun y =>
    { y with lastSent := (i, { text := x.1, tag := x.2, time := s.now }) :: y.lastSent.filter (fun z => z.1 != i)
             frameWaiting := true }
  showTagged e.value x.2 (sendOwn (.term t) (.screenTile i e.row e.column e.width x.2 x.1) u)

/-- TMC makes the next frame of a terminal in service whose frame waiting mark is clear (R157). -/
def makeFrame (t : Term) (s : State) : State :=
  let x := s.term t
  if s.inService t && !x.frameWaiting then
    if x.pagePending then
      sendOwn (.term t) (.screenPage x.page) (s.modTerm t fun y => { y with pagePending := false, frameWaiting := true })
    else if x.messagePending then
      sendOwn (.term t) (.screenMessage x.message) (s.modTerm t fun y => { y with messagePending := false, frameWaiting := true })
    else
      let r := s.pickTile x x.dirty
      let u := s.modTerm t fun y => { y with dirty := r.1 }
      match r.2 with
      | some i => putTile t i u
      | none => u
  else s

/-- The tiles are refreshed, and then the next frame of each terminal is made where one can be, from terminal 1 to terminal 4 (R156,
R157) (DEDUCED, log entry 12). -/
def makeFrames (s : State) : State := eachTerm makeFrame (refreshTiles s)

/-- What closes every step of the part: tiles are refreshed, frames are made for the terminals, and free transmitters send
(R156, R157, R168) (DEDUCED, log entry 12). -/
def finish (s : State) : State := kick (makeFrames s)

/-- A command that takes effect: while the reset line is asserted the part does nothing (R176), else `f` and what closes a
step. -/
def act (f : State → State) (s : State) : Out := if s.ccs.inReset then .next s else .next (finish (f s))

/-! ### Page changes (R158) -/

/-- A page change to page `p` (R158). -/
def pageChange (t : Term) (p : Nat) (s : State) : State :=
  s.modTerm t fun x =>
    { x with page := p, lastSent := [], message := [], messagePending := false, pagePending := true
             dirty := (s.pageTiles p).map fun i => (i, false) }

/-- Set the message line (R159). -/
def setMessage (t : Term) (text : String) (s : State) : State :=
  s.modTerm t fun x => { x with message := text.toList, messagePending := true }

/-! ### Keys (R159, R160) -/

/-- The name of a result as a message (R159 step 7). -/
def resultMessage : ResultCode → String
  | .ok => "OK"
  | .notFound => "GONE"
  | .busy => "BUSY"
  | .badOp => "BAD_OP"
  | .badTable => "BAD_TABLE"
  | .badIndex => "BAD_INDEX"
  | .badValue => "BAD_VALUE"
  | .duplicate => "DUPLICATE"
  | .inUse => "IN_USE"
  | .badState => "BAD_STATE"
  | .notShown => "NOT_SHOWN"
  | .owned => "OWNED"

/-- Levels in rising order (R150). -/
def levelRank : Level → Nat
  | .view => 0
  | .operator => 1
  | .technician => 2

/-- The required level of an entry (R159 step 2). -/
def requiredLevel (e : KeyEntry) : Level :=
  match e.action with
  | some .clearFault | some .releaseProgram | some .acceptId => .technician
  | _ => e.minLevel.getD .view

/-- The tag is of a kind that the action accepts (R160). -/
def acceptsTag (a : KeyAction) (t : DisplayTag) : Bool :=
  match a, t with
  | .pauseHead, .head _ | .resumeHead, .head _ | .clearFault, .head _ | .nsbResume, .head _ | .waiveWire, .head _
  | .rebondWire, .head _ => true
  | .waiveWire, .strip _ | .rebondWire, .strip _ | .acceptId, .strip _ => true
  | .ackAlarm, .alarm _ _ => true
  | .skipUnit, .unit _ _ => true
  | .releaseProgram, .program _ => true
  | .acceptSlot, .slot _ | .skipSlot, .slot _ => true
  | _, _ => false

/-- The strip on the track whose sequence number has this remainder (R155). -/
def State.stripWith (s : State) (r : BitVec 7) : Option StripRecord := s.strips.find? fun x => x.seq % 128 == r.toNat

/-- The tag resolves (R155). -/
def State.resolves (s : State) (t : DisplayTag) : Bool :=
  match t with
  | .none => false
  | .alarm c sc => s.alc.list.any fun e => decide (e.code = c) && decide (e.scope = sc) && decide (e.state ≠ .activeAcked)
  | .strip r => (s.stripWith r).isSome
  | .unit r u => (s.stripWith r).any fun x => decide (u.toNat < unitCount (s.program x.program))
  | .head _ | .program _ | .slot _ => true

/-- The wire that WAIVE_WIRE or REBOND_WIRE names from a strip tag: the scan's pending wire of that strip (R160). -/
def State.scanWire (s : State) (seq : Nat) : Option WireRef :=
  match s.trc.bond, s.vcu.pendingWire with
  | some r, some (u, w) => if r.seq = seq then some { seq := seq, unit := u, wire := w } else none
  | _, _ => none

/-- The wire that WAIVE_WIRE or REBOND_WIRE names from a head tag: the head's pending NSB decision, else the scan's pending wire
of the strip at BOND (R105, R160). -/
def State.headWire (s : State) (h : Head) : Option WireRef :=
  match (s.head h).nsb with
  | some d => some d.wire
  | none => (s.trc.bond.map (·.seq)).bind s.scanWire

/-- A decision on a wire that may not exist (R160). -/
def withWire (w : Option WireRef) (f : WireRef → State → Served) (s : State) : Served :=
  match w with
  | some x => f x s
  | none => refuse .badState s

/-- An action with a FIXED operand, as the management request it stands for (R160). -/
def applyFixed (a : KeyAction) (n : Nat) (s : State) : Served :=
  match a with
  | .pauseHead => onHeadPause (headOf n) s
  | .resumeHead => onHeadResume (headOf n) s
  | .clearFault => onClearFault (headOf n) s
  | .pauseCell => onPause s
  | .resumeCell => onResume s
  | .releaseProgram => onProgramRelease n s
  | .acceptSlot => onSlotOp .acceptSensed n s
  | .skipSlot => onSlotOp .skipSlot n s
  | .page | .pageNext | .ackAlarm | .skipUnit | .nsbResume | .waiveWire | .rebondWire | .acceptId => refuse .badValue s

/-- The full sequence number of the strip that a remainder resolves to. -/
def State.fullSeq (s : State) (r : BitVec 7) : Nat := ((s.stripWith r).map (·.seq)).getD 0

/-- An action on the object that the tag names, as the management request it stands for (R160). R160's table has no action for
STRIP_OP SCRAP, though section 2.6 speaks of one, so there is none (DEDUCED, log entry 38). -/
def applyTagged (a : KeyAction) (t : DisplayTag) (s : State) : Served :=
  match a, t with
  | .pauseHead, .head h => onHeadPause h s
  | .resumeHead, .head h => onHeadResume h s
  | .clearFault, .head h => onClearFault h s
  | .ackAlarm, .alarm c sc => onAlarmAck (some c) (some sc) s
  | .skipUnit, .unit r u => onSkipUnit (s.fullSeq r) u.toNat s
  | .nsbResume, .head h => withWire ((s.head h).nsb.map (·.wire)) onNsbResume s
  | .waiveWire, .head h => withWire (s.headWire h) onWaiveWire s
  | .waiveWire, .strip r => withWire (s.scanWire (s.fullSeq r)) onWaiveWire s
  | .rebondWire, .head h => withWire (s.headWire h) onRebondWire s
  | .rebondWire, .strip r => withWire (s.scanWire (s.fullSeq r)) onRebondWire s
  | .releaseProgram, .program p => onProgramRelease p.toNat s
  | .acceptSlot, .slot n => onSlotOp .acceptSensed n.toNat s
  | .skipSlot, .slot n => onSlotOp .skipSlot n.toNat s
  | .acceptId, .strip r => onAcceptId (s.fullSeq r) s
  | _, _ => refuse .badValue s

/-- The key's operand: a fixed number, or a tag (R159 step 4). -/
inductive KeyOperand where
  | fixed (n : Nat) | tag (t : DisplayTag)
  deriving DecidableEq, Repr

/-- The head that a key's operand names. -/
def operandHead (o : KeyOperand) : Option Head :=
  match o with
  | .fixed n => some (headOf n)
  | .tag (.head h) => some h
  | .tag _ => none

/-- An effective STOP entry holds the action back (R159 step 6). -/
def State.resumeHeld (s : State) (a : KeyAction) (o : KeyOperand) : Bool :=
  match a with
  | .resumeHead => (operandHead o).any s.alarmHolds
  | .resumeCell => s.stopped .cell
  | _ => false

/-- Steps 6 and 7 of R159. -/
def applyKey (t : Term) (a : KeyAction) (o : KeyOperand) (s : State) : State :=
  if s.resumeHeld a o then setMessage t "ALARM" s
  else
    let x := match o with
      | .fixed n => applyFixed a n s
      | .tag g => applyTagged a g s
    setMessage t (resultMessage x.2.result) x.1

/-- The key map entry of a key on the current page (R159 step 1). -/
def State.keyEntry (s : State) (t : Term) (key : Nat) : Option KeyEntry :=
  let p := s.tmc.pages.getD (s.term t).page {}
  if p.valid then ((s.tmc.keys.drop (p.keyMap * 16)).take 16).find? fun e => e.valid && e.key == key else none

/-- The next valid page after `p`, 15 followed by 0; `p` if no other is valid (R160). -/
def State.nextPage (s : State) (p : Nat) : Nat :=
  (((List.range 15).map fun i => (p + i + 1) % 16).find? fun q => (s.tmc.pages.getD q {}).valid).getD p

/-- The tag is of kind ALARM, and its code or scope is not one of R138, or the scope does not fit the code (R144). -/
def misfitAlarm (b : BitVec 16) : Bool :=
  decide ((b.extractLsb' 13 3).toNat = 1) && decide (b.extractLsb' 9 4 = 0) &&
  match alarmOfNumber (b.extractLsb' 4 5).toNat, scopeOfNumber (b.extractLsb' 0 4).toNat with
  | some c, some sc => !scopeFits sc c
  | _, _ => true

/-- Steps 3 to 7 of R159 for a permitted action. An ACK_ALARM whose tag does not pass the first check of R144 is answered BAD_VALUE,
before step 5 looks for its entry (DEDUCED, log entry 37). -/
def permittedKey (t : Term) (a : KeyAction) (e : KeyEntry) (tile : Nat) (tag : BitVec 16) (s : State) : State :=
  match a with
  | .page => if (s.tmc.pages.getD e.fixed {}).valid then pageChange t e.fixed s else setMessage t "NO PAGE" s
  | .pageNext => pageChange t (s.nextPage (s.term t).page) s
  | a =>
    match e.source with
    | some .fixed => applyKey t a (.fixed e.fixed) s
    | _ =>
      if !(s.pageTiles (s.term t).page).contains tile then setMessage t "NO TARGET" s
      else if a = .ackAlarm ∧ misfitAlarm tag then setMessage t "BAD_VALUE" s
      else
        match decodeTag tag with
        | none => setMessage t "NO TARGET" s
        | some g =>
          if acceptsTag a g then
            if s.resolves g then applyKey t a (.tag g) s else setMessage t "GONE" s
          else setMessage t "NO TARGET" s

/-- SCREEN_KEY from a terminal in service (R159). -/
def onScreenKey (t : Term) (key tile : Nat) (tag : BitVec 16) (s : State) : State :=
  match s.keyEntry t key with
  | none => s
  | some e =>
    match e.action with
    | none => s
    | some a =>
      if levelRank (s.term t).level < levelRank (requiredLevel e) then setMessage t "NOT PERMITTED" s
      else permittedKey t a e tile tag s

end Sys2Proof.Machine
end

