-- ==== Sys2Proof/Machine/Operands.lean ====
section
/-! DEFINITION. The operand forms of table writes: the checks that each table makes on an entry, in the order its rule gives, and
the entry as it is stored. A check answers none when the entry passes. -/

namespace Sys2Proof.Machine

/-- The first of a list of checks that fails: each is a condition that must hold, with the result when it does not. -/
def firstBroken (l : List (Bool × ResultCode)) : Option ResultCode := (l.find? fun x => !x.1).map (·.2)

/-- A number from `lo` to `hi`. -/
def inRange (lo hi n : Nat) : Bool := decide (lo ≤ n) && decide (n ≤ hi)

/-- A signed number from `lo` to `hi`. -/
def inRangeInt (lo hi n : Int) : Bool := decide (lo ≤ n) && decide (n ≤ hi)

/-! ### Lot table (R2) -/

/-- A strip code of 0 to 16 characters, each 0x20 to 0x7E (R2). -/
def codeFits (c : StripCode) : Bool := decide (c.length ≤ 16) && c.all fun b => inRange 0x20 0x7E b.toNat

/-- The checks on a lot table entry (R2). -/
def checkLot (s : State) (e : LotWrite) : Option ResultCode :=
  firstBroken
    [ (e.expected.isSome, .badValue)
    , (e.program.all fun p => decide (p < 8), .badValue)
    , (decide (e.expected ≠ some .occupied) || e.program.isSome, .badValue)
    , (decide (e.expected ≠ some .occupied) || e.program.all (fun p => (s.program p).valid), .badValue)
    , (e.program.isSome || decide (e.skip = 0), .badValue)
    , (e.code.all codeFits, .badValue) ]

/-- A lot table entry as stored (R1). -/
def storedLot (e : LotWrite) : LotEntry :=
  { expected := e.expected.getD .empty, dontCare := e.dontCare, program := e.program, skip := e.skip, code := e.code }

/-! ### Program, wire and recipe tables (R42, R43, R80) -/

/-- Every field of a program entry lies in its range (R40). -/
def programFits (e : ProgramEntry) : Bool :=
  inRange 0 1535 e.firstWire && inRange 1 384 e.wireCount && inRange 1 8 e.rows && inRange 1 16 e.columns &&
  inRange 1 65535 e.pitchX && inRange 1 65535 e.pitchY && inRangeInt (-1000000) 1000000 e.originX &&
  inRangeInt (-1000000) 1000000 e.originY && inRange 0 3 e.guard

/-- The checks on a program entry (R42). -/
def checkProgram (s : State) (p : Nat) (e : ProgramEntry) : Option ResultCode :=
  firstBroken
    [ (!s.inUse p, .inUse)
    , (!e.valid || programFits e, .badValue)
    , (!e.valid || decide (unitCount e ≤ 64), .badValue)
    , (!e.valid || decide (e.firstWire + e.wireCount ≤ 1536), .badValue)
    , (!e.valid || (s.wiresOf e).all (·.valid), .badValue)
    , (!e.valid || (s.wiresOf e).all (fun w => s.recipeValid w.ballRecipe && s.recipeValid w.stitchRecipe), .badValue) ]

/-- A program entry as stored: with valid = no its other fields are 0 (R42) (DEDUCED, log entry 19). -/
def storedProgram (e : ProgramEntry) : ProgramEntry := if e.valid then e else {}

/-- Every field of a wire entry lies in its range (R41). -/
def wireFits (e : WireEntry) : Bool :=
  inRangeInt (-32768) 32767 e.x1 && inRangeInt (-32768) 32767 e.y1 && inRangeInt (-32768) 32767 e.x2 &&
  inRangeInt (-32768) 32767 e.y2 && inRange 0 3 e.dieLevel && inRange 0 15 e.loopCode && inRange 0 31 e.ballRecipe &&
  inRange 0 31 e.stitchRecipe

/-- The checks on a wire entry (R43). -/
def checkWire (s : State) (i : Nat) (e : WireEntry) : Option ResultCode :=
  firstBroken
    [ (!s.wireInUse i, .inUse)
    , (wireFits e, .badValue)
    , (!s.wireNeeded i || e.valid, .badValue)
    , (!s.wireNeeded i || (s.recipeValid e.ballRecipe && s.recipeValid e.stitchRecipe), .badValue) ]

/-- A wire entry as stored (R43). -/
def storedWire (e : WireEntry) : WireEntry := if e.valid then e else {}

/-- A segment of the profile lies in its ranges (R80). -/
def segmentFits (g : Segment) : Bool := inRange 0 4095 g.setpoint && inRange 1 4095 g.length

/-- Every field of a recipe entry outside its profile lies in its range (R79). -/
def recipeFits (e : RecipeEntry) : Bool :=
  inRange 0 1023 e.baseDrive && inRange 0 65535 e.kp && inRange 0 15 e.kpShift && inRange 0 65535 e.ki &&
  inRange 0 15 e.kiShift && inRange 0 255 e.epStart && inRange 0 255 e.ep && inRange 0 255 e.en && inRange 0 8388607 e.imax &&
  inRange 0 1023 e.dlow && inRange e.dlow 1023 e.dhigh && inRange 1 255 e.sstep && inRange 1 255 e.tstart &&
  inRange 0 4095 e.ftrip && inRange 1 15 e.ntrip && inRange 0 4294967295 e.emin && inRange e.emin 4294967295 e.emax &&
  inRange 0 1023 e.defMin && inRange 1 255 e.bondForce && inRange 0 2 e.retryCount

/-- The checks on a recipe entry (R80, R44). -/
def checkRecipe (s : State) (r : Nat) (e : RecipeEntry) : Option ResultCode :=
  firstBroken
    [ (!s.recipeInUse r, .inUse)
    , (!e.valid || inRange 1 4 e.segCount, .badValue)
    , (!e.valid || (segmentsOf e).all segmentFits, .badValue)
    , (!e.valid || decide (2 ≤ profileLength e), .badValue)
    , (!e.valid || recipeFits e, .badValue)
    , (e.valid || !s.recipeNeeded r, .badValue) ]

/-- A recipe entry as stored: segments beyond the segment count are 0, and with valid = no every other field is (R79, R80). -/
def storedRecipe (e : RecipeEntry) : RecipeEntry :=
  if e.valid then
    { e with seg2 := if 2 ≤ e.segCount then e.seg2 else {}
             seg3 := if 3 ≤ e.segCount then e.seg3 else {}
             seg4 := if 4 ≤ e.segCount then e.seg4 else {} }
  else {}

/-! ### Plan and limits tables (R113, R114) -/

/-- No entry of a list stands in it twice. -/
def noDuplicates : List Nat → Bool
  | [] => true
  | x :: xs => !xs.contains x && noDuplicates xs

/-- The checks on a plan entry (R113). -/
def checkPlan (e : PlanEntry) : Option ResultCode :=
  firstBroken
    [ (!e.valid || (inRange 0 255 e.interval && decide (e.units.length ≤ 4) && e.units.all (inRange 0 63) &&
        noDuplicates e.units && decide (e.wires.length ≤ 8) && e.wires.all (inRange 0 383) && noDuplicates e.wires), .badValue) ]

/-- A plan entry as stored (R113). -/
def storedPlan (e : PlanEntry) : PlanEntry := if e.valid then e else {}

/-- The checks on a limits entry (R114). -/
def checkLimits (e : LimitsEntry) : Option ResultCode :=
  firstBroken
    [ (!e.valid || ([e.m1, e.m2, e.m3, e.m4, e.m5].all (fun m => inRange 0 65000 m.minForce) && inRange 1 8 e.failLimit &&
        inRange 2 255 e.capCount && inRange 0 65000 e.capLimit), .badValue) ]

/-- A limits entry as stored (R114). -/
def storedLimits (e : LimitsEntry) : LimitsEntry := if e.valid then e else {}

/-! ### Cell parameters (R171) -/

/-- The parameter takes this value (the table of R171). -/
def paramFits (i : Nat) (v : ParamValue) : Bool :=
  match i, v with
  | 0, .number n => inRange 0 5000 n
  | 1, .number n => inRange 1 200 n
  | 2, .number n => inRange 0 100 n
  | 3, .number n => inRange 1 50 n
  | 4, .number n => inRange 0 60000 n
  | 5, .policy _ => true
  | 6, .direction _ => true
  | 7, .number n => inRange 0 39 n
  | 8, .direction _ => true
  | 9, .number n => inRange 0 39 n
  | _, _ => false

/-- The checks on a cell parameter (R171). -/
def checkParam (i : Nat) (v : ParamValue) : Option ResultCode := firstBroken [(paramFits i v, .badValue)]

/-- The parameter table after one write (R171). -/
def Params.put (p : Params) (i : Nat) (v : ParamValue) : Params :=
  match i, v with
  | 0, .number n => { p with heatTarget := n }
  | 1, .number n => { p with heatBand := n }
  | 2, .number n => { p with heatHysteresis := n }
  | 3, .number n => { p with settleCount := n }
  | 4, .number n => { p with preheatDwell := n }
  | 5, .policy x => { p with policy := x }
  | 6, .direction d => { p with inDir := d }
  | 7, .number n => { p with inStart := n }
  | 8, .direction d => { p with outDir := d }
  | 9, .number n => { p with outStart := n }
  | _, _ => p

/-- A parameter as read (R171). -/
def Params.read (p : Params) (i : Nat) : ParamValue :=
  match i with
  | 0 => .number p.heatTarget
  | 1 => .number p.heatBand
  | 2 => .number p.heatHysteresis
  | 3 => .number p.settleCount
  | 4 => .number p.preheatDwell
  | 5 => .policy p.policy
  | 6 => .direction p.inDir
  | 7 => .number p.inStart
  | 8 => .direction p.outDir
  | _ => .number p.outStart

/-! ### Terminal, page, tile and key map tables (R150 to R152) -/

/-- Every field of a page entry lies in its range (R151) (DEDUCED, log entry 19). -/
def pageFits (e : PageEntry) : Bool := inRange 0 255 e.firstTile && inRange 0 24 e.tileCount && inRange 0 15 e.keyMap

/-- The checks on a page entry (R151). -/
def checkPage (s : State) (e : PageEntry) : Option ResultCode :=
  firstBroken
    [ (pageFits e, .badValue)
    , (!e.valid || decide (e.firstTile + e.tileCount ≤ 256), .badValue)
    , (!e.valid || (List.range' e.firstTile e.tileCount).all (fun i => (s.tile i).valid), .badValue) ]

/-- The format suits the value: DECIMAL for a number, NAME for a name (R151). -/
def formatSuits (v : Nat) (f : TileFormat) : Bool :=
  match f with
  | .decimal _ => !isName v
  | .name => isName v

/-- The fraction digits lie in their range (R151). -/
def fractionFits : TileFormat → Bool
  | .decimal k => decide (k ≤ 3)
  | .name => true

/-- Every field of a tile entry lies in its range (R151). -/
def tileFits (e : TileEntry) : Bool :=
  inRange 0 15 e.row && inRange 0 39 e.column && inRange 1 16 e.width && inRange 0 31 e.value && inRange 0 255 e.operand &&
  fractionFits e.format && inRange 0 50 e.interval && decide (e.column + e.width ≤ 40)

/-- Tile `i` lies in the range of a valid page. -/
def State.onValidPage (s : State) (i : Nat) : Bool :=
  s.tmc.pages.any fun e => e.valid && decide (e.firstTile ≤ i) && decide (i < e.firstTile + e.tileCount)

/-- The checks on a tile entry (R151). -/
def checkTile (s : State) (i : Nat) (e : TileEntry) : Option ResultCode :=
  firstBroken
    [ (!e.valid || tileFits e, .badValue)
    , (!e.valid || operandFits e.value e.operand, .badValue)
    , (!e.valid || formatSuits e.value e.format, .badValue)
    , (e.valid || !s.onValidPage i, .badValue) ]

/-- The largest FIXED operand of an action, none when it takes no FIXED operand (R160). -/
def fixedMax : KeyAction → Option Nat
  | .page => some 15
  | .pageNext | .pauseCell | .resumeCell => some 0
  | .pauseHead | .resumeHead | .clearFault => some 1
  | .releaseProgram => some 7
  | .acceptSlot | .skipSlot => some 39
  | .ackAlarm | .skipUnit | .nsbResume | .waiveWire | .rebondWire | .acceptId => none

/-- The action takes its operand from a tag (R160). -/
def takesTag : KeyAction → Bool
  | .pauseHead | .resumeHead | .clearFault | .ackAlarm | .skipUnit | .nsbResume | .waiveWire | .rebondWire | .releaseProgram
  | .acceptSlot | .skipSlot | .acceptId => true
  | .page | .pageNext | .pauseCell | .resumeCell => false

/-- The operand source is one that the action allows, and with source FIXED the fixed operand lies in the action's range (R152); with
source TAG it is not looked at, but for its own range 0 to 255 (DEDUCED, log entry 40). -/
def operandAllowed (a : KeyAction) (e : KeyEntry) : Bool :=
  match e.source with
  | some .fixed => (fixedMax a).any fun m => decide (e.fixed ≤ m)
  | some .tag => takesTag a
  | none => false

/-- The fields of a valid key map entry lie in their ranges (R152). -/
def keyFits (e : KeyEntry) : Bool :=
  inRange 0 63 e.key && e.minLevel.isSome && inRange 0 255 e.fixed && e.action.any (fun a => operandAllowed a e)

/-- Another valid entry of the same map holds the same key (R152). -/
def keyTaken (table : List KeyEntry) (i : Nat) (e : KeyEntry) : Bool :=
  (List.range 16).any fun k =>
    let j := i / 16 * 16 + k
    let x := table.getD j {}
    decide (j ≠ i) && x.valid && x.key == e.key

/-- The checks on a key map entry against the table with the entries before it in the same write already stored (R152). -/
def checkKey (table : List KeyEntry) (i : Nat) (e : KeyEntry) : Option ResultCode :=
  firstBroken
    [ (!e.valid || keyFits e, .badValue)
    , (!e.valid || !keyTaken table i e, .badValue) ]

/-! ### Forwarding and kind tables (R163, R164) -/

/-- Addresses 0, 1 and 63 take no role. -/
def reservedAddress (a : Nat) : Bool := a == 0 || a == 1 || a == 63

/-- A forwarding entry as stored: with valid clear its role is UNASSIGNED (R164). -/
def storedForwarding (e : ForwardingWrite) : ForwardingEntry :=
  if e.valid then { role := e.role.getD .unassigned, valid := true } else {}

/-- The role is OTHER or UNASSIGNED, which many addresses may hold (R164). -/
def sharedRole (r : Role) : Bool := decide (r = .other) || decide (r = .unassigned)

/-- Another address than `a` holds the role. -/
def heldElsewhere (t : List ForwardingEntry) (a : Nat) (r : Role) : Bool :=
  (List.range t.length).any fun b => decide (b ≠ a) && decide (roleIn t b = r)

/-- The checks on a forwarding entry for address `a`, against the table with the entries before it already stored (R164). -/
def checkForwarding (s : State) (t : List ForwardingEntry) (a : Nat) (e : ForwardingWrite) : Option ResultCode :=
  let r := (storedForwarding e).role
  firstBroken
    [ (e.role.isSome && (!reservedAddress a || decide (e.role = some .unassigned)), .badValue)
    , (sharedRole r || !heldElsewhere t a r, .duplicate)
    , (decide (roleIn t a = r) || !s.active (roleIn t a), .inUse) ]

/-- The checks on a kind table entry (R163). -/
def checkKind (x : Option KindAction) : Option ResultCode := firstBroken [(x.isSome, .badValue)]

/-- The checks on a terminal level (R150). -/
def checkLevel (x : Option Level) : Option ResultCode := firstBroken [(x.isSome, .badValue)]

end Sys2Proof.Machine
end

