-- ==== Sys2Proof/Machine/Tables.lean ====
section
/-! DEFINITION. TABLE_WRITE and TABLE_READ of the fifteen tables (R170 and the rules of each table). A write checks every entry
before any is stored; on a failure it stores none and names the failing entry. -/

namespace Sys2Proof.Machine

/-! ### The shared operations -/

/-- The first entry that breaks a check, with its result and index; the entries stand from index `i` on. -/
def firstFailing {α : Type} (check : Nat → α → Option ResultCode) : Nat → List α → Option (ResultCode × Nat)
  | _, [] => none
  | i, e :: es =>
    match check i e with
    | some c => some (c, i)
    | none => firstFailing check (i + 1) es

/-- The first entry that breaks a check made against the table with the entries before it already stored (R152, R164). -/
def firstFailingIn {α β : Type} (check : List β → Nat → α → Option ResultCode) (stored : α → β) :
    List β → Nat → List α → Option (ResultCode × Nat)
  | _, _, [] => none
  | t, i, e :: es =>
    match check t i e with
    | some c => some (c, i)
    | none => firstFailingIn check stored (t.set i (stored e)) (i + 1) es

/-- The indexes `first` to `first + count - 1` lie within `lo` to `hi - 1`, and there is at least one (R170). -/
def indexesFit (lo hi first count : Nat) : Bool := decide (1 ≤ count) && decide (lo ≤ first) && decide (first + count ≤ hi)

/-- A table write (R170): a count of 0 gets BAD_INDEX, content that does not hold exactly count entries BAD_VALUE, indexes
outside the table BAD_INDEX (DEDUCED, log entry 18); then the first failing entry, or the store. -/
def writeTable {α : Type} (lo hi first count : Nat) (entries : List α) (fails : Option (ResultCode × Nat))
    (store : State → State) (s : State) : Served :=
  if count = 0 then refuse .badIndex s
  else if entries.length ≠ count then refuse .badValue s
  else if !indexesFit lo hi first count then refuse .badIndex s
  else
    match fails with
    | some x => refuseAt x.1 x.2 s
    | none => accept (store s)

/-- The bytes that a reply's content takes at most: 8 frames of 58 bytes (R169). -/
def replyLimit : Nat := Config.partsAtMost * Config.partBytes

/-- The bytes of one entry of a table in a reply (DESIGN CHOICE, log entry 4). -/
def entryBytes (t : TableName) : Nat := (Config.entryBytesLessOne t).val + 1

/-- A table read of entries `first` on (R170): indexes outside the table get BAD_INDEX; entries that would not fit in a reply of
8 frames get BAD_VALUE. The reply's first 3 bytes are its operation, result and index. -/
def readTable (t : TableName) (lo hi first count : Nat) (d : ReplyData) (s : State) : Served :=
  if !indexesFit lo hi first count then refuse .badIndex s
  else if replyLimit < 3 + count * entryBytes t then refuse .badValue s
  else acceptWith d s

/-- Entries `first` on of a table held from index 0. -/
def slice {α : Type} (l : List α) (first count : Nat) : List α := (l.drop first).take count

/-! ### Writes -/

/-- A terminal's service after a write of the forwarding table (R161). -/
def roleChange (before : List ForwardingEntry) (t : Term) (s : State) : State :=
  let old := addrIn before (.term t)
  match s.addrOf (.term t) with
  | some a => if old = some a then s else pageChange t 0 s
  | none =>
    if old.isSome then
      s.modTerm t fun x => { x with dirty := [], pagePending := false, message := [], messagePending := false, lastSent := [] }
    else s

/-- TABLE_WRITE of the forwarding table (R164, R161). -/
def writeForwarding (first count : Nat) (entries : List ForwardingWrite) (s : State) : Served :=
  writeTable 0 64 first count entries (firstFailingIn (checkForwarding s) storedForwarding s.lif.forwarding first entries)
    (fun s => eachTerm (roleChange s.lif.forwarding)
      { s with lif := { s.lif with forwarding := storeFrom s.lif.forwarding first (entries.map storedForwarding) } }) s

/-- TABLE_WRITE of the kind table (R163): index 64 to 255, equal to the kind. -/
def writeKind (first count : Nat) (entries : List (Option KindAction)) (s : State) : Served :=
  writeTable 64 256 first count entries (firstFailing (fun _ => checkKind) first entries)
    (fun s => { s with lif := { s.lif with kinds := storeFrom s.lif.kinds (first - 64) (entries.map (·.getD .pass)) } }) s

/-- The parameters after a write of values from number `i` on. -/
def putParams (p : Params) (i : Nat) : List ParamValue → Params
  | [] => p
  | v :: vs => putParams (p.put i v) (i + 1) vs

/-- The write holds the preheat dwell, parameter 4. -/
def writesDwell (first count : Nat) : Bool := decide (first ≤ 4) && decide (4 < first + count)

/-- TABLE_WRITE of the cell parameters (R171); a write of the preheat dwell is compared with the strip's dwell (R24). -/
def writeCellParameter (first count : Nat) (entries : List ParamValue) (s : State) : Served :=
  writeTable 0 10 first count entries (firstFailing checkParam first entries)
    (fun s =>
      let t := { s with ccs := { s.ccs with params := putParams s.ccs.params first entries } }
      if writesDwell first count then dwellCheck t else t) s

/-- TABLE_WRITE of the lot table (R2). -/
def writeLot (first count : Nat) (entries : List LotWrite) (s : State) : Served :=
  if s.fdc.mag = .absent ∨ s.fdc.mag = .exhausted then
    writeTable 0 40 first count entries (firstFailing (fun _ => checkLot s) first entries)
      (fun s => s.modFdc fun f => { f with lot := storeFrom f.lot first (entries.map storedLot) }) s
  else refuse .inUse s

/-- TABLE_WRITE of the program table (R42). -/
def writeProgram (first count : Nat) (entries : List ProgramEntry) (s : State) : Served :=
  writeTable 0 8 first count entries (firstFailing (checkProgram s) first entries)
    (fun s => { s with usc := { s.usc with programs := storeFrom s.usc.programs first (entries.map storedProgram) } }) s

/-- TABLE_WRITE of the wire table (R43). -/
def writeWire (first count : Nat) (entries : List WireEntry) (s : State) : Served :=
  writeTable 0 1536 first count entries (firstFailing (checkWire s) first entries)
    (fun s => { s with usc := { s.usc with wires := storeFrom s.usc.wires first (entries.map storedWire) } }) s

/-- TABLE_WRITE of the recipe table (R80). -/
def writeRecipe (first count : Nat) (entries : List RecipeEntry) (s : State) : Served :=
  writeTable 0 32 first count entries (firstFailing (checkRecipe s) first entries)
    (fun s => { s with recipes := storeFrom s.recipes first (entries.map storedRecipe) }) s

/-- TABLE_WRITE of the plan table (R113). -/
def writePlan (first count : Nat) (entries : List PlanEntry) (s : State) : Served :=
  writeTable 0 8 first count entries (firstFailing (fun _ => checkPlan) first entries)
    (fun s => { s with plm := { s.plm with plans := storeFrom s.plm.plans first (entries.map storedPlan) } }) s

/-- TABLE_WRITE of the limits table (R114). -/
def writeLimits (first count : Nat) (entries : List LimitsEntry) (s : State) : Served :=
  writeTable 0 8 first count entries (firstFailing (fun _ => checkLimits) first entries)
    (fun s => { s with plm := { s.plm with limits := storeFrom s.plm.limits first (entries.map storedLimits) } }) s

/-- The terminal of an index 0 to 3 (R150). -/
def termOf (n : Nat) : Term :=
  match n with
  | 0 => .t1
  | 1 => .t2
  | 2 => .t3
  | _ => .t4

/-- Set the levels of the terminals from index `i` on (R150). -/
def setLevels (i : Nat) : List (Option Level) → State → State
  | [], s => s
  | l :: ls, s => setLevels (i + 1) ls (s.modTerm (termOf i) fun x => { x with level := l.getD .view })

/-- TABLE_WRITE of the terminal table (R150). -/
def writeTerminal (first count : Nat) (entries : List (Option Level)) (s : State) : Served :=
  writeTable 0 4 first count entries (firstFailing (fun _ => checkLevel) first entries) (setLevels first entries) s

/-- A terminal in service has a page change to its current page when `touched` holds of that page (R151). -/
def redraw (touched : State → Nat → Bool) (t : Term) (s : State) : State :=
  if s.inService t && touched s (s.term t).page then pageChange t (s.term t).page s else s

/-- TABLE_WRITE of the page table (R151). -/
def writePage (first count : Nat) (entries : List PageEntry) (s : State) : Served :=
  writeTable 0 16 first count entries (firstFailing (fun _ => checkPage s) first entries)
    (fun s => eachTerm (redraw fun _ p => decide (first ≤ p) && decide (p < first + count))
      { s with tmc := { s.tmc with pages := storeFrom s.tmc.pages first entries } }) s

/-- TABLE_WRITE of the tile table (R151): a page holds the tiles of its range, be it valid or not. -/
def writeTile (first count : Nat) (entries : List TileEntry) (s : State) : Served :=
  writeTable 0 256 first count entries (firstFailing (checkTile s) first entries)
    (fun s => eachTerm
      (redraw fun s p => (s.pageRange p).any fun i => decide (first ≤ i) && decide (i < first + count))
      { s with tmc := { s.tmc with tiles := storeFrom s.tmc.tiles first entries } }) s

/-- TABLE_WRITE of the key map table (R152). -/
def writeKeyMap (first count : Nat) (entries : List KeyEntry) (s : State) : Served :=
  writeTable 0 256 first count entries (firstFailingIn checkKey id s.tmc.keys first entries)
    (fun s => { s with tmc := { s.tmc with keys := storeFrom s.tmc.keys first entries } }) s

/-- TABLE_WRITE of a read-only table, unit or candidate (R48, R170), whatever its count (DEDUCED, log entry 18). -/
def writeReadOnly (s : State) : Served := refuse .badState s

/-! ### Reads -/

def readForwarding (first count : Nat) (s : State) : Served :=
  readTable .forwarding 0 64 first count (.forwarding (slice s.lif.forwarding first count)) s

def readKind (first count : Nat) (s : State) : Served :=
  readTable .kind 64 256 first count (.kinds (slice s.lif.kinds (first - 64) count)) s

def readCellParameter (first count : Nat) (s : State) : Served :=
  readTable .cellParameter 0 10 first count (.params ((List.range' first count).map s.ccs.params.read)) s

/-- Each entry followed by its slot's working marks (R2). -/
def readLot (first count : Nat) (s : State) : Served :=
  readTable .lot 0 40 first count
    (.lot ((List.range' first count).map fun n => (s.fdc.lot.getD n {}, s.fdc.marks.getD n {}))) s

/-- What a read of program `p` returns (R45). -/
def State.programRead (s : State) (p : Nat) : ProgramRead :=
  { entry := s.program p, state := s.plm.progState.getD p .running, inUse := s.inUse p, strips := s.stripCount p }

def readProgram (first count : Nat) (s : State) : Served :=
  readTable .program 0 8 first count (.programs ((List.range' first count).map s.programRead)) s

def readWire (first count : Nat) (s : State) : Served :=
  readTable .wire 0 1536 first count
    (.wires ((List.range' first count).map fun i => (s.usc.wires.getD i {}, s.wireInUse i))) s

/-- Each entry with its profile length and in-use mark (R81). -/
def readRecipe (first count : Nat) (s : State) : Served :=
  readTable .recipe 0 32 first count
    (.recipes ((List.range' first count).map fun r => (s.recipe r, profileLength (s.recipe r), s.recipeInUse r))) s

/-- Unit records with their maps, or NOT_FOUND while there are none (R48); a record as R47 lists its fields, so without the rebond
wire that the model keeps in it (DESIGN CHOICE, log entry 43). -/
def readUnit (first count : Nat) (s : State) : Served :=
  if count = 0 then refuse .badIndex s
  else
    match s.usc.units with
    | none => refuse .notFound s
    | some l => readTable .unit 0 l.length first count (.units ((slice l first count).map UnitRecord.fields)) s

/-- Candidates of the strip at a position (R116). -/
def readCandidate (p : Position) (first count : Nat) (s : State) : Served :=
  if count = 0 then refuse .badIndex s
  else
    match s.strip p with
    | none => refuse .notFound s
    | some r => readTable .candidate 0 r.candidates.length first count (.candidates (slice r.candidates first count)) s

/-- Plan entries with the admitted-strip counters (R113). -/
def readPlan (first count : Nat) (s : State) : Served :=
  readTable .plan 0 8 first count
    (.plans ((List.range' first count).map fun p => (s.plm.plans.getD p {}, s.plm.counters.getD p 0))) s

def readLimits (first count : Nat) (s : State) : Served :=
  readTable .limits 0 8 first count (.limits (slice s.plm.limits first count)) s

/-- What a read of a terminal returns (R150). -/
def State.terminalRead (s : State) (n : Nat) : TerminalRead :=
  let x := s.term (termOf n)
  { level := x.level, page := x.page, address := s.addrOf (.term (termOf n)), dirtyCount := x.dirty.length, message := x.message }

def readTerminal (first count : Nat) (s : State) : Served :=
  readTable .terminal 0 4 first count (.terminals ((List.range' first count).map s.terminalRead)) s

def readPage (first count : Nat) (s : State) : Served :=
  readTable .page 0 16 first count (.pages (slice s.tmc.pages first count)) s

def readTile (first count : Nat) (s : State) : Served :=
  readTable .tile 0 256 first count (.tiles (slice s.tmc.tiles first count)) s

def readKeyMap (first count : Nat) (s : State) : Served :=
  readTable .keyMap 0 256 first count (.keys (slice s.tmc.keys first count)) s

end Sys2Proof.Machine
end

