-- ==== Sys2Proof/Machine/Status.lean ====
section
/-! DEFINITION. STATUS_READ and COUNTERS_CLEAR (R172). -/

namespace Sys2Proof.Machine

/-- The contents of a status section as it stands (R172): a strip record with the fields of R19, the push in flight with those of
R11, the head context with those of R60. Of the indexer, section 3 gives the operation in flight, with its move number (R25), and FREE when
there is none; the move number that TRC keeps while no move is in flight is not given (DEDUCED, log entry 46). -/
def State.section_ (s : State) (n : Nat) : StatusReport :=
  match n with
  | 0 => .cell s.ccs.cell s.ccs.estop s.ccs.feedPause s.now s.ccs.cause s.lif.dropped
  | 1 =>
    .link s.lif.uCounts s.lif.fCounts s.lif.ufQueue.length s.lif.fuQueue.length s.lif.requests.length s.lif.notices.length
  | 2 =>
    .feed s.fdc.mag s.fdc.pendingSlot s.fdc.resume s.fdc.pointer s.nextSlot (s.fdc.push.map PushInFlight.fields) s.fdc.out
      s.fdc.fill s.fdc.reserved
  | 3 =>
    .track (s.trc.preheat.map StripRecord.fields) (s.trc.bond.map StripRecord.fields) (s.trc.post.map StripRecord.fields)
      s.trc.lastEjected s.trc.op s.trc.heat
  | 4 => .head (s.head .a).fields (s.chan .a) (s.vcu.last.get .a)
  | 5 => .head (s.head .b).fields (s.chan .b) (s.vcu.last.get .b)
  | 6 => .scan s.vcu.scan s.vcu.pos s.vcu.pendingWire s.vcu.rebondHead
  | _ =>
    .pull s.plm.log.length (s.plm.log.head?.map (·.number)) s.plm.nextRecord s.plm.half s.plm.req s.plm.timeouts s.plm.pullTag

/-- A read of section 0 sets the reset cause to NONE (R172). -/
def readCause (n : Nat) (s : State) : State := if n = 0 then { s with ccs := { s.ccs with cause := .none } } else s

/-- STATUS_READ (R172). -/
def onStatusRead (n : Nat) (s : State) : Served :=
  if n ≤ 7 then acceptWith (.status (s.section_ n)) (readCause n s) else refuse .badIndex s

/-- COUNTERS_CLEAR (R172). -/
def onCountersClear (s : State) : Served := accept { s with lif := { s.lif with uCounts := {}, fCounts := {}, dropped := 0 } }

end Sys2Proof.Machine
end

