-- ==== Sys2Proof/Machine/Wire.lean ====
section
/-! DEFINITION. The byte layouts of 11.9: the CRC of a frame, the payloads whose layout the manual gives, and the numbers of
kinds, results and operations. -/

namespace Sys2Proof.Machine

/-! ### CRC-16 (R162) -/

/-- One bit of the CRC: polynomial 0x1021, most significant bit first. -/
def crcBit (c : BitVec 16) : BitVec 16 := if c.msb then (c <<< 1) ^^^ 0x1021#16 else c <<< 1

/-- One byte of the CRC. -/
def crcByte (c : BitVec 16) (b : Byte) : BitVec 16 :=
  let c := c ^^^ (b.setWidth 16 <<< 8)
  crcBit (crcBit (crcBit (crcBit (crcBit (crcBit (crcBit (crcBit c)))))))

/-- CRC-16 with initial value 0xFFFF and no final inversion (R162). -/
def crc16 (l : List Byte) : BitVec 16 := l.foldl crcByte 0xFFFF#16

/-! ### Numbers -/

/-- A number in two bytes, most significant first. -/
def bytes2 (n : Nat) : List Byte := [BitVec.ofNat 8 (n / 256), BitVec.ofNat 8 n]

/-- A number in four bytes, most significant first. -/
def bytes4 (n : Nat) : List Byte :=
  [BitVec.ofNat 8 (n / 16777216), BitVec.ofNat 8 (n / 65536), BitVec.ofNat 8 (n / 256), BitVec.ofNat 8 n]

/-- A signed number in four bytes, two's complement, most significant first. -/
def bytesInt (n : Int) : List Byte := bytes4 (BitVec.ofInt 32 n).toNat

/-- A character in one byte. -/
def byteOfChar (c : Char) : Byte := BitVec.ofNat 8 c.toNat

/-! ### Own kinds (11.9) -/

/-- The own kinds that the part defines. -/
def definedKinds : List Byte :=
  [0x01, 0x02, 0x03, 0x10, 0x11, 0x12, 0x13, 0x18, 0x19, 0x1A, 0x1B, 0x1C, 0x20, 0x21, 0x28, 0x29, 0x2A]

/-- The kind is an own kind that the part defines (R163). -/
def isOwnKind (k : Byte) : Bool := definedKinds.contains k

/-- The action of a kind: the kind table's from 0x40 on; an own kind that the part does not define is handled as PASS (R163). -/
def State.kindAction (s : State) (k : Byte) : KindAction := if k.toNat < 64 then .pass else s.lif.kinds.getD (k.toNat - 64) .pass

/-! ### Operations and results (11.9) -/

/-- The number of a result code. -/
def resultNumber : ResultCode → Nat
  | .ok => 0
  | .busy => 1
  | .badOp => 2
  | .badTable => 3
  | .badIndex => 4
  | .badValue => 5
  | .duplicate => 6
  | .inUse => 7
  | .badState => 8
  | .notFound => 9
  | .notShown => 10
  | .owned => 11

/-! ### Payloads (11.9) -/

/-- What a US_SAMPLE payload carries: feedback, sequence byte, generator fault mark. -/
structure Sample where
  feedback : BitVec 16
  seq : Byte
  fault : Bool
  deriving DecidableEq, Repr

/-- The sample that a US_SAMPLE payload spells; none when it is shorter than its four bytes. In a longer payload the first four bytes are
the sample and the rest is not looked at (DESIGN CHOICE, log entry 21). -/
def decodeSample : List Byte → Option Sample
  | b0 :: b1 :: b2 :: b3 :: _ => some { feedback := b0 ++ b1, seq := b2, fault := b3.getLsbD 0 }
  | _ => none

/-- The payload of a US_SAMPLE. -/
def encodeSample (x : Sample) : List Byte :=
  [x.feedback.extractLsb' 8 8, x.feedback.extractLsb' 0 8, x.seq, if x.fault then 1 else 0]

/-- The payload of a US_DRIVE. -/
def drivePayload (d : DriveFrame) : List Byte := bytes2 d.drive ++ [if d.endMark then 1 else 0]

/-- The payload of a HEAD_CMD WIRE_GO (22 bytes); the manual gives no layout for the other HEAD_CMD commands. -/
def wireGoPayload (n : Byte) (site1 site2 : Site) (dieLevel loopCode ballForce stitchForce : Nat) : List Byte :=
  [1, n] ++ bytesInt site1.x ++ bytesInt site1.y ++ bytesInt site2.x ++ bytesInt site2.y ++
  [BitVec.ofNat 8 dieLevel, BitVec.ofNat 8 loopCode, BitVec.ofNat 8 ballForce, BitVec.ofNat 8 stitchForce]

/-- The payload of a SCREEN_PUT of a tile. -/
def tilePayload (tile row column width : Nat) (tag : DisplayTag) (text : List Char) : List Byte :=
  [0, BitVec.ofNat 8 tile, BitVec.ofNat 8 row, BitVec.ofNat 8 column, BitVec.ofNat 8 width] ++
  bytes2 (encodeTag tag).toNat ++ text.map byteOfChar

/-- The payload of a SCREEN_PUT of the message line. -/
def messagePayload (text : List Char) : List Byte := [1, BitVec.ofNat 8 text.length] ++ text.map byteOfChar

/-- The payload of an own frame, none where the manual gives no layout for it. -/
def OwnBody.payload : OwnBody → Option (List Byte)
  | .headCmd (.wireGo a b d l f g) n => some (wireGoPayload n a b d l f g)
  | .headCmd _ _ => none
  | .screenTile i r c w g t => some (tilePayload i r c w g t)
  | .screenMessage t => some (messagePayload t)
  | .feedPush _ | .feedEject _ | .trackMove _ _ | .pullReq _ _ _ _ _ | .screenPage _ => none

/-- The kind of an own frame (11.9). -/
def OwnBody.kind : OwnBody → Byte
  | .headCmd _ _ => 0x10
  | .feedPush _ | .feedEject _ => 0x18
  | .trackMove _ _ => 0x1A
  | .pullReq _ _ _ _ _ => 0x20
  | .screenPage _ => 0x29
  | .screenTile _ _ _ _ _ _ | .screenMessage _ => 0x28

/-- The first two bytes of an MREQ or MREP payload: the tag, the part number in bits 0 to 2, the LAST mark in bit 7. -/
def partHeader (tag : Byte) (part : Nat) (last : Bool) : List Byte :=
  [tag, BitVec.ofNat 8 (part % 8) ||| (if last then 0x80 else 0)]

/-- A bond summary in a pull record as read (14 bytes); an absent one has 255 in its first byte. -/
def summaryBytes (b : Option BondSummary) : List Byte :=
  match b with
  | none => 255 :: List.replicate 13 0
  | some x =>
    [BitVec.ofNat 8 x.recipe] ++ bytes2 x.profileLength ++ bytes2 x.samples ++ bytes4 x.energy ++ bytes2 x.peak ++
    [BitVec.ofNat 8 x.startupCount
    , (if x.slowStart then 1 else 0) ||| (if x.sampleGap then 2 else 0) ||| (if x.lowEnergy then 4 else 0) |||
        (if x.highEnergy then 8 else 0)
    , match x.outcome with
      | .complete => 0
      | .trip => 1
      | .sampleLoss => 2]

/-- The reason number of a pull record. -/
def reasonNumber : CandidateReason → Byte
  | .planned => 0
  | .dissent => 1
  | .highEnergy => 2
  | .slowStart => 3
  | .retried => 4
  | .operator => 5

/-- The head number of a pull record. -/
def headNumber : Option Head → Byte
  | some .a => 0
  | some .b => 1
  | none => 255

/-- The station status number of a pull record. -/
def statusNumber : Option StationStatus → Byte
  | some .ok => 0
  | some .noHook => 1
  | some .testerFault => 2
  | none => 255

/-- The verdict number of a pull record. -/
def verdictNumber : PullVerdict → Byte
  | .pass => 0
  | .fail => 1
  | .noResult => 2
  | .notBonded => 3

/-- The strip code of a pull record: its length and 16 bytes padded with 0; length 255 when absent. -/
def codeBytes (c : Option StripCode) : List Byte :=
  match c with
  | none => 255 :: List.replicate 16 0
  | some l => BitVec.ofNat 8 l.length :: (l.take 16 ++ List.replicate (16 - l.length) 0)

/-- A pull record as read (64 bytes). -/
def pullRecordBytes (x : PullRecord) : List Byte :=
  bytes2 x.number ++ bytes4 x.time.toNat ++ bytes2 x.seq ++ [BitVec.ofNat 8 x.program, BitVec.ofNat 8 x.unit] ++ bytes2 x.wire ++
  [headNumber x.head, reasonNumber x.reason, statusNumber x.status, verdictNumber x.verdict, BitVec.ofNat 8 (x.mode.getD 0)] ++
  bytes2 (if x.mode.isSome then x.force.getD 0 else 0) ++ codeBytes x.code ++ summaryBytes x.ball ++ summaryBytes x.stitch

/-- A frame's header and payload, over which its CRC is formed. -/
def frameBody (dst src kind : Byte) (payload : List Byte) : List Byte :=
  [dst, src, kind, BitVec.ofNat 8 payload.length] ++ payload

end Sys2Proof.Machine
end

