-- ==== Sys2Proof/Machine/Manage.lean ====
section
/-! DEFINITION. Management (R169, R170): gathering requests, the request queue, taking the oldest request, and its reply. -/

namespace Sys2Proof.Machine

/-! ### Replies (R168, R169) -/

/-- The bytes of a reply's data (11.9; DESIGN CHOICE, log entry 4 where the manual gives no layout). -/
def dataBytes (op : Byte) (arg : Nat) : ReplyData → Nat
  | .none => 0
  | .gate _ _ => 2
  | .forwarding es => es.length * entryBytes .forwarding
  | .kinds es => es.length * entryBytes .kind
  | .params es => es.length * entryBytes .cellParameter
  | .lot es => es.length * entryBytes .lot
  | .programs es => es.length * entryBytes .program
  | .wires es => es.length * entryBytes .wire
  | .recipes es => es.length * entryBytes .recipe
  | .units es => es.length * entryBytes .unit
  | .candidates es => es.length * entryBytes .candidate
  | .plans es => es.length * entryBytes .plan
  | .limits es => es.length * entryBytes .limits
  | .terminals es => es.length * entryBytes .terminal
  | .pages es => es.length * entryBytes .page
  | .tiles es => es.length * entryBytes .tile
  | .keys es => es.length * entryBytes .keyMap
  | .pullRecords es => es.length * 64
  | .stats _ => Config.replyDataBytes op arg 1
  | .alarms _ _ es => Config.replyDataBytes op arg es.length
  | .status _ => Config.replyDataBytes op arg 1

/-- The number of frames that carry so many content bytes, 58 to a frame. -/
def framesFor (bytes : Nat) : Nat := (bytes + (Config.partBytes - 1)) / Config.partBytes

/-- The frames of a reply: parts 0 on, the last with the LAST mark (R169). -/
def replyFrames (tag op : Byte) (a : Answer) (parts : Nat) : List Mrep :=
  (List.range parts).map fun i => { tag := tag, part := i, last := decide (i + 1 = parts), op := op, answer := a }

/-- Frames join the U-port reply list with their stamps. -/
def queueReplies : List Mrep → State → State
  | [], s => s
  | m :: ms, s =>
    queueReplies ms { s with lif := { s.lif with replies := s.lif.replies ++ [(s.lif.stamp, m)], stamp := s.lif.stamp + 1 } }

/-- The reply list has room for so many frames (R168). -/
def State.replyRoom (s : State) (parts : Nat) : Bool := decide (s.lif.replies.length + parts ≤ Config.replyRoom)

/-- A reply made at once (R166, R169 BUSY and BAD_VALUE): it is not made when the reply list is full, and the U-port overrun
count rises (R168). -/
def replyNow (tag op : Byte) (a : Answer) (s : State) : State :=
  if s.replyRoom 1 then queueReplies (replyFrames tag op a 1) s
  else { s with lif := { s.lif with uCounts := { s.lif.uCounts with overrun := satAdd 65535 s.lif.uCounts.overrun 1 } } }

/-! ### Taking a request (R169) -/

/-- The number by which an operation's reply size may depend: its section or first index. -/
def sizeArg : Request → Nat
  | .statusRead n => n
  | .alarmRead first _ => first
  | .statsRead p => p
  | _ => 0

/-- The request is the oldest of the queue, which it then leaves; with the queue empty it is taken as it comes (DESIGN CHOICE, log entry 10). -/
def State.takeRequest (s : State) (tag : Byte) (r : Request) : Option State :=
  match s.lif.requests with
  | [] => some s
  | (t, q) :: rest => if t = tag ∧ q = r then some { s with lif := { s.lif with requests := rest } } else none

/-- The owning block takes a request, applies it whole and makes its reply, once the reply list has room for it (R168, R169);
until then, and while another request is the oldest, nothing happens. -/
def applyRequest (tag : Byte) (r : Request) (f : State → Served) (s : State) : State :=
  match s.takeRequest tag r with
  | none => s
  | some t =>
    let x := f t
    let parts := framesFor (3 + dataBytes (opNumber r) (sizeArg r) x.2.data)
    if s.replyRoom parts then queueReplies (replyFrames tag (opNumber r) x.2 parts) x.1 else s

/-- What LIF itself answers: an unknown operation, an unknown table, content of the wrong length (R170). -/
def lifAnswer : Request → Option ResultCode
  | .unknownOperation _ => some .badOp
  | .unknownTable _ => some .badTable
  | .malformed _ => some .badValue
  | _ => none

/-- LIF answers the requests that no block takes as they come to be the oldest (R169, R170) (DEDUCED, log entry 34). -/
def answerUnowned : Nat → State → State
  | 0, s => s
  | fuel + 1, s =>
    match s.lif.requests with
    | [] => s
    | (tag, r) :: _ =>
      match lifAnswer r with
      | some c => if s.replyRoom 1 then answerUnowned fuel (applyRequest tag r (refuse c) s) else s
      | none => s

/-- A management command: the request is taken and answered, then LIF answers what has become the oldest, if it is its own to
answer. -/
def serve (tag : Byte) (r : Request) (f : State → Served) (s : State) : State :=
  answerUnowned Config.requestRoom (applyRequest tag r f s)

/-! ### Gathering (R169) -/

/-- A complete request joins the queue, or is answered BUSY at once. -/
def joinQueue (tag : Byte) (r : Request) (s : State) : State :=
  if s.lif.requests.length < Config.requestRoom then
    answerUnowned Config.requestRoom { s with lif := { s.lif with requests := s.lif.requests ++ [(tag, r)] } }
  else replyNow tag (opNumber r) { result := .busy } s

/-- The request that the gathered content spells. Content that spells none is malformed, and its reply echoes its first byte (R170,
DEDUCED, log entry 34). -/
def gathered (content : List Byte) (reads : Option Request) : Request := reads.getD (.malformed (content.headD 0))

/-- A gathering goes on, or is complete. With no content at all there is no operation for the reply to echo: a free value (DESIGN
CHOICE, log entry 5). -/
def gather (g : Gathering) (last : Bool) (reads : Option Request) (s : State) : State :=
  if last then
    let t := { s with lif := { s.lif with gathering := none } }
    if reads = none ∧ g.content = [] then
      joinQueue g.tag (.malformed (Config.unstatedOperation s.free)) { t with free := s.free + 1 }
    else joinQueue g.tag (gathered g.content reads) t
  else { s with lif := { s.lif with gathering := some g } }

/-- The gathering ends, and BAD_VALUE is answered under the frame's tag; no operation is known (DESIGN CHOICE, log entry 5). -/
def badGathering (tag : Byte) (s : State) : State :=
  let t := { s with lif := { s.lif with gathering := none }, free := s.free + 1 }
  replyNow tag (Config.unstatedOperation s.free) { result := .badValue } t

/-- An MREQ frame addressed to 1 (R169). -/
def onMreq (f : MreqFrame) (s : State) : State :=
  if f.part = 0 then gather { tag := f.tag, part := 0, content := f.content } f.last f.reads s
  else
    match s.lif.gathering with
    | none => badGathering f.tag s
    | some g =>
      if f.tag = g.tag ∧ f.part = g.part + 1 ∧ (f.last ∨ f.part + 1 < Config.partsAtMost) then
        gather { tag := g.tag, part := f.part, content := g.content ++ f.content } f.last f.reads s
      else badGathering f.tag s

end Sys2Proof.Machine
end

