-- ==== Sys2Proof/Machine/Link.lean ====
section
/-! DEFINITION. The Link Interface's frames: receive checks (R162), what arrives at either port (R165, R166), the forward queues
(R167) and the ends of transmissions (R168). -/

namespace Sys2Proof.Machine

/-! ### Receive checks (R162) -/

/-- What the receive checks make of a frame. -/
inductive Receipt where
  | badLength | badCrc | good
  deriving DecidableEq, Repr

/-- The payload that the length field covers. -/
def receivedPayload (f : RxFrame) : List Byte := f.payload.take f.length.toNat

/-- The length check, then the CRC check (R162). -/
def receive (f : RxFrame) : Receipt :=
  if Config.payloadMax < f.length.toNat ∨ f.payload.length < f.length.toNat then .badLength
  else if crc16 ([f.dst, f.src, f.kind, f.length] ++ receivedPayload f) = f.crc then .good else .badCrc

/-- The frame that passed the checks. -/
def receivedFrame (f : RxFrame) : LinkFrame :=
  { dst := f.dst, src := f.src, kind := f.kind, payload := receivedPayload f, reads := f.reads }

def PortCounts.addCrc (c : PortCounts) : PortCounts := { c with crc := satAdd 65535 c.crc 1 }
def PortCounts.addLength (c : PortCounts) : PortCounts := { c with length := satAdd 65535 c.length 1 }
def PortCounts.addOverrun (c : PortCounts) : PortCounts := { c with overrun := satAdd 65535 c.overrun 1 }

/-- Change the F-port's counts. -/
def State.modFCounts (s : State) (f : PortCounts → PortCounts) : State := { s with lif := { s.lif with fCounts := f s.lif.fCounts } }

/-- Change the U-port's counts. -/
def State.modUCounts (s : State) (f : PortCounts → PortCounts) : State := { s with lif := { s.lif with uCounts := f s.lif.uCounts } }

/-! ### Forward queues (R167) -/

/-- A frame joins the F→U queue, or is discarded as an overrun of the F-port. -/
def forwardUp (f : LinkFrame) (s : State) : State :=
  if s.lif.fuQueue.length < Config.fuRoom then
    { s with lif := { s.lif with fuQueue := s.lif.fuQueue ++ [(s.lif.stamp, f)], stamp := s.lif.stamp + 1 } }
  else s.modFCounts (·.addOverrun)

/-- A frame joins the U→F queue, or is discarded as an overrun of the U-port. -/
def forwardDown (f : LinkFrame) (s : State) : State :=
  if s.lif.ufQueue.length < Config.ufRoom then { s with lif := { s.lif with ufQueue := s.lif.ufQueue ++ [f] } }
  else s.modUCounts (·.addOverrun)

/-! ### Consumed frames (R165) -/

/-- An answer of the operation in flight that extends a node's ownership (R11, R32, R121, R165). -/
def isAnswer (r : Role) (f : LinkFrame) : Bool :=
  match r, f.reads with
  | .feedIn, .feedEvt (.stripIn _) | .feedIn, .feedEvt .feedFault => decide (f.kind = 0x19)
  | .feedOut, .feedEvt (.ejected _) | .feedOut, .feedEvt .feedFault => decide (f.kind = 0x19)
  | .track, .trackEvt _ => decide (f.kind = 0x1B)
  | .pull, .pullResult _ _ _ _ => decide (f.kind = 0x21)
  | _, _ => false

/-- The role's ownership at this moment rests on an operation in flight alone: the cell is STOPPED (R165). -/
def State.onlyExtended (s : State) (r : Role) : Bool :=
  match r with
  | .feedIn | .feedOut | .track | .pull => decide (s.ccs.cell = .stopped)
  | .head _ | .heater | .term _ | .other | .unassigned => false

/-- A frame of this role's node is consumed (R165 step 2). -/
def State.consumes (s : State) (r : Role) (f : LinkFrame) : Bool :=
  isOwnKind f.kind && s.owned r && (!s.onlyExtended r || isAnswer r f)

/-- A HEAD_EVT handed to its head controller (R68 to R76). -/
def onHeadEvt (h : Head) (e : HeadEvt) (s : State) : State :=
  match e with
  | .touchdown n => onTouchdown h n s
  | .bondEnd n c d => onBondEnd h n c d s
  | .wireDone n => onWireDone h n s
  | .aborted _ => s
  | .motionFault => onMotionFault h s

/-- A US_SAMPLE handed to its channel (R85). -/
def onSamplePayload (h : Head) (p : List Byte) (s : State) : State :=
  match decodeSample p with
  | some x => onSample h x.feedback.toNat x.seq x.fault s
  | none => s

/-- A consumed frame of a head node. -/
def deliverHead (h : Head) (f : LinkFrame) (s : State) : State :=
  if f.kind = 0x12 then onSamplePayload h f.payload s
  else
    match f.reads with
    | .headEvt e => if f.kind = 0x11 then onHeadEvt h e s else s
    | _ => s

/-- A FEED_EVT of the FEED_IN node. -/
def onFeedEvt (e : FeedEvt) (s : State) : State :=
  match e with
  | .magIn m => onMagIn m s
  | .magOut => onMagOut s
  | .stripIn c => onStripIn c s
  | .feedFault => onFeedFault s
  | .ejected _ => s

/-- A FEED_EVT of the FEED_OUT node. -/
def onOutFeedEvt (e : FeedEvt) (s : State) : State :=
  match e with
  | .magIn m => onOutMagIn m s
  | .magOut => onOutMagOut s
  | .stripIn _ => s
  | .feedFault => onOutFeedFault s
  | .ejected n => onEjected n s

/-- A TRACK_EVT of the TRACK node. -/
def onTrackEvt (e : TrackEvt) (s : State) : State :=
  match e with
  | .moveDone o n => onMoveDone o n s
  | .trackFault o n => onTrackFault o n s

/-- A consumed frame is handed to the block that takes it from its role; any other consumed frame is discarded (R165). -/
def deliver (r : Role) (f : LinkFrame) (s : State) : State :=
  match r with
  | .head h => deliverHead h f s
  | .feedIn =>
    match f.reads with
    | .feedEvt e => if f.kind = 0x19 then onFeedEvt e s else s
    | _ => s
  | .feedOut =>
    match f.reads with
    | .feedEvt e => if f.kind = 0x19 then onOutFeedEvt e s else s
    | _ => s
  | .track =>
    match f.reads with
    | .trackEvt e => if f.kind = 0x1B then onTrackEvt e s else s
    | _ => s
  | .heater =>
    match f.reads with
    | .heatSample t => if f.kind = 0x1C then onHeatSample t s else s
    | _ => s
  | .pull =>
    match f.reads with
    | .pullResult tag force mode st => if f.kind = 0x21 then onPullResult tag force mode st s else s
    | _ => s
  | .term t =>
    match f.reads with
    | .screenKey k i g => if f.kind = 0x2A then onScreenKey t k i g s else s
    | _ => s
  | .other | .unassigned => s

/-- A frame that passed its checks at the F-port (R165). -/
def fieldArrive (f : LinkFrame) (s : State) : State :=
  if s.kindAction f.kind = .drop then s
  else if s.consumes (s.roleAt f.src.toNat) f then deliver (s.roleAt f.src.toNat) f s
  else forwardUp f s

/-- A frame at the F-port (R162, R165). -/
def onFPort (f : RxFrame) (s : State) : State :=
  match receive f with
  | .badLength => s.modFCounts (·.addLength)
  | .badCrc => s.modFCounts (·.addCrc)
  | .good => fieldArrive (receivedFrame f) s

/-! ### The U-port (R166) -/

/-- The roles that a kind is gated to (R166 step 3). -/
def gateRoles (k : Byte) : List Role :=
  if k = 0x10 ∨ k = 0x13 then [.head .a, .head .b]
  else if k = 0x18 ∨ k = 0x1A ∨ k = 0x20 then [.feedIn, .feedOut, .track, .pull] else []

/-- A gated frame: its destination node is owned, or for 63 any node of its target roles is (R166 step 3). -/
def State.gated (s : State) (f : LinkFrame) : Bool :=
  if f.dst = 63 then (gateRoles f.kind).any fun r => (s.addrOf r).isSome && s.owned r
  else (gateRoles f.kind).contains (s.roleAt f.dst.toNat) && s.owned (s.roleAt f.dst.toNat)

/-- The MREQ that a payload is, with the request it completes (11.9). -/
def mreqOf (f : LinkFrame) : Option MreqFrame :=
  match f.payload with
  | tag :: b :: content =>
    some { tag := tag, part := (b.extractLsb' 0 3).toNat, last := b.getLsbD 7, content := content
           reads := match f.reads with
                    | .request r => some r
                    | _ => none }
  | _ => none

/-- An MREQ frame addressed to 1; one too short for its two header bytes is discarded (DESIGN CHOICE, log entry 21). -/
def onMreqPayload (f : LinkFrame) (s : State) : State :=
  match mreqOf f with
  | some m => onMreq m s
  | none => s

/-- A frame that passed its checks at the U-port (R166). -/
def hostArrive (f : LinkFrame) (s : State) : State :=
  if s.kindAction f.kind = .drop then s
  else if f.dst = 1 then (if f.kind = 0x01 then onMreqPayload f s else s)
  else if s.gated f then replyNow 0 0 { result := .owned, data := .gate f.kind f.dst } s
  else forwardDown f s

/-- A frame at the U-port (R162, R166). -/
def onUPort (f : RxFrame) (s : State) : State :=
  match receive f with
  | .badLength => s.modUCounts (·.addLength)
  | .badCrc => s.modUCounts (·.addCrc)
  | .good => hostArrive (receivedFrame f) s

/-! ### Ends of transmissions (R168, R157, R143) -/

/-- A terminal's frame has been sent: its frame waiting mark clears unless another of its frames waits (R157). -/
def screenSent (r : Role) (s : State) : State :=
  match r with
  | .term t => s.modTerm t fun x => { x with frameWaiting := s.lif.own.any fun o => decide (o.role = .term t) }
  | .head _ | .feedIn | .feedOut | .track | .heater | .pull | .other | .unassigned => s

/-- A tile that shows an alarm has been sent: the entry that its tag names has its shown flag set (R143) (DEDUCED, log entry
13). -/
def alarmSent (b : OwnBody) (s : State) : State :=
  match b with
  | .screenTile _ _ _ _ (.alarm c sc) _ => showAlarm c sc s
  | _ => s

/-- The F-port transmitter has finished its frame (R168). -/
def onFSent (s : State) : State :=
  let t := { s with lif := { s.lif with fTx := none } }
  match s.lif.fTx with
  | some (.own o) => alarmSent o.body (screenSent o.role t)
  | _ => t

/-- The U-port transmitter has finished its frame and takes the next (R168); a reply of LIF's own that waited for room in the
reply list may then be made. -/
def onUSent (s : State) : State := answerUnowned Config.requestRoom (kickU { s with lif := { s.lif with uTx := none } })

end Sys2Proof.Machine
end

