-- ==== Sys2Proof/Machine/Reset.lean ====
section
/-! DEFINITION. The resets (R176): a full reset at power-on and by the reset line, RESTART, and the assertion of the reset
line. -/

namespace Sys2Proof.Machine

/-- The reset cause of a full reset. -/
def causeOf : FullCause → ResetCause
  | .power => .power
  | .line => .line

/-- ESTOP is raised after a reset made while the E-stop line is asserted (R176, R149). -/
def raiseEstopIfAsserted (s : State) : State := if s.ccs.estop then raiseAlarm .estop .cell 0 s else s

/-- A full reset: every block at its full reset values, the cause set, STARTED queued, and the first frame taken by its
transmitter (R168); the level of the E-stop line is kept, since the part does not make it (R176) (DEDUCED, log entry 23). -/
def fullReset (c : FullCause) (s : State) : State :=
  kick (raiseEstopIfAsserted (notify (.started (causeOf c))
    { ccs := { cause := causeOf c, estop := s.ccs.estop }, free := s.free, pending := s.pending }))

/-- The reset line is asserted: the part is in reset, and sends nothing (R176) (DESIGN CHOICE, log entry 22). -/
def assertReset (s : State) : State :=
  { s with ccs := { s.ccs with inReset := true }, lif := { s.lif with fTx := none, uTx := none } }

/-! ### RESTART (R176) -/

/-- The drive 0 and ABORT frames of a head that is not OFF (R78). -/
def restartHead (old : State) (h : Head) (s : State) : State :=
  if (old.head h).state = .off then s
  else
    let s := sendDrive h 0 false s
    if (old.head h).state.working then sendOwn (.head h) (.headCmd .abort (old.head h).cmdNo) s else s

/-- A terminal after RESTART: its level is kept; with its role held it has a page change to page 0 (R150, R161). -/
def restartTerm (old : State) (t : Term) (s : State) : State :=
  let s := s.modTerm t fun _ => { level := (old.term t).level }
  if s.inService t then pageChange t 0 s else s

/-- What PLM keeps through RESTART (R113 to R115, R125 to R128); every program is RUNNING (R136). -/
def Plm.restarted (p : Plm) : Plm :=
  { plans := p.plans, limits := p.limits, counters := p.counters, log := p.log, nextRecord := p.nextRecord, half := p.half
    stats := p.stats }

/-- What LIF keeps through RESTART: the tables, and the frames now being sent; the OK reply stands first (R176) (DEDUCED, log
entry 11). -/
def Lif.restarted (l : Lif) (tag : Byte) : Lif :=
  { forwarding := l.forwarding, kinds := l.kinds, fTx := l.fTx, uTx := l.uTx
    replies := [(0, { tag := tag, part := 0, last := true, op := opNumber .restart, answer := { result := .ok } })], stamp := 1 }

/-- The part after RESTART, before the frames of the heads, the notice and the terminals (R176). -/
def State.restarted (s : State) (tag : Byte) : State :=
  { ccs := { params := s.ccs.params, estop := s.ccs.estop, cause := .restart }
    lif := s.lif.restarted tag
    fdc := { lot := s.fdc.lot }
    usc := { programs := s.usc.programs, wires := s.usc.wires }
    recipes := s.recipes
    plm := s.plm.restarted
    tmc := { pages := s.tmc.pages, tiles := s.tmc.tiles, keys := s.tmc.keys }
    free := s.free
    pending := s.pending }

/-- RESTART (R176). The drive 0 and ABORT frames wait until the OK reply has been sent, and then go out on the F-port ahead of any
other frame: `kickF` starts none of them before (DEDUCED, log entry 11). -/
def restartPart (tag : Byte) (s : State) : State :=
  let t := restartHead s .b (restartHead s .a (s.restarted tag))
  let t := raiseEstopIfAsserted (notify (.started .restart) t)
  kick (eachTerm (restartTerm s) t)

/-- The RESTART request is taken when it is the oldest of the queue, or when the queue is empty (R169, DESIGN CHOICE, log entry 10),
and, as every request, when the reply list has room for its reply (R168). -/
def onRestart (tag : Byte) (s : State) : State :=
  match s.takeRequest tag .restart with
  | some _ => if s.replyRoom 1 then restartPart tag s else s
  | none => s

end Sys2Proof.Machine
end

