-- ==== Sys2Proof/Machine/CommandsField.lean ====
section
/-! DEFINITION. The meanings of the events of the field nodes, the grants and the timeouts, one definition for each command. -/

namespace Sys2Proof.Machine

/-- The frame in which a field node sends an event: it carries the message, and passes the checks of R162 (DEDUCED, log entry
33). Its destination is 1, and its payload bytes are none but for a US_SAMPLE, whose layout 11.9 gives; both show only where the
frame is forwarded up (DESIGN CHOICE, log entry 47). -/
def eventFrame (src kind : Byte) (payload : List Byte) (reads : Says) : LinkFrame :=
  { dst := 1, src := src, kind := kind, payload := payload, reads := reads }

/-- MAG_IN (R4). -/
def execMagIn (src : Byte) (sensed : SlotMap) (s : State) : Out :=
  act (fieldArrive (eventFrame src 0x19 [] (.feedEvt (.magIn sensed)))) s

/-- MAG_OUT (R7). -/
def execMagOut (src : Byte) (s : State) : Out :=
  act (fieldArrive (eventFrame src 0x19 [] (.feedEvt .magOut))) s

/-- STRIP_IN (R12). -/
def execStripIn (src : Byte) (code : Option StripCode) (s : State) : Out :=
  act (fieldArrive (eventFrame src 0x19 [] (.feedEvt (.stripIn code)))) s

/-- FEED_FAULT (R13). -/
def execFeedFault (src : Byte) (s : State) : Out :=
  act (fieldArrive (eventFrame src 0x19 [] (.feedEvt .feedFault))) s

/-- PUSH_TIMEOUT (R13). -/
def execPushTimeout (s : State) : Out :=
  act onPushTimeout s

/-- OUTPUT_MAG_IN (R15). -/
def execOutputMagIn (src : Byte) (sensed : SlotMap) (s : State) : Out :=
  act (fieldArrive (eventFrame src 0x19 [] (.feedEvt (.magIn sensed)))) s

/-- OUTPUT_MAG_OUT (R17). -/
def execOutputMagOut (src : Byte) (s : State) : Out :=
  act (fieldArrive (eventFrame src 0x19 [] (.feedEvt .magOut))) s

/-- PUSH_GRANT (R11, R26). -/
def execPushGrant (s : State) : Out :=
  act grantPush s

/-- MOVE_PB_GRANT (R28, R26). -/
def execMovePbGrant (s : State) : Out :=
  act grantMovePb s

/-- MOVE_BP_GRANT (R29, R26). -/
def execMoveBpGrant (s : State) : Out :=
  act grantMoveBp s

/-- EJECT_GRANT (R30, R26). -/
def execEjectGrant (s : State) : Out :=
  act grantEject s

/-- MOVE_DONE (R28, R29). -/
def execMoveDone (src : Byte) (origin : Origin) (n : Byte) (s : State) : Out :=
  act (fieldArrive (eventFrame src 0x1B [] (.trackEvt (.moveDone origin n)))) s

/-- TRACK_FAULT (R31). -/
def execTrackFault (src : Byte) (origin : Origin) (n : Byte) (s : State) : Out :=
  act (fieldArrive (eventFrame src 0x1B [] (.trackEvt (.trackFault origin n)))) s

/-- MOVE_TIMEOUT (R31). -/
def execMoveTimeout (s : State) : Out :=
  act onMoveTimeout s

/-- EJECTED (R30). -/
def execEjected (src : Byte) (slot : Nat) (s : State) : Out :=
  act (fieldArrive (eventFrame src 0x19 [] (.feedEvt (.ejected slot)))) s

/-- OUTPUT_FEED_FAULT (R31). -/
def execOutputFeedFault (src : Byte) (s : State) : Out :=
  act (fieldArrive (eventFrame src 0x19 [] (.feedEvt .feedFault))) s

/-- HEAT_SAMPLE (R35). -/
def execHeatSample (src : Byte) (temperature : Nat) (s : State) : Out :=
  act (fieldArrive (eventFrame src 0x1C [] (.heatSample temperature))) s

/-- HEAT_SIGNAL_TIMER_EXPIRY (R36). -/
def execHeatSignalTimerExpiry (s : State) : Out :=
  act onHeatTimer s

/-- TOUCHDOWN (R68). -/
def execTouchdown (src n : Byte) (s : State) : Out :=
  act (fieldArrive (eventFrame src 0x11 [] (.headEvt (.touchdown n)))) s

/-- US_SAMPLE (R85, R86). -/
def execUsSample (src : Byte) (feedback : BitVec 16) (seq : Byte) (generatorFault : Bool) (s : State) : Out :=
  act (fieldArrive (eventFrame src 0x12 (encodeSample { feedback := feedback, seq := seq, fault := generatorFault }) .nothing)) s

/-- STARTUP_TIMEOUT (R89). -/
def execStartupTimeout (h : Head) (s : State) : Out :=
  act (onStartupTimeout h) s

/-- LOSS_WINDOW_EXPIRY (R93). -/
def execLossWindowExpiry (h : Head) (s : State) : Out :=
  act (onLossWindow h) s

/-- BOND_END (R69). -/
def execBondEnd (src n : Byte) (continuity : Continuity) (deformation : Nat) (s : State) : Out :=
  act (fieldArrive (eventFrame src 0x11 [] (.headEvt (.bondEnd n continuity deformation)))) s

/-- WIRE_DONE (R71, R73). -/
def execWireDone (src n : Byte) (s : State) : Out :=
  act (fieldArrive (eventFrame src 0x11 [] (.headEvt (.wireDone n)))) s

/-- ABORTED (R76). -/
def execAborted (src n : Byte) (s : State) : Out :=
  act (fieldArrive (eventFrame src 0x11 [] (.headEvt (.aborted n)))) s

/-- MOTION_FAULT (R75, R76). -/
def execMotionFault (src : Byte) (s : State) : Out :=
  act (fieldArrive (eventFrame src 0x11 [] (.headEvt .motionFault))) s

/-- HEAD_DEADLINE_EXPIRY (R75). -/
def execHeadDeadlineExpiry (h : Head) (s : State) : Out :=
  act (onDeadline h) s

/-- PULL_REQ (R120, R121). -/
def execPullReq (s : State) : Out :=
  act onPullReq s

/-- PULL_RESULT (R122). -/
def execPullResult (src tag : Byte) (force mode : Nat) (status : StationStatus) (s : State) : Out :=
  act (fieldArrive (eventFrame src 0x21 [] (.pullResult tag force mode status))) s

/-- PULL_REQUEST_TIMEOUT (R123). -/
def execPullRequestTimeout (s : State) : Out :=
  act onPullTimeout s

/-- SCREEN_KEY (R159). -/
def execScreenKey (src : Byte) (key tile : Nat) (tag : BitVec 16) (s : State) : Out :=
  act (fieldArrive (eventFrame src 0x2A [] (.screenKey key tile tag))) s

end Sys2Proof.Machine
end

