-- ==== Sys2Proof/Machine/CommandsLines.lean ====
section
/-! DEFINITION. The meanings of FULL_RESET, the E-stop line, time, and the frames of the two ports, one definition for each command. -/

namespace Sys2Proof.Machine

/-- FULL_RESET (R176). -/
def execFullReset (cause : FullCause) (s : State) : Out :=
  .next (fullReset cause s)

/-- ESTOP_ASSERT (R175) (DESIGN CHOICE, log entry 26). -/
def execEstopAssert (s : State) : Out :=
  if s.ccs.inReset then .next { s with ccs := { s.ccs with estop := true } }
  else .next (finish (if s.ccs.estop then s else assertEstop s))

/-- ESTOP_RELEASE (R175) (DESIGN CHOICE, log entry 26). -/
def execEstopRelease (s : State) : Out :=
  if s.ccs.inReset then .next { s with ccs := { s.ccs with estop := false } }
  else .next (finish (if s.ccs.estop then releaseEstop s else s))

/-- MILLISECOND_TICK (R176, R24). -/
def execMillisecondTick (s : State) : Out :=
  act (fun s => countDwell { s with ccs := { s.ccs with timebase := s.ccs.timebase + 1 } }) s

/-- DWELL_COMPLETE (R24). -/
def execDwellComplete (s : State) : Out :=
  act dwellCheck s

/-- F_PORT_FRAME (R162, R165). -/
def execFPortFrame (f : RxFrame) (s : State) : Out :=
  act (onFPort f) s

/-- U_PORT_FRAME (R162, R166). -/
def execUPortFrame (f : RxFrame) (s : State) : Out :=
  act (onUPort f) s

/-- F_PORT_FRAME_SENT (R168, R157). -/
def execFPortFrameSent (s : State) : Out :=
  act onFSent s

/-- U_PORT_FRAME_SENT (R168). -/
def execUPortFrameSent (s : State) : Out :=
  act onUSent s

/-- TILE_INTERVAL_EXPIRY (R157). -/
def execTileIntervalExpiry (t : Term) (s : State) : Out :=
  act (makeFrame t) s

/-- MREQ (R169). -/
def execMreq (f : MreqFrame) (s : State) : Out :=
  act (onMreq f) s

/-- RESTART (R176). -/
def execRestart (tag : Byte) (s : State) : Out :=
  if s.ccs.inReset then .next s else .next (onRestart tag s)

/-- RESET_LINE_ASSERTED (R176). -/
def execResetLineAsserted (s : State) : Out :=
  .next (assertReset s)

end Sys2Proof.Machine
end

