-- ==== Sys2Proof/Machine/CommandsManage.lean ====
section
/-! DEFINITION. The meanings of the other management operations, one definition for each command. -/

namespace Sys2Proof.Machine

/-- The wire that a STRIP_OP names. -/
def wireRef (seq unit wire : Nat) : WireRef := { seq := seq, unit := unit, wire := wire }

/-- CELL_CMD_ARM (R174). -/
def execCellCmdArm (tag : Byte) (s : State) : Out :=
  act (serve tag (.cellCmd .arm) onArm) s

/-- CELL_CMD_START (R174). -/
def execCellCmdStart (tag : Byte) (s : State) : Out :=
  act (serve tag (.cellCmd .start) onStart) s

/-- CELL_CMD_DRAIN (R174). -/
def execCellCmdDrain (tag : Byte) (s : State) : Out :=
  act (serve tag (.cellCmd .drain) onDrain) s

/-- CELL_CMD_PAUSE (R174). -/
def execCellCmdPause (tag : Byte) (s : State) : Out :=
  act (serve tag (.cellCmd .pause) onPause) s

/-- CELL_CMD_RESUME (R174). -/
def execCellCmdResume (tag : Byte) (s : State) : Out :=
  act (serve tag (.cellCmd .resume) onResume) s

/-- CELL_CMD_STOP (R174). -/
def execCellCmdStop (tag : Byte) (s : State) : Out :=
  act (serve tag (.cellCmd .stop) onStop) s

/-- HEAD_OP_ENABLE (R64). -/
def execHeadOpEnable (tag : Byte) (h : Option Head) (s : State) : Out :=
  act (serve tag (.headOp .enable h) (onHeadOp .enable h)) s

/-- HEAD_OP_DISABLE (R65). -/
def execHeadOpDisable (tag : Byte) (h : Option Head) (s : State) : Out :=
  act (serve tag (.headOp .disable h) (onHeadOp .disable h)) s

/-- HEAD_OP_PAUSE (R66). -/
def execHeadOpPause (tag : Byte) (h : Option Head) (s : State) : Out :=
  act (serve tag (.headOp .pause h) (onHeadOp .pause h)) s

/-- HEAD_OP_RESUME (R66). -/
def execHeadOpResume (tag : Byte) (h : Option Head) (s : State) : Out :=
  act (serve tag (.headOp .resume h) (onHeadOp .resume h)) s

/-- HEAD_OP_CLEAR_FAULT (R77). -/
def execHeadOpClearFault (tag : Byte) (h : Option Head) (s : State) : Out :=
  act (serve tag (.headOp .clearFault h) (onHeadOp .clearFault h)) s

/-- STRIP_OP_ACCEPT_ID (R14). -/
def execStripOpAcceptId (tag : Byte) (seq : Nat) (s : State) : Out :=
  act (serve tag (.stripOp (.acceptId seq)) (onAcceptId seq)) s

/-- STRIP_OP_SCRAP (R33). -/
def execStripOpScrap (tag : Byte) (seq : Nat) (s : State) : Out :=
  act (serve tag (.stripOp (.scrap seq)) (onScrap seq)) s

/-- STRIP_OP_SKIP_UNIT (R55). -/
def execStripOpSkipUnit (tag : Byte) (seq unit : Nat) (s : State) : Out :=
  act (serve tag (.stripOp (.skipUnit seq unit)) (onSkipUnit seq unit)) s

/-- STRIP_OP_NSB_RESUME (R74). -/
def execStripOpNsbResume (tag : Byte) (seq unit wire : Nat) (s : State) : Out :=
  act (serve tag (.stripOp (.nsbResume seq unit wire)) (onNsbResume (wireRef seq unit wire))) s

/-- STRIP_OP_REBOND_WIRE (R74, R106). -/
def execStripOpRebondWire (tag : Byte) (seq unit wire : Nat) (s : State) : Out :=
  act (serve tag (.stripOp (.rebondWire seq unit wire)) (onRebondWire (wireRef seq unit wire))) s

/-- STRIP_OP_WAIVE_WIRE (R74, R105). -/
def execStripOpWaiveWire (tag : Byte) (seq unit wire : Nat) (s : State) : Out :=
  act (serve tag (.stripOp (.waiveWire seq unit wire)) (onWaiveWire (wireRef seq unit wire))) s

/-- SLOT_OP_ACCEPT_SENSED (R6). -/
def execSlotOpAcceptSensed (tag : Byte) (slot : Nat) (s : State) : Out :=
  act (serve tag (.slotOp .acceptSensed slot) (onSlotOp .acceptSensed slot)) s

/-- SLOT_OP_SKIP_SLOT (R6). -/
def execSlotOpSkipSlot (tag : Byte) (slot : Nat) (s : State) : Out :=
  act (serve tag (.slotOp .skipSlot slot) (onSlotOp .skipSlot slot)) s

/-- PROGRAM_RELEASE (R135). -/
def execProgramRelease (tag : Byte) (p : Nat) (s : State) : Out :=
  act (serve tag (.programRelease p) (onProgramRelease p)) s

/-- PULL_ADD (R118). -/
def execPullAdd (tag : Byte) (seq unit wire : Nat) (s : State) : Out :=
  act (serve tag (.pullAdd seq unit wire) (onPullAdd seq unit wire)) s

/-- PULL_READ (R125). -/
def execPullRead (tag : Byte) (count : Nat) (s : State) : Out :=
  act (serve tag (.pullRead count) (onPullRead count)) s

/-- PULL_RELEASE (R126). -/
def execPullRelease (tag : Byte) (n : Nat) (s : State) : Out :=
  act (serve tag (.pullRelease n) (onPullRelease n)) s

/-- STATS_READ (R131). -/
def execStatsRead (tag : Byte) (p : Nat) (s : State) : Out :=
  act (serve tag (.statsRead p) (onStatsRead p)) s

/-- STATS_RESET (R130). -/
def execStatsReset (tag : Byte) (sel : StatsSel) (s : State) : Out :=
  act (serve tag (.statsReset sel) (onStatsReset sel)) s

/-- ALARM_READ (R147). -/
def execAlarmRead (tag : Byte) (first count : Nat) (s : State) : Out :=
  act (serve tag (.alarmRead first count) (onAlarmRead first count)) s

/-- ALARM_ACK (R144). -/
def execAlarmAck (tag : Byte) (code : Option AlarmCode) (scope : Option AlarmScope) (s : State) : Out :=
  act (serve tag (.alarmAck code scope) (onAlarmAck code scope)) s

/-- STATUS_READ (R172). -/
def execStatusRead (tag : Byte) (section_ : Nat) (s : State) : Out :=
  act (serve tag (.statusRead section_) (onStatusRead section_)) s

/-- COUNTERS_CLEAR (R172). -/
def execCountersClear (tag : Byte) (s : State) : Out :=
  act (serve tag .countersClear onCountersClear) s

end Sys2Proof.Machine
end

