-- ==== Sys2Proof/Machine/CommandsTables.lean ====
section
/-! DEFINITION. The meanings of TABLE_WRITE and TABLE_READ, one definition for each command. -/

namespace Sys2Proof.Machine

/-- TABLE_WRITE_FORWARDING (R164, R161). -/
def execTableWriteForwarding (tag : Byte) (first count : Nat) (entries : List ForwardingWrite) (s : State) : Out :=
  act (serve tag (.tableWrite (.forwarding first count entries)) (writeForwarding first count entries)) s

/-- TABLE_WRITE_KIND (R163). -/
def execTableWriteKind (tag : Byte) (first count : Nat) (entries : List (Option KindAction)) (s : State) : Out :=
  act (serve tag (.tableWrite (.kind first count entries)) (writeKind first count entries)) s

/-- TABLE_WRITE_CELL_PARAMETER (R171). -/
def execTableWriteCellParameter (tag : Byte) (first count : Nat) (entries : List ParamValue) (s : State) : Out :=
  act (serve tag (.tableWrite (.cellParameter first count entries)) (writeCellParameter first count entries)) s

/-- TABLE_WRITE_LOT (R2). -/
def execTableWriteLot (tag : Byte) (first count : Nat) (entries : List LotWrite) (s : State) : Out :=
  act (serve tag (.tableWrite (.lot first count entries)) (writeLot first count entries)) s

/-- TABLE_WRITE_PROGRAM (R42). -/
def execTableWriteProgram (tag : Byte) (first count : Nat) (entries : List ProgramEntry) (s : State) : Out :=
  act (serve tag (.tableWrite (.program first count entries)) (writeProgram first count entries)) s

/-- TABLE_WRITE_WIRE (R43). -/
def execTableWriteWire (tag : Byte) (first count : Nat) (entries : List WireEntry) (s : State) : Out :=
  act (serve tag (.tableWrite (.wire first count entries)) (writeWire first count entries)) s

/-- TABLE_WRITE_RECIPE (R80). -/
def execTableWriteRecipe (tag : Byte) (first count : Nat) (entries : List RecipeEntry) (s : State) : Out :=
  act (serve tag (.tableWrite (.recipe first count entries)) (writeRecipe first count entries)) s

/-- TABLE_WRITE_PLAN (R113). -/
def execTableWritePlan (tag : Byte) (first count : Nat) (entries : List PlanEntry) (s : State) : Out :=
  act (serve tag (.tableWrite (.plan first count entries)) (writePlan first count entries)) s

/-- TABLE_WRITE_LIMITS (R114). -/
def execTableWriteLimits (tag : Byte) (first count : Nat) (entries : List LimitsEntry) (s : State) : Out :=
  act (serve tag (.tableWrite (.limits first count entries)) (writeLimits first count entries)) s

/-- TABLE_WRITE_TERMINAL (R150). -/
def execTableWriteTerminal (tag : Byte) (first count : Nat) (entries : List (Option Level)) (s : State) : Out :=
  act (serve tag (.tableWrite (.terminal first count entries)) (writeTerminal first count entries)) s

/-- TABLE_WRITE_PAGE (R151). -/
def execTableWritePage (tag : Byte) (first count : Nat) (entries : List PageEntry) (s : State) : Out :=
  act (serve tag (.tableWrite (.page first count entries)) (writePage first count entries)) s

/-- TABLE_WRITE_TILE (R151). -/
def execTableWriteTile (tag : Byte) (first count : Nat) (entries : List TileEntry) (s : State) : Out :=
  act (serve tag (.tableWrite (.tile first count entries)) (writeTile first count entries)) s

/-- TABLE_WRITE_KEY_MAP (R152). -/
def execTableWriteKeyMap (tag : Byte) (first count : Nat) (entries : List KeyEntry) (s : State) : Out :=
  act (serve tag (.tableWrite (.keyMap first count entries)) (writeKeyMap first count entries)) s

/-- TABLE_WRITE_UNIT (R48, R170). -/
def execTableWriteUnit (tag : Byte) (first count : Nat) (s : State) : Out :=
  act (serve tag (.tableWrite (.unit first count)) writeReadOnly) s

/-- TABLE_WRITE_CANDIDATE (R116, R170). -/
def execTableWriteCandidate (tag : Byte) (first count : Nat) (s : State) : Out :=
  act (serve tag (.tableWrite (.candidate first count)) writeReadOnly) s

/-- TABLE_READ_FORWARDING (R164). -/
def execTableReadForwarding (tag : Byte) (first count : Nat) (s : State) : Out :=
  act (serve tag (.tableRead .forwarding none first count) (readForwarding first count)) s

/-- TABLE_READ_KIND (R163). -/
def execTableReadKind (tag : Byte) (first count : Nat) (s : State) : Out :=
  act (serve tag (.tableRead .kind none first count) (readKind first count)) s

/-- TABLE_READ_CELL_PARAMETER (R171). -/
def execTableReadCellParameter (tag : Byte) (first count : Nat) (s : State) : Out :=
  act (serve tag (.tableRead .cellParameter none first count) (readCellParameter first count)) s

/-- TABLE_READ_LOT (R2). -/
def execTableReadLot (tag : Byte) (first count : Nat) (s : State) : Out :=
  act (serve tag (.tableRead .lot none first count) (readLot first count)) s

/-- TABLE_READ_PROGRAM (R45). -/
def execTableReadProgram (tag : Byte) (first count : Nat) (s : State) : Out :=
  act (serve tag (.tableRead .program none first count) (readProgram first count)) s

/-- TABLE_READ_WIRE (R45). -/
def execTableReadWire (tag : Byte) (first count : Nat) (s : State) : Out :=
  act (serve tag (.tableRead .wire none first count) (readWire first count)) s

/-- TABLE_READ_RECIPE (R81). -/
def execTableReadRecipe (tag : Byte) (first count : Nat) (s : State) : Out :=
  act (serve tag (.tableRead .recipe none first count) (readRecipe first count)) s

/-- TABLE_READ_UNIT (R48). -/
def execTableReadUnit (tag : Byte) (first count : Nat) (s : State) : Out :=
  act (serve tag (.tableRead .unit none first count) (readUnit first count)) s

/-- TABLE_READ_CANDIDATE (R116). -/
def execTableReadCandidate (tag : Byte) (position : Position) (first count : Nat) (s : State) : Out :=
  act (serve tag (.tableRead .candidate (some position) first count) (readCandidate position first count)) s

/-- TABLE_READ_PLAN (R113). -/
def execTableReadPlan (tag : Byte) (first count : Nat) (s : State) : Out :=
  act (serve tag (.tableRead .plan none first count) (readPlan first count)) s

/-- TABLE_READ_LIMITS (R114). -/
def execTableReadLimits (tag : Byte) (first count : Nat) (s : State) : Out :=
  act (serve tag (.tableRead .limits none first count) (readLimits first count)) s

/-- TABLE_READ_TERMINAL (R150). -/
def execTableReadTerminal (tag : Byte) (first count : Nat) (s : State) : Out :=
  act (serve tag (.tableRead .terminal none first count) (readTerminal first count)) s

/-- TABLE_READ_PAGE (R151). -/
def execTableReadPage (tag : Byte) (first count : Nat) (s : State) : Out :=
  act (serve tag (.tableRead .page none first count) (readPage first count)) s

/-- TABLE_READ_TILE (R151). -/
def execTableReadTile (tag : Byte) (first count : Nat) (s : State) : Out :=
  act (serve tag (.tableRead .tile none first count) (readTile first count)) s

/-- TABLE_READ_KEY_MAP (R152). -/
def execTableReadKeyMap (tag : Byte) (first count : Nat) (s : State) : Out :=
  act (serve tag (.tableRead .keyMap none first count) (readKeyMap first count)) s

end Sys2Proof.Machine
end

