-- ==== Sys2Proof/Machine/Dispatch.lean ====
section
/-! DEFINITION. What each command does to everything but the queue of waiting commands: one arm per command. -/

namespace Sys2Proof.Machine

def exec (i : Instr) (s : State) : Host.Outcome State Fault Refusal :=
  match i with
  | .fullReset cause => Sys2Proof.Machine.execFullReset cause s
  | .estopAssert => Sys2Proof.Machine.execEstopAssert s
  | .estopRelease => Sys2Proof.Machine.execEstopRelease s
  | .millisecondTick => Sys2Proof.Machine.execMillisecondTick s
  | .dwellComplete => Sys2Proof.Machine.execDwellComplete s
  | .fPortFrame f => Sys2Proof.Machine.execFPortFrame f s
  | .uPortFrame f => Sys2Proof.Machine.execUPortFrame f s
  | .fPortFrameSent => Sys2Proof.Machine.execFPortFrameSent s
  | .uPortFrameSent => Sys2Proof.Machine.execUPortFrameSent s
  | .tileIntervalExpiry t => Sys2Proof.Machine.execTileIntervalExpiry t s
  | .mreq f => Sys2Proof.Machine.execMreq f s
  | .tableWriteForwarding tag first count entries => Sys2Proof.Machine.execTableWriteForwarding tag first count entries s
  | .tableWriteKind tag first count entries => Sys2Proof.Machine.execTableWriteKind tag first count entries s
  | .tableWriteCellParameter tag first count entries => Sys2Proof.Machine.execTableWriteCellParameter tag first count entries s
  | .tableWriteLot tag first count entries => Sys2Proof.Machine.execTableWriteLot tag first count entries s
  | .tableWriteProgram tag first count entries => Sys2Proof.Machine.execTableWriteProgram tag first count entries s
  | .tableWriteWire tag first count entries => Sys2Proof.Machine.execTableWriteWire tag first count entries s
  | .tableWriteRecipe tag first count entries => Sys2Proof.Machine.execTableWriteRecipe tag first count entries s
  | .tableWritePlan tag first count entries => Sys2Proof.Machine.execTableWritePlan tag first count entries s
  | .tableWriteLimits tag first count entries => Sys2Proof.Machine.execTableWriteLimits tag first count entries s
  | .tableWriteTerminal tag first count entries => Sys2Proof.Machine.execTableWriteTerminal tag first count entries s
  | .tableWritePage tag first count entries => Sys2Proof.Machine.execTableWritePage tag first count entries s
  | .tableWriteTile tag first count entries => Sys2Proof.Machine.execTableWriteTile tag first count entries s
  | .tableWriteKeyMap tag first count entries => Sys2Proof.Machine.execTableWriteKeyMap tag first count entries s
  | .tableWriteUnit tag first count => Sys2Proof.Machine.execTableWriteUnit tag first count s
  | .tableWriteCandidate tag first count => Sys2Proof.Machine.execTableWriteCandidate tag first count s
  | .tableReadForwarding tag first count => Sys2Proof.Machine.execTableReadForwarding tag first count s
  | .tableReadKind tag first count => Sys2Proof.Machine.execTableReadKind tag first count s
  | .tableReadCellParameter tag first count => Sys2Proof.Machine.execTableReadCellParameter tag first count s
  | .tableReadLot tag first count => Sys2Proof.Machine.execTableReadLot tag first count s
  | .tableReadProgram tag first count => Sys2Proof.Machine.execTableReadProgram tag first count s
  | .tableReadWire tag first count => Sys2Proof.Machine.execTableReadWire tag first count s
  | .tableReadRecipe tag first count => Sys2Proof.Machine.execTableReadRecipe tag first count s
  | .tableReadUnit tag first count => Sys2Proof.Machine.execTableReadUnit tag first count s
  | .tableReadCandidate tag position first count => Sys2Proof.Machine.execTableReadCandidate tag position first count s
  | .tableReadPlan tag first count => Sys2Proof.Machine.execTableReadPlan tag first count s
  | .tableReadLimits tag first count => Sys2Proof.Machine.execTableReadLimits tag first count s
  | .tableReadTerminal tag first count => Sys2Proof.Machine.execTableReadTerminal tag first count s
  | .tableReadPage tag first count => Sys2Proof.Machine.execTableReadPage tag first count s
  | .tableReadTile tag first count => Sys2Proof.Machine.execTableReadTile tag first count s
  | .tableReadKeyMap tag first count => Sys2Proof.Machine.execTableReadKeyMap tag first count s
  | .cellCmdArm tag => Sys2Proof.Machine.execCellCmdArm tag s
  | .cellCmdStart tag => Sys2Proof.Machine.execCellCmdStart tag s
  | .cellCmdDrain tag => Sys2Proof.Machine.execCellCmdDrain tag s
  | .cellCmdPause tag => Sys2Proof.Machine.execCellCmdPause tag s
  | .cellCmdResume tag => Sys2Proof.Machine.execCellCmdResume tag s
  | .cellCmdStop tag => Sys2Proof.Machine.execCellCmdStop tag s
  | .headOpEnable tag h => Sys2Proof.Machine.execHeadOpEnable tag h s
  | .headOpDisable tag h => Sys2Proof.Machine.execHeadOpDisable tag h s
  | .headOpPause tag h => Sys2Proof.Machine.execHeadOpPause tag h s
  | .headOpResume tag h => Sys2Proof.Machine.execHeadOpResume tag h s
  | .headOpClearFault tag h => Sys2Proof.Machine.execHeadOpClearFault tag h s
  | .stripOpAcceptId tag seq => Sys2Proof.Machine.execStripOpAcceptId tag seq s
  | .stripOpScrap tag seq => Sys2Proof.Machine.execStripOpScrap tag seq s
  | .stripOpSkipUnit tag seq unit => Sys2Proof.Machine.execStripOpSkipUnit tag seq unit s
  | .stripOpNsbResume tag seq unit wire => Sys2Proof.Machine.execStripOpNsbResume tag seq unit wire s
  | .stripOpRebondWire tag seq unit wire => Sys2Proof.Machine.execStripOpRebondWire tag seq unit wire s
  | .stripOpWaiveWire tag seq unit wire => Sys2Proof.Machine.execStripOpWaiveWire tag seq unit wire s
  | .slotOpAcceptSensed tag slot => Sys2Proof.Machine.execSlotOpAcceptSensed tag slot s
  | .slotOpSkipSlot tag slot => Sys2Proof.Machine.execSlotOpSkipSlot tag slot s
  | .programRelease tag p => Sys2Proof.Machine.execProgramRelease tag p s
  | .pullAdd tag seq unit wire => Sys2Proof.Machine.execPullAdd tag seq unit wire s
  | .pullRead tag count => Sys2Proof.Machine.execPullRead tag count s
  | .pullRelease tag n => Sys2Proof.Machine.execPullRelease tag n s
  | .statsRead tag p => Sys2Proof.Machine.execStatsRead tag p s
  | .statsReset tag sel => Sys2Proof.Machine.execStatsReset tag sel s
  | .alarmRead tag first count => Sys2Proof.Machine.execAlarmRead tag first count s
  | .alarmAck tag code scope => Sys2Proof.Machine.execAlarmAck tag code scope s
  | .statusRead tag section_ => Sys2Proof.Machine.execStatusRead tag section_ s
  | .countersClear tag => Sys2Proof.Machine.execCountersClear tag s
  | .restart tag => Sys2Proof.Machine.execRestart tag s
  | .magIn src sensed => Sys2Proof.Machine.execMagIn src sensed s
  | .magOut src => Sys2Proof.Machine.execMagOut src s
  | .stripIn src code => Sys2Proof.Machine.execStripIn src code s
  | .feedFault src => Sys2Proof.Machine.execFeedFault src s
  | .pushTimeout => Sys2Proof.Machine.execPushTimeout s
  | .outputMagIn src sensed => Sys2Proof.Machine.execOutputMagIn src sensed s
  | .outputMagOut src => Sys2Proof.Machine.execOutputMagOut src s
  | .pushGrant => Sys2Proof.Machine.execPushGrant s
  | .movePbGrant => Sys2Proof.Machine.execMovePbGrant s
  | .moveBpGrant => Sys2Proof.Machine.execMoveBpGrant s
  | .ejectGrant => Sys2Proof.Machine.execEjectGrant s
  | .moveDone src origin n => Sys2Proof.Machine.execMoveDone src origin n s
  | .trackFault src origin n => Sys2Proof.Machine.execTrackFault src origin n s
  | .moveTimeout => Sys2Proof.Machine.execMoveTimeout s
  | .ejected src slot => Sys2Proof.Machine.execEjected src slot s
  | .outputFeedFault src => Sys2Proof.Machine.execOutputFeedFault src s
  | .heatSample src temperature => Sys2Proof.Machine.execHeatSample src temperature s
  | .heatSignalTimerExpiry => Sys2Proof.Machine.execHeatSignalTimerExpiry s
  | .touchdown src n => Sys2Proof.Machine.execTouchdown src n s
  | .usSample src feedback seq generatorFault => Sys2Proof.Machine.execUsSample src feedback seq generatorFault s
  | .startupTimeout h => Sys2Proof.Machine.execStartupTimeout h s
  | .lossWindowExpiry h => Sys2Proof.Machine.execLossWindowExpiry h s
  | .bondEnd src n continuity deformation => Sys2Proof.Machine.execBondEnd src n continuity deformation s
  | .wireDone src n => Sys2Proof.Machine.execWireDone src n s
  | .aborted src n => Sys2Proof.Machine.execAborted src n s
  | .motionFault src => Sys2Proof.Machine.execMotionFault src s
  | .headDeadlineExpiry h => Sys2Proof.Machine.execHeadDeadlineExpiry h s
  | .pullReq => Sys2Proof.Machine.execPullReq s
  | .pullResult src tag force mode status => Sys2Proof.Machine.execPullResult src tag force mode status s
  | .pullRequestTimeout => Sys2Proof.Machine.execPullRequestTimeout s
  | .screenKey src key tile tag => Sys2Proof.Machine.execScreenKey src key tile tag s
  | .resetLineAsserted => Sys2Proof.Machine.execResetLineAsserted s

end Sys2Proof.Machine
end

