-- ==== Sys2Proof/Machine/Step.lean ====
section
/-! DEFINITION. The step of the part: it takes the command at the front of the queue. -/

namespace Sys2Proof.Machine

/-- One step: the front command takes its effect on the state with the rest of the queue. With no command waiting the part idles
(DESIGN CHOICE, log entry 1). -/
def step (s : State) : Host.Outcome State Fault Refusal :=
  match s.pending with
  | [] => .next s
  | c :: rest => exec c { s with pending := rest }

/-- The command that a word spells is put at the front of the queue. -/
def State.withFetchWord (s : State) (nbits w : Nat) : State :=
  match decodeTableWord nbits w with
  | some c => { s with pending := c :: s.pending }
  | none => s

end Sys2Proof.Machine
end

