-- ==== Sys2Proof/Safety.lean ====
section
/-! DEFINITION. The terms of the claims: the frames that wait at each port, what the closing of a step may change, how a request
is answered, and the laws that every state of a run keeps. -/

namespace Sys2Proof.Machine

/-! ### Frames on their way out (R168)

A line is the frame being sent, if it is of that source, followed by the frames of that source that wait. Taking the next frame
into a free transmitter leaves every line as it is. -/

/-- The replies on their way out. -/
def State.replyLine (s : State) : List Mrep :=
  (match s.lif.uTx with
   | some (.reply m) => [m]
   | _ => []) ++ s.lif.replies.map (·.2)

/-- The notices on their way out (R173). -/
def State.noticeLine (s : State) : List NoticeFrame :=
  (match s.lif.uTx with
   | some (.notice n) => [n]
   | _ => []) ++ s.lif.notices.map (·.2)

/-- The notice queue with its DROPPED count, the pending mark and the next stamp (R173). -/
def State.noticeQueue (s : State) : List (Nat × NoticeFrame) × Nat × Bool × Nat :=
  (s.lif.notices, s.lif.dropped, s.lif.droppedMark, s.lif.stamp)

/-- The frames forwarded up that are on their way out (R167). -/
def State.upLine (s : State) : List LinkFrame :=
  (match s.lif.uTx with
   | some (.forwarded f) => [f]
   | _ => []) ++ s.lif.fuQueue.map (·.2)

/-- The drive frames on their way out. -/
def State.driveLine (s : State) : List DriveFrame :=
  (match s.lif.fTx with
   | some (.drive d) => [d]
   | _ => []) ++ s.lif.drives

/-- The part's other own frames on their way out. -/
def State.ownLine (s : State) : List OwnFrame :=
  (match s.lif.fTx with
   | some (.own o) => [o]
   | _ => []) ++ s.lif.own

/-- The frames forwarded down that are on their way out (R167). -/
def State.downLine (s : State) : List LinkFrame :=
  (match s.lif.fTx with
   | some (.forwarded f) => [f]
   | _ => []) ++ s.lif.ufQueue

/-- A SCREEN_PUT or a SCREEN_PAGE. -/
def OwnBody.isScreen : OwnBody → Bool
  | .screenPage _ | .screenTile _ _ _ _ _ _ | .screenMessage _ => true
  | .headCmd _ _ | .feedPush _ | .feedEject _ | .trackMove _ _ | .pullReq _ _ _ _ _ => false

/-! ### The closing of a step

Every step ends with the refresh of the tiles, the making of screen frames and the start of free transmitters (R156, R157,
R168). `Settles x t` says that `t` is `x` but for that: what a command does to the part stands in `x`, and the terminals, the
shown flags and the screen frames of `t` are those that `makeFrames` makes of it. -/

/-- An entry is as it was, or has had its shown flag set (R143). -/
def AlarmEntry.shownFrom (e e' : AlarmEntry) : Prop := e' = e ∨ e' = { e with shown := true }

/-- A terminal entry keeps its level, page and message (R150). -/
def TermState.sameFace (a b : TermState) : Prop := b.level = a.level ∧ b.page = a.page ∧ b.message = a.message

/-- `t` is `x`, but for what the terminals have been or are to be sent, shown flags, screen frames added to those on their way out,
replies and requests. -/
structure Keeps (x t : State) : Prop where
  ccs : t.ccs = x.ccs
  fdc : t.fdc = x.fdc
  trc : t.trc = x.trc
  usc : t.usc = x.usc
  heads : t.heads = x.heads
  channels : t.channels = x.channels
  recipes : t.recipes = x.recipes
  vcu : t.vcu = x.vcu
  plm : t.plm = x.plm
  free : t.free = x.free
  pending : t.pending = x.pending
  unlisted : t.alc.unlisted = x.alc.unlisted
  alarms : List.Forall₂ AlarmEntry.shownFrom x.alc.list t.alc.list
  pages : t.tmc.pages = x.tmc.pages
  tiles : t.tmc.tiles = x.tmc.tiles
  keys : t.tmc.keys = x.tmc.keys
  terms : ∀ k, (x.term k).sameFace (t.term k)
  forwarding : t.lif.forwarding = x.lif.forwarding
  kinds : t.lif.kinds = x.lif.kinds
  uCounts : t.lif.uCounts = x.lif.uCounts
  fCounts : t.lif.fCounts = x.lif.fCounts
  gathering : t.lif.gathering = x.lif.gathering
  dropped : t.lif.dropped = x.lif.dropped
  droppedMark : t.lif.droppedMark = x.lif.droppedMark
  noticeLine : t.noticeLine = x.noticeLine
  upLine : t.upLine = x.upLine
  driveLine : t.driveLine = x.driveLine
  downLine : t.downLine = x.downLine
  ownLine : ∃ l, t.ownLine = x.ownLine ++ l ∧ ∀ o ∈ l, o.body.isScreen = true

/-- `t` is `x` after the closing of a step, replies and requests apart. The terminals, the alarms and the part's other own frames are
those of `makeFrames x`; the F-port transmitter, if it was free, has taken the next frame, unless the OK reply of a RESTART has not
been sent (R156, R157, R168, R176). -/
structure Settles (x t : State) : Prop extends Keeps x t where
  terminals : t.tmc = (makeFrames x).tmc
  shown : t.alc = (makeFrames x).alc
  screens : t.ownLine = (makeFrames x).ownLine
  fHolds : x.lif.fTx ≠ none ∨ x.lif.restartUnsent = true → t.lif.fTx = x.lif.fTx
  uHolds : x.lif.uTx ≠ none → t.lif.uTx = x.lif.uTx
  fSends : x.lif.fTx = none → t.lif.restartUnsent = false → t.lif.fTx = (pickF (makeFrames x).lif).fTx

/-- `t` is `x` after the closing of a step; the U-port transmitter, if it was free, has taken the next frame. -/
structure Closes (x t : State) : Prop extends Settles x t where
  replyLine : t.replyLine = x.replyLine
  requests : t.lif.requests = x.lif.requests
  uSends : x.lif.uTx = none → t.lif.uTx = (pickU x.lif).uTx

/-- What LIF answers itself of the waiting requests, oldest first, with room for so many frames: its replies, and the requests that go
on waiting (R169, R170). -/
def lifReplies : Nat → List (Byte × Request) → List Mrep × List (Byte × Request)
  | n + 1, (tag, r) :: rest =>
    match lifAnswer r with
    | some c =>
      let x := lifReplies n rest
      ({ tag := tag, part := 0, last := true, op := opNumber r, answer := { result := c } } :: x.1, x.2)
    | none => ([], (tag, r) :: rest)
  | _, l => ([], l)

/-- What LIF goes on to answer after a reply of `n` frames: it takes no more requests than its queue holds, and only while the reply
list has room (R168, R169). -/
def State.lifGoesOn (x : State) (n : Nat) : List Mrep × List (Byte × Request) :=
  lifReplies (min Config.requestRoom (Config.replyRoom - (x.lif.replies.length + n))) x.lif.requests

/-- `t` is `x` after a reply of these frames and the closing of a step. LIF goes on to answer the requests that have become the oldest
and are its own to answer (R169, R170). -/
structure Replied (x : State) (frames : List Mrep) (t : State) : Prop extends Settles x t where
  replyLine : t.replyLine = x.replyLine ++ frames ++ (x.lifGoesOn frames.length).1
  requests : t.lif.requests = (x.lifGoesOn frames.length).2

/-! ### The taking of a request (R169) -/

/-- The request that a management command carries, with its tag (R169). RESTART, which has a rule of its own (R176), is left out. -/
def carries : Instr → Option (Byte × Request)
  | .cellCmdArm tag => some (tag, .cellCmd .arm)
  | .cellCmdStart tag => some (tag, .cellCmd .start)
  | .cellCmdDrain tag => some (tag, .cellCmd .drain)
  | .cellCmdPause tag => some (tag, .cellCmd .pause)
  | .cellCmdResume tag => some (tag, .cellCmd .resume)
  | .cellCmdStop tag => some (tag, .cellCmd .stop)
  | .headOpEnable tag h => some (tag, .headOp .enable h)
  | .headOpDisable tag h => some (tag, .headOp .disable h)
  | .headOpPause tag h => some (tag, .headOp .pause h)
  | .headOpResume tag h => some (tag, .headOp .resume h)
  | .headOpClearFault tag h => some (tag, .headOp .clearFault h)
  | .stripOpAcceptId tag seq => some (tag, .stripOp (.acceptId seq))
  | .stripOpScrap tag seq => some (tag, .stripOp (.scrap seq))
  | .stripOpSkipUnit tag seq unit => some (tag, .stripOp (.skipUnit seq unit))
  | .stripOpNsbResume tag seq unit wire => some (tag, .stripOp (.nsbResume seq unit wire))
  | .stripOpRebondWire tag seq unit wire => some (tag, .stripOp (.rebondWire seq unit wire))
  | .stripOpWaiveWire tag seq unit wire => some (tag, .stripOp (.waiveWire seq unit wire))
  | .slotOpAcceptSensed tag slot => some (tag, .slotOp .acceptSensed slot)
  | .slotOpSkipSlot tag slot => some (tag, .slotOp .skipSlot slot)
  | .programRelease tag p => some (tag, .programRelease p)
  | .pullAdd tag seq unit wire => some (tag, .pullAdd seq unit wire)
  | .pullRead tag count => some (tag, .pullRead count)
  | .pullRelease tag n => some (tag, .pullRelease n)
  | .statsRead tag p => some (tag, .statsRead p)
  | .statsReset tag sel => some (tag, .statsReset sel)
  | .alarmRead tag first count => some (tag, .alarmRead first count)
  | .alarmAck tag code scope => some (tag, .alarmAck code scope)
  | .statusRead tag section_ => some (tag, .statusRead section_)
  | .countersClear tag => some (tag, .countersClear)
  | .tableWriteForwarding tag first count entries => some (tag, .tableWrite (.forwarding first count entries))
  | .tableWriteKind tag first count entries => some (tag, .tableWrite (.kind first count entries))
  | .tableWriteCellParameter tag first count entries => some (tag, .tableWrite (.cellParameter first count entries))
  | .tableWriteLot tag first count entries => some (tag, .tableWrite (.lot first count entries))
  | .tableWriteProgram tag first count entries => some (tag, .tableWrite (.program first count entries))
  | .tableWriteWire tag first count entries => some (tag, .tableWrite (.wire first count entries))
  | .tableWriteRecipe tag first count entries => some (tag, .tableWrite (.recipe first count entries))
  | .tableWritePlan tag first count entries => some (tag, .tableWrite (.plan first count entries))
  | .tableWriteLimits tag first count entries => some (tag, .tableWrite (.limits first count entries))
  | .tableWriteTerminal tag first count entries => some (tag, .tableWrite (.terminal first count entries))
  | .tableWritePage tag first count entries => some (tag, .tableWrite (.page first count entries))
  | .tableWriteTile tag first count entries => some (tag, .tableWrite (.tile first count entries))
  | .tableWriteKeyMap tag first count entries => some (tag, .tableWrite (.keyMap first count entries))
  | .tableWriteUnit tag first count => some (tag, .tableWrite (.unit first count))
  | .tableWriteCandidate tag first count => some (tag, .tableWrite (.candidate first count))
  | .tableReadForwarding tag first count => some (tag, .tableRead .forwarding none first count)
  | .tableReadKind tag first count => some (tag, .tableRead .kind none first count)
  | .tableReadCellParameter tag first count => some (tag, .tableRead .cellParameter none first count)
  | .tableReadLot tag first count => some (tag, .tableRead .lot none first count)
  | .tableReadProgram tag first count => some (tag, .tableRead .program none first count)
  | .tableReadWire tag first count => some (tag, .tableRead .wire none first count)
  | .tableReadRecipe tag first count => some (tag, .tableRead .recipe none first count)
  | .tableReadUnit tag first count => some (tag, .tableRead .unit none first count)
  | .tableReadCandidate tag position first count => some (tag, .tableRead .candidate (some position) first count)
  | .tableReadPlan tag first count => some (tag, .tableRead .plan none first count)
  | .tableReadLimits tag first count => some (tag, .tableRead .limits none first count)
  | .tableReadTerminal tag first count => some (tag, .tableRead .terminal none first count)
  | .tableReadPage tag first count => some (tag, .tableRead .page none first count)
  | .tableReadTile tag first count => some (tag, .tableRead .tile none first count)
  | .tableReadKeyMap tag first count => some (tag, .tableRead .keyMap none first count)
  | .fullReset _ | .estopAssert | .estopRelease | .millisecondTick | .dwellComplete | .fPortFrame _ | .uPortFrame _
  | .fPortFrameSent | .uPortFrameSent | .tileIntervalExpiry _ | .mreq _
  | .restart _ | .magIn _ _ | .magOut _ | .stripIn _ _ | .feedFault _ | .pushTimeout
  | .outputMagIn _ _ | .outputMagOut _ | .pushGrant | .movePbGrant | .moveBpGrant | .ejectGrant | .moveDone _ _ _
  | .trackFault _ _ _ | .moveTimeout | .ejected _ _ | .outputFeedFault _ | .heatSample _ _ | .heatSignalTimerExpiry
  | .touchdown _ _ | .usSample _ _ _ _ | .startupTimeout _ | .lossWindowExpiry _ | .bondEnd _ _ _ _ | .wireDone _ _
  | .aborted _ _ | .motionFault _ | .headDeadlineExpiry _ | .pullReq | .pullResult _ _ _ _ _ | .pullRequestTimeout
  | .screenKey _ _ _ _ | .resetLineAsserted => none

/-- The frames that the answer to a request takes. -/
def answerParts (r : Request) (a : Answer) : Nat := framesFor (3 + dataBytes (opNumber r) (sizeArg r) a.data)

/-- The frames of the answer to a request. -/
def answerFrames (tag : Byte) (r : Request) (a : Answer) : List Mrep := replyFrames tag (opNumber r) a (answerParts r a)

/-- A block can take this request now and answer it with `a`: the part is not in reset, the request is the oldest or none waits,
and the reply list has room for the answer. The block then finds the state `u`, which is `s` without the request. -/
def State.takes (s : State) (tag : Byte) (r : Request) (a : Answer) (u : State) : Prop :=
  s.ccs.inReset = false ∧ s.takeRequest tag r = some u ∧ s.replyRoom (answerParts r a) = true

/-- The command answers a next state, which is `x` after the reply `a` to this request. -/
def Answers (o : Out) (tag : Byte) (r : Request) (x : State) (a : Answer) : Prop :=
  ∃ t, o = .next t ∧ Replied x (answerFrames tag r a) t

/-- Command `c` carries request `r`. When a block can take the request now, and finds `u`, the command answers a next state, which
is `x` after a reply of this result and index, without data. -/
def Serves (c : Instr) (tag : Byte) (r : Request) (s u x : State) (result : ResultCode) (index : Nat := 0) : Prop :=
  s.takes tag r { result := .ok } u → Answers (exec c s) tag r x { result := result, index := index }

/-- The command answers a next state, which is `x` after the closing of a step. -/
def Ends (o : Out) (x : State) : Prop := ∃ t, o = .next t ∧ Closes x t

/-! ### Table operations (R170) -/

/-- What the check of a table says of the entry that a write from `first` on holds for index `i`. -/
def entryFault {α : Type} (first : Nat) (entries : List α) (check : Nat → α → Option ResultCode) (i : Nat) : Option ResultCode :=
  (entries[i - first]?).bind (check i)

/-- Command `c` carries the write `w` of `n` entries as indexes `first` on of a table whose indexes run from `lo` to `hi - 1`: it is
refused for its count, its content or its indexes, or for the first entry with a fault, which the reply names, and then stores
nothing; with no fault it leads to `x`. -/
def Writes (c : Instr) (tag : Byte) (w : TableWrite) (s u : State) (lo hi first count n : Nat) (fault : Nat → Option ResultCode)
    (x : State) : Prop :=
  (count = 0 → Serves c tag (.tableWrite w) s u u .badIndex) ∧
  (count ≠ 0 → n ≠ count → Serves c tag (.tableWrite w) s u u .badValue) ∧
  (count ≠ 0 → n = count → first < lo ∨ hi < first + count → Serves c tag (.tableWrite w) s u u .badIndex) ∧
  (count ≠ 0 → n = count → lo ≤ first → first + count ≤ hi →
    (∀ i code, first ≤ i → i < first + count → fault i = some code → (∀ j, first ≤ j → j < i → fault j = none) →
      Serves c tag (.tableWrite w) s u u code i) ∧
    ((∀ i, first ≤ i → i < first + count → fault i = none) → Serves c tag (.tableWrite w) s u x .ok))

/-- Command `c` carries the read `r` of entries `first` on of table `t`, whose indexes run from `lo` to `hi - 1`, and `d` is what
stands there. A reply takes at most 8 frames of 58 bytes, the first 3 of them its operation, result and index. -/
def Reads (c : Instr) (tag : Byte) (r : Request) (s u : State) (t : TableName) (lo hi first count : Nat) (d : ReplyData) : Prop :=
  (count = 0 ∨ first < lo ∨ hi < first + count → Serves c tag r s u u .badIndex) ∧
  (count ≠ 0 → lo ≤ first → first + count ≤ hi → 464 < 3 + count * entryBytes t → Serves c tag r s u u .badValue) ∧
  (count ≠ 0 → lo ≤ first → first + count ≤ hi → 3 + count * entryBytes t ≤ 464 → s.takes tag r { result := .ok, data := d } u →
    Answers (exec c s) tag r u { result := .ok, data := d })

/-! ### Events of field nodes (R165) -/

/-- The part takes an event of the node at `src`, which holds role `r`: it is not in reset and owns the node. While the cell is
STOPPED it takes only answers of an operation in flight, but for the head nodes and the terminals. -/
def State.hears (s : State) (src : Byte) (r : Role) (answer : Bool) : Prop :=
  s.ccs.inReset = false ∧ s.roleAt src.toNat = r ∧ s.owned r = true ∧ (answer = true ∨ s.ccs.cell ≠ .stopped)

/-- The command of a HEAD_EVT. -/
def headEvent (src : Byte) : HeadEvt → Instr
  | .touchdown n => .touchdown src n
  | .bondEnd n c d => .bondEnd src n c d
  | .wireDone n => .wireDone src n
  | .aborted n => .aborted src n
  | .motionFault => .motionFault src

/-- The command of a FEED_EVT of the FEED_IN node, which sends no EJECTED. -/
def feedEvent (src : Byte) : FeedEvt → Option Instr
  | .magIn m => some (.magIn src m)
  | .magOut => some (.magOut src)
  | .stripIn c => some (.stripIn src c)
  | .feedFault => some (.feedFault src)
  | .ejected _ => none

/-- The command of a FEED_EVT of the FEED_OUT node, which sends no STRIP_IN. -/
def outFeedEvent (src : Byte) : FeedEvt → Option Instr
  | .magIn m => some (.outputMagIn src m)
  | .magOut => some (.outputMagOut src)
  | .feedFault => some (.outputFeedFault src)
  | .ejected n => some (.ejected src n)
  | .stripIn _ => none

/-- The command of a TRACK_EVT. -/
def trackEvent (src : Byte) : TrackEvt → Instr
  | .moveDone o n => .moveDone src o n
  | .trackFault o n => .trackFault src o n

/-- The event command that a frame from the node of role `r` carries, none where the role's block takes no such frame (R165). -/
def eventOf (r : Role) (f : RxFrame) : Option Instr :=
  match r, f.reads with
  | .head _, m =>
    if f.kind = 0x12 then
      (decodeSample (f.payload.take f.length.toNat)).map fun x => .usSample f.src x.feedback x.seq x.fault
    else
      match m with
      | .headEvt e => if f.kind = 0x11 then some (headEvent f.src e) else none
      | _ => none
  | .feedIn, .feedEvt e => if f.kind = 0x19 then feedEvent f.src e else none
  | .feedOut, .feedEvt e => if f.kind = 0x19 then outFeedEvent f.src e else none
  | .track, .trackEvt e => if f.kind = 0x1B then some (trackEvent f.src e) else none
  | .heater, .heatSample t => if f.kind = 0x1C then some (.heatSample f.src t) else none
  | .pull, .pullResult tag force mode st => if f.kind = 0x21 then some (.pullResult f.src tag force mode st) else none
  | .term _, .screenKey k i g => if f.kind = 0x2A then some (.screenKey f.src k i g) else none
  | _, _ => none

/-! ### Waivers (R102) -/

/-- The unit's record with its waiver mark of a wire set. -/
def UnitRecord.recordWaiver (x : UnitRecord) (wire : Nat) : UnitRecord := { x with waived := insertMark x.waived wire }

/-! ### Listed alarms (R137) -/

/-- No entry of the alarm list holds this code and scope. -/
def State.unlists (s : State) (code : AlarmCode) (scope : AlarmScope) : Prop :=
  ∀ e ∈ s.alc.list, ¬(e.code = code ∧ e.scope = scope)

/-- Entry `e` at list position `i` is the first that holds this code and scope; no two entries do (Law 9). -/
def State.lists (s : State) (code : AlarmCode) (scope : AlarmScope) (i : Nat) (e : AlarmEntry) : Prop :=
  s.alc.list[i]? = some e ∧ e.code = code ∧ e.scope = scope ∧
  ∀ (j : Nat) (f : AlarmEntry), j < i → s.alc.list[j]? = some f → ¬(f.code = code ∧ f.scope = scope)

/-! ### Laws of a run -/

/-- The capacities of LIF's queues (R167, R168, R169, R173). -/
def State.queuesBounded (s : State) : Prop :=
  s.lif.ufQueue.length ≤ 8 ∧ s.lif.fuQueue.length ≤ 16 ∧ s.lif.replies.length ≤ 8 ∧ s.lif.requests.length ≤ 4 ∧
  s.lif.notices.length ≤ 16

/-- Each channel has at most one drive frame waiting (R168). -/
def State.oneDriveEach (s : State) : Prop := s.lif.drives.Pairwise fun d e => d.head ≠ e.head

/-- Law 9: at most 32 entries, never two with the same code and scope, and no event alarm left with a condition (R137, R142). -/
def State.alarmsLawful (s : State) : Prop :=
  s.alc.list.length ≤ 32 ∧ (s.alc.list.Pairwise fun e f => ¬(e.code = f.code ∧ e.scope = f.scope)) ∧
  ∀ e ∈ s.alc.list, isEvent e.code = true → e.state = .cleared

/-- Law 6: 0 to 512 records whose numbers, taken modulo 65536, are consecutive and end just below the next number (R125); a pull
request in flight has a place in the log (R120). -/
def State.logLawful (s : State) : Prop :=
  s.plm.log.length ≤ 512 ∧ (s.plm.req.isSome → s.plm.log.length < 512) ∧ s.plm.nextRecord < 65536 ∧
  ∀ i x, s.plm.log[i]? = some x → (x.number + (s.plm.log.length - i)) % 65536 = s.plm.nextRecord ∧ x.number < 65536

/-- A head that is OFF has its channel DISABLED and awaits no event (R61, R65). -/
def State.offLawful (s : State) : Prop :=
  ∀ h, (s.head h).state = .off → (s.chan h).state = .disabled ∧ (s.head h).awaited = none

/-- Law 10: while the E-stop line is asserted the cell is STOPPED, and while it is STOPPED both heads are OFF with their channels
DISABLED (R64, R65, R175). A part held in reset does nothing until its full reset. -/
def State.stopLawful (s : State) : Prop :=
  s.offLawful ∧ (s.ccs.inReset = false → s.ccs.estop = true → s.ccs.cell = .stopped) ∧
  (s.ccs.cell = .stopped → ∀ h, (s.head h).state = .off)

/-- Law 12: a head that is not OFF has its node (R64, R164), and no HEAD_CMD or US_DRIVE frame of the cell controller waits for
that node (R166). -/
def State.gateLawful (s : State) : Prop :=
  ∀ h, (s.head h).state ≠ .off → ∃ a, s.addrOf (.head h) = some a ∧ ∀ f ∈ s.lif.ufQueue, f.drivesHead a = false

/-- A candidate list: at most 48, never two with the same unit and wire (R116). -/
def candidatesLawful (l : List Candidate) : Prop :=
  l.length ≤ 48 ∧ l.Pairwise fun c d => ¬(c.unit = d.unit ∧ c.wire = d.wire)

/-- A plan as R113 lets it be written. -/
def planLawful (e : PlanEntry) : Prop :=
  e.units.length ≤ 4 ∧ e.wires.length ≤ 8 ∧ e.units.Nodup ∧ e.wires.Nodup

/-- Every plan and the candidate list of every strip on the track keep their rules (R113, R116). -/
def State.candidatesLawful (s : State) : Prop :=
  (∀ e ∈ s.plm.plans, planLawful e) ∧ ∀ r ∈ s.strips, Machine.candidatesLawful r.candidates

end Sys2Proof.Machine
end

