-- ==== Sys2Proof/Certificates/Slice0/Obligations.lean ====
section
/-! DEFINITION. The statements for the provers. `Ends o x`: the command answers a next state, which is `x` after the closing of a
step; `Answers o tag r x a`: the same after the reply `a` to request `r`; `Serves c tag r s u x result`: the same for a reply without
data, where the request can be taken (Sys2Proof/Safety.lean). In a statement about a request
`u` is the state that the owning block finds when it takes it: `s` without the request. -/

open Sys2Proof Sys2Proof.Machine

/-! ### The step, the resets (R176) -/

/-- A step takes the command at the front of the queue, on the state with the queue's rest; on an empty queue the part idles, which
is the model's choice (log entry 1). -/
def Obligations.StepRunsTheFrontCommand : Prop :=
  ∀ (c : Instr) (s : State),
    step { s with pending := c :: s.pending } = exec c s ∧ (s.pending = [] → step s = .next s)

/-- A full reset puts every block at its full reset values whatever the part did before, keeps the level of the E-stop line, sets
the reset cause and queues STARTED first (R176, R173); with the line asserted ESTOP follows (R149). That the free U-port transmitter
takes STARTED at once, and that the level of the line is kept through the reset, are the model's reading (log entry 23), as are the
values after reset for which the manual gives none (log entry 27). The counter of free choices and the queue of commands are the
model's own. -/
def Obligations.FullResetReachesTheResetValues : Prop :=
  (let cause : FullCause → ResetCause
    | .power => .power
    | .line => .line
   ∀ (c : FullCause) (s : State), exec (.fullReset c) s = .next
    { ccs := { cause := cause c, estop := s.ccs.estop }
      lif :=
        { uTx := some (.notice { notice := .started (cause c), dropped := false })
          notices := if s.ccs.estop then [(1, { notice := .alarm .estop .cell .active 0 0, dropped := false })] else []
          stamp := if s.ccs.estop then 2 else 1 }
      alc :=
        if s.ccs.estop then
          { list := [{ code := .estop, scope := .cell, state := .active, first := 0, last := 0, repeats := 0, shown := false
                       detail := 0 }] }
        else {}
      free := s.free, pending := s.pending }) ∧
  exec (.fullReset .power) { State.reset with ccs := { State.reset.ccs with estop := false } } = .next State.reset

/-- The reset line, once asserted, stops both transmitters and holds the part: until the full reset no other command does
anything, but that the level of the E-stop line is seen (R176; what the part does with the frames being sent is the model's
choice, log entry 22). -/
def Obligations.ResetLineHoldsThePart : Prop :=
  ∀ s : State,
    exec .resetLineAsserted s =
      .next { s with ccs := { s.ccs with inReset := true }, lif := { s.lif with fTx := none, uTx := none } } ∧
    (s.ccs.inReset = true →
      exec .estopAssert s = .next { s with ccs := { s.ccs with estop := true } } ∧
      exec .estopRelease s = .next { s with ccs := { s.ccs with estop := false } } ∧
      ∀ c : Instr, (∀ k, c ≠ .fullReset k) → c ≠ .resetLineAsserted → c ≠ .estopAssert → c ≠ .estopRelease →
        exec c s = .next s)

/-- RESTART (R176): what each block keeps, what returns to its reset value, the frames of the heads that were not OFF (R78), the
OK reply, STARTED, and the page change of each terminal in service (R161). It is taken once the reply list has room for its reply
(R168); until then nothing changes. The OK reply is sent before anything else of the restart: a free U-port transmitter takes it
at once, and the F-port transmitter takes nothing yet. The model's reading: the own, drive, reply, notice and forwarded frames
that wait are discarded and those being sent are sent to their end, and the frames of R78 may start when the reply's transmission
has ended (log entry 11); head A's frames stand before head B's (log entry 3); and none is made for a head whose role no node
holds (log entry 6). With the request queue empty it is taken as it comes (log entry 10); while another request is the oldest
nothing changes. -/
def Obligations.RestartKeepsTheSettings : Prop :=
  ∀ (s : State) (tag : Byte), s.ccs.inReset = false →
    (s.takeRequest tag .restart = none → exec (.restart tag) s = .next s) ∧
    (8 ≤ s.lif.replies.length → exec (.restart tag) s = .next s) ∧
    ∀ u, s.takeRequest tag .restart = some u → (s.lif.replies.length < 8 → ∃ t, exec (.restart tag) s = .next t ∧
      t.ccs = { params := s.ccs.params, estop := s.ccs.estop, cause := .restart } ∧
      t.fdc = { lot := s.fdc.lot } ∧ t.trc = {} ∧ t.usc = { programs := s.usc.programs, wires := s.usc.wires } ∧
      t.heads = ⟨{}, {}⟩ ∧ t.channels = ⟨{}, {}⟩ ∧ t.recipes = s.recipes ∧ t.vcu = {} ∧
      t.plm = { plans := s.plm.plans, limits := s.plm.limits, counters := s.plm.counters, log := s.plm.log
                nextRecord := s.plm.nextRecord, half := s.plm.half, stats := s.plm.stats } ∧
      t.alc =
        (if s.ccs.estop then
          { list := [{ code := .estop, scope := .cell, state := .active, first := 0, last := 0, repeats := 0, shown := false
                       detail := 0 }] }
        else {}) ∧
      t.tmc.pages = s.tmc.pages ∧ t.tmc.tiles = s.tmc.tiles ∧ t.tmc.keys = s.tmc.keys ∧
      (∀ k, t.term k =
        if s.addrOf (.term k) ≠ none then
          { level := (s.term k).level, pagePending := true, dirty := (s.pageTiles 0).map fun i => (i, false) }
        else { level := (s.term k).level }) ∧
      t.lif.forwarding = s.lif.forwarding ∧ t.lif.kinds = s.lif.kinds ∧ t.lif.uCounts = {} ∧ t.lif.fCounts = {} ∧
      t.lif.gathering = none ∧ t.lif.requests = [] ∧ t.lif.dropped = 0 ∧
      t.upLine = ({ s with lif := { s.lif with fuQueue := [] } } : State).upLine ∧
      t.downLine = ({ s with lif := { s.lif with ufQueue := [] } } : State).downLine ∧
      t.replyLine = ({ s with lif := { s.lif with replies := [] } } : State).replyLine ++
        [{ tag := tag, part := 0, last := true, op := 17, answer := { result := .ok } }] ∧
      t.lif.fTx = s.lif.fTx ∧
      t.lif.uTx = some (s.lif.uTx.getD (.reply { tag := tag, part := 0, last := true, op := 17, answer := { result := .ok } })) ∧
      t.noticeLine = ({ s with lif := { s.lif with notices := [] } } : State).noticeLine ++
        { notice := .started .restart, dropped := false } ::
          (if s.ccs.estop then [{ notice := .alarm .estop .cell .active 0 0, dropped := false }] else []) ∧
      t.driveLine = ({ s with lif := { s.lif with drives := [] } } : State).driveLine ++
        ([Head.a, .b].filterMap fun h =>
          if (s.head h).state = .off then none
          else (s.addrOf (.head h)).map fun a => { head := h, dst := BitVec.ofNat 8 a, drive := 0, endMark := false }) ∧
      t.ownLine = ({ s with lif := { s.lif with own := [] } } : State).ownLine ++
        ([Head.a, .b].filterMap fun h =>
          if (s.head h).state.working then
            (s.addrOf (.head h)).map fun a =>
              { role := .head h, dst := BitVec.ofNat 8 a, body := .headCmd .abort (s.head h).cmdNo }
          else none))

/-! ### The cell (R174, R175) -/

/-- The table of R174: each of the six commands in each cell state, with its reply and all it changes. START leaves the asking of
the heads to `askUnit`, PAUSE and RESUME the hold sets to `addReason` and `removeReason`, STOP to `enterStopped`, each stated
below. -/
def Obligations.CellCommandsFollowTheTable : Prop :=
  (∀ (h : Head) (t : State),
    unpark h t = if (t.head h).state = .parked then t.modHead h fun c => { c with state := .idle } else t) ∧
  ∀ (s u : State) (tag : Byte),
    (let passes := u.ccs.cell = .stopped ∧ u.ccs.estop = false
     Serves (.cellCmdArm tag) tag (.cellCmd .arm) s u
      (if passes then
        { u with ccs := { u.ccs with cell := .ready }, trc := { u.trc with heat := { u.trc.heat with timer := some u.ccs.timebase } } }
      else u)
      (if passes then .ok else .badState)) ∧
    (let run : State := { u with ccs := { u.ccs with cell := .run } }
     Serves (.cellCmdStart tag) tag (.cellCmd .start) s u
      (if u.ccs.cell = .ready then
        eachHead askUnit
          (if u.trc.heat.state = .ready then run else raiseAlarm .heatNotReady .cell (u.trc.heat.lastTemp.getD 0) run)
      else u)
      (if u.ccs.cell = .ready then .ok else .badState)) ∧
    Serves (.cellCmdDrain tag) tag (.cellCmd .drain) s u
      (if u.ccs.cell = .run then
        if u.trc.preheat = none ∧ u.trc.bond = none ∧ u.trc.post = none ∧ u.trc.op = none then
          eachHead (fun h t => unpark h (removeReason .cell h t)) { u with ccs := { u.ccs with cell := .ready, feedPause := false } }
        else { u with ccs := { u.ccs with cell := .drain } }
      else u)
      (if u.ccs.cell = .run then .ok else .badState) ∧
    Serves (.cellCmdPause tag) tag (.cellCmd .pause) s u
      (if u.ccs.cell = .run ∨ u.ccs.cell = .drain then
        addReason .cell .b (addReason .cell .a { u with ccs := { u.ccs with feedPause := true } })
      else u)
      (if u.ccs.cell = .run ∨ u.ccs.cell = .drain then .ok else .badState) ∧
    Serves (.cellCmdResume tag) tag (.cellCmd .resume) s u
      (if u.ccs.cell = .run ∨ u.ccs.cell = .drain then
        eachHead (removeReason .cell) { u with ccs := { u.ccs with feedPause := false } }
      else u)
      (if u.ccs.cell = .run ∨ u.ccs.cell = .drain then .ok else .badState) ∧
    Serves (.cellCmdStop tag) tag (.cellCmd .stop) s u (if u.ccs.cell = .stopped then u else enterStopped u) .ok

/-- The entry to STOPPED (R174, R149): the cell is STOPPED with the feed pause clear; each head goes OFF (R65); the heat monitor
is reset and the conditions of HEAT_SIGNAL and HEAT_NOT_READY clear, with the HEAT notice where the monitor was READY (R38); and
the conditions of FEED_JAM, TRACK_JAM and PULL_STATION clear, as do those of HEAD_FAULT, NSOP and NSOL of each head that goes OFF.
Which head is taken first, here and wherever a rule acts on both heads, is a free choice (log entry 3), and the order of the
clears and the notice is that of the rules' sentences (log entry 17). From any state whose OFF heads are at rest: both heads are
OFF awaiting no event and their channels DISABLED; the operation, the push and the pull request in flight, the strips, the
magazines, the tables, the log, the forwarding table, the frames that wait to be forwarded, the requests, the replies and the
frames being sent are kept. -/
def Obligations.EnteringStoppedStopsEverything : Prop :=
  (∀ (f : Head → State → State) (s : State),
    ((s.head .a).state = .off ∨ (s.head .b).state = .off → eachHead f s = f .b (f .a s)) ∧
    ((s.head .a).state ≠ .off → (s.head .b).state ≠ .off →
      let t : State := { s with free := s.free + 1 }
      eachHead f s = f .b (f .a t) ∨ eachHead f s = f .a (f .b t))) ∧
  ∀ s : State,
    let off := eachHead goOff { s with ccs := { s.ccs with cell := .stopped, feedPause := false } }
    let cold := clearAlarm .heatNotReady .cell (clearAlarm .heatSignal .cell { off with trc := { off.trc with heat := {} } })
    let told := if off.trc.heat.state = .ready then notify (.heat false) cold else cold
    let t := enterStopped s
    t = clearAlarm .pullStation .track (clearAlarm .trackJam .track (clearAlarm .feedJam .feeder told)) ∧
    (s.offLawful →
      (s.alarmsLawful → ∀ e ∈ t.alc.list,
        (e.code = .feedJam ∧ e.scope = .feeder ∨ (e.code = .trackJam ∨ e.code = .pullStation) ∧ e.scope = .track ∨
          (e.code = .heatSignal ∨ e.code = .heatNotReady) ∧ e.scope = .cell ∨
          ∃ h, (s.head h).state ≠ .off ∧ e.scope = .head h ∧ (e.code = .headFault ∨ e.code = .nsop ∨ e.code = .nsol)) →
        e.state = .cleared) ∧
      t.ccs = { s.ccs with cell := .stopped, feedPause := false } ∧
      (∀ h, (t.head h).state = .off ∧ (t.head h).awaited = none ∧ (t.chan h).state = .disabled) ∧
      t.trc.heat = {} ∧ t.trc.op = s.trc.op ∧ t.trc.nextSeq = s.trc.nextSeq ∧ t.trc.moveNo = s.trc.moveNo ∧
      t.trc.preheat = s.trc.preheat ∧ t.trc.post = s.trc.post ∧
      t.trc.bond.map StripRecord.seq = s.trc.bond.map StripRecord.seq ∧
      t.fdc = s.fdc ∧ t.plm = s.plm ∧ t.recipes = s.recipes ∧ t.usc.programs = s.usc.programs ∧ t.usc.wires = s.usc.wires ∧
      t.tmc.pages = s.tmc.pages ∧ t.tmc.tiles = s.tmc.tiles ∧ t.tmc.keys = s.tmc.keys ∧
      t.lif.forwarding = s.lif.forwarding ∧ t.lif.ufQueue = s.lif.ufQueue ∧ t.lif.fuQueue = s.lif.fuQueue ∧
      t.lif.replies = s.lif.replies ∧ t.lif.requests = s.lif.requests ∧ t.lif.fTx = s.lif.fTx ∧ t.lif.uTx = s.lif.uTx)

/-- The E-stop line (R175): its assertion raises ESTOP with detail 0 and, in any cell state but STOPPED, the cell enters STOPPED;
its release clears the condition of ESTOP and starts nothing. A level that the part already has changes nothing, which is the
model's choice (log entry 26). -/
def Obligations.EstopLineStopsTheCell : Prop :=
  ∀ s : State, s.ccs.inReset = false →
    (let t := raiseAlarm .estop .cell 0 { s with ccs := { s.ccs with estop := true } }
     Ends (exec .estopAssert s)
      (if s.ccs.estop = true then s else if s.ccs.cell = .stopped then t else enterStopped t)) ∧
    Ends (exec .estopRelease s)
      (if s.ccs.estop = true then clearAlarm .estop .cell { s with ccs := { s.ccs with estop := false } } else s)

/-! ### The heads at their boundaries (R49 to R67, R77) -/

/-- HEAD_OP (R64 to R66, R77): the checks of the five operations in their order, each reply, and what a passing one does. An
ENABLE that passes takes the HEAD_CMD and US_DRIVE frames for the head's node out of the forward queue (R166) and leaves the
others in their order; that those sent to all nodes go too is the model's reading (log entry 24). A head that is neither A nor B
gets BAD_VALUE, which is the model's reading (log entry 18), and so is that CLEAR_FAULT makes a unit with skip pending SKIPPED
before the condition of HEAD_FAULT clears (log entry 45), and that a rebond claim of a head without a faulted wire stands past it
(log entry 48). -/
def Obligations.HeadOperationsFollowTheirTables : Prop :=
  ∀ (s u : State) (tag : Byte),
    Serves (.headOpEnable tag none) tag (.headOp .enable none) s u u .badValue ∧
    Serves (.headOpDisable tag none) tag (.headOp .disable none) s u u .badValue ∧
    Serves (.headOpPause tag none) tag (.headOp .pause none) s u u .badValue ∧
    Serves (.headOpResume tag none) tag (.headOp .resume none) s u u .badValue ∧
    Serves (.headOpClearFault tag none) tag (.headOp .clearFault none) s u u .badValue ∧
    ∀ h : Head,
      (u.alarmHolds h = true ↔
        ∃ e ∈ u.alc.list, isStop e.code = true ∧ e.state ≠ .activeAcked ∧ (e.scope = .head h ∨ e.scope = .cell)) ∧
      (let set : HoldSet := { heat := decide (u.trc.heat.state ≠ .ready), alarm := u.alarmHolds h, cell := u.ccs.feedPause }
       let gated (f : LinkFrame) : Bool :=
        (f.kind == 0x10 || f.kind == 0x13) && (some f.dst.toNat == u.addrOf (.head h) || f.dst == 63)
       let idle := u.setChan h { u.chan h with state := .idle }
       let on := ({ idle with lif := { u.lif with ufQueue := u.lif.ufQueue.filter fun f => !gated f } } : State).modHead h fun c =>
        { c with hold := set, state := .hold }
       Serves (.headOpEnable tag (some h)) tag (.headOp .enable (some h)) s u
        (if (u.head h).state ≠ .off ∨ u.ccs.cell = .stopped ∨ u.addrOf (.head h) = none then u
         else if set = {} then askUnit h (on.modHead h fun c => { c with state := .idle }) else on)
        (if (u.head h).state ≠ .off then .badState
         else if u.ccs.cell = .stopped then .badState
         else if u.addrOf (.head h) = none then .notFound else .ok)) ∧
      Serves (.headOpDisable tag (some h)) tag (.headOp .disable (some h)) s u (goOff h u) .ok ∧
      Serves (.headOpPause tag (some h)) tag (.headOp .pause (some h)) s u
        (if (u.head h).state = .off then u else addReason .operator h u)
        (if (u.head h).state = .off then .badState else .ok) ∧
      Serves (.headOpResume tag (some h)) tag (.headOp .resume (some h)) s u
        (if (u.head h).state = .off then u else removeReason .faultCleared h (removeReason .operator h u))
        (if (u.head h).state = .off then .badState else .ok) ∧
      (let ctx := u.head h
       let a := if (u.chan h).state = .tripped then u.setChan h { u.chan h with state := .idle } else u
       let b :=
        if ctx.faulted.isSome then
          wireEndReport h false false (a.modHead h fun c => { c with missed := min 65535 (c.missed + 1) })
        else if ctx.nsb.isNone ∧ ((u.claimOf h).bind u.unit?).any (·.skipPending) then skipNow h false a else a
       let d := clearAlarm .headFault (.head h) (b.modHead h fun c => { c with faulted := none, cause := none })
       Serves (.headOpClearFault tag (some h)) tag (.headOp .clearFault (some h)) s u
        (if ctx.state = .fault then d.modHead h fun c => { c with hold := { c.hold with faultCleared := true }, state := .hold }
         else u)
        (if ctx.state = .fault then .ok else .badState))

/-- Hold reasons (R62, R63): what adding a reason does in each head state, and what removing one does, leaving HOLD included. -/
def Obligations.HoldReasonsActAtBoundaries : Prop :=
  ∀ (r q : HoldReason) (h : Head) (s : State) (b : Bool) (l : HoldSet),
    addReason r h s =
      (if (s.head h).state = .off then s
       else s.modHead h fun c =>
        { c with hold := c.hold.put r true, state := if c.state = .idle ∨ c.state = .parked then .hold else c.state }) ∧
    (let t := s.modHead h fun c => { c with hold := c.hold.put r false }
     removeReason r h s =
      if (s.head h).hold.has r = false then s
      else if (s.head h).state ≠ .hold ∨ (t.head h).hold ≠ {} then t
      else
        match s.claimOf h with
        | some u => startWire h u t
        | none => askUnit h (t.modHead h fun c => { c with state := .idle })) ∧
    ((l.put r b).has q = if r = q then b else l.has q) ∧
    [HoldReason.operator, .cell, .heat, .nsb, .alarm, .program, .faultCleared].map l.has =
      [l.operator, l.cell, l.heat, l.nsb, l.alarm, l.program, l.faultCleared]

/-- Asking for a unit (R49, R50): when a program is HELD (R134), the conditions, the table of results in its order, the candidate
of each head, and when a candidate is claimable. -/
def Obligations.HeadsClaimTheirCandidates : Prop :=
  (∀ (s : State) (p : Nat), s.held p = true ↔ s.plm.progState.getD p .running = .held) ∧
  (∀ (s : State) (r : StripRecord), s.trc.bond = some r → s.bondProgram = r.program) ∧
  (∀ (s : State) (h : Head),
    (s.claimOf h = none ↔ ∀ x ∈ s.units, x.claimant ≠ some h) ∧
    ∀ u, s.claimOf h = some u → ∃ x, s.unit? u = some x ∧ x.claimant = some h) ∧
  ∀ (h : Head) (s : State),
    (let p := s.bondProgram
     let asks := ((s.head h).state = .idle ∨ (s.head h).state = .parked) ∧ s.claimOf h = none ∧
      (s.ccs.cell = .run ∨ s.ccs.cell = .drain) ∧ ∃ r, s.trc.bond = some r ∧ r.state = .bonding ∧ r.scrapped = false
     (¬asks → askUnit h s = s) ∧
     (asks → s.held p = true →
        askUnit h s = s.modHead h fun c => { c with hold := { c.hold with program := true }, state := .hold }) ∧
     (asks → s.held p = false → (∀ x ∈ s.units, x.state ≠ .pending) →
        askUnit h s = s.modHead h fun c => { c with state := if (s.claimOf h.other).isSome then .parked else .idle }) ∧
     (asks → s.held p = false → ∀ u x, s.unit? u = some x → x.state = .pending →
        (∀ v y, s.unit? v = some y → y.state = .pending → if h = .a then u ≤ v else v ≤ u) →
        askUnit h s =
          if ∃ v, s.claimOf h.other = some v ∧
              u / (s.program p).rows ≤ v / (s.program p).rows + (s.program p).guard ∧
              v / (s.program p).rows ≤ u / (s.program p).rows + (s.program p).guard
          then s.modHead h fun c => { c with state := .parked }
          else startWire h u (s.modUnit u fun x =>
            { x with state := .claimed, claimant := some h, rebond := none, lastHead := some h })))

/-- Starting a wire (R67, R46): the head's context, its cleared vote record, and the WIRE_GO with the two absolute sites; with the
program HELD reason PROGRAM is added instead (R57). -/
def Obligations.StartingAWireSendsWireGo : Prop :=
  ∀ (h : Head) (u : Nat) (s : State) (r : StripRecord) (x : UnitRecord), s.trc.bond = some r → s.unit? u = some x →
    (s.held r.program = true →
      startWire h u s = s.modHead h fun c => { c with hold := { c.hold with program := true }, state := .hold }) ∧
    (s.held r.program = false →
      let p := s.program r.program
      let w := (match x.rebond with
        | some w => w
        | none => x.resume)
      let e := s.usc.wires.getD (p.firstWire + w) {}
      let ox := p.originX + (u / p.rows : Nat) * p.pitchX
      let oy := p.originY + (u % p.rows : Nat) * p.pitchY
      startWire h u s =
        sendOwn (.head h)
          (.headCmd
            (.wireGo ⟨ox + e.x1, oy + e.y1⟩ ⟨ox + e.x2, oy + e.y2⟩ e.dieLevel e.loopCode (s.recipe e.ballRecipe).bondForce
              (s.recipe e.stitchRecipe).bondForce)
            ((s.head h).cmdNo + 1))
          (({ s with vcu := { s.vcu with votes := s.vcu.votes.set h {} } } : State).modHead h fun c =>
            { c with wire := some { seq := r.seq, unit := u, wire := w }, phase := .ball, retries := 0, retried := false
                     cmdNo := c.cmdNo + 1, state := .moving, abandoning := false
                     awaited := some { event := .touchdown, deadline := s.ccs.timebase + 200 } }))

/-- A head that goes OFF (R65, R54): one that is OFF stays as it is. Any other makes the six steps: its channel is DISABLED with
drive 0; ABORT goes out with the present command number if a wire was in progress; the not-done report, with the missed count one
higher, if one is due; the vote record goes; a claim that still stands ends, a rebond claim by its not-done report, a normal one
with the unit SKIPPED where skip is pending and else PENDING again with its resume wire and its marks; the conditions of
HEAD_FAULT, NSOP and NSOL of the head clear; and the head is OFF with its counts and its command number alone, as they were but
for the count of missed wires. From any state whose OFF heads are at rest, the cell, the magazines, the strips at PREHEAT and
POST, the tables, the log, the frames waiting to be forwarded, the requests, the replies and the frames being sent are kept. A
head with no wire, fault or decision to report, no claim and no alarm sends drive 0 and does no more than that. No frame is made
for a role that no node holds (log entry 6). -/
def Obligations.GoingOffEndsTheHeadsWork : Prop :=
  ∀ (h : Head) (s : State),
    ((s.head h).state = .off → goOff h s = s) ∧
    ((s.head h).state ≠ .off →
      let t := goOff h s
      let c := s.head h
      let kept (x : HeadCtx) : HeadCtx :=
        { cmdNo := c.cmdNo, bonded := x.bonded, missed := x.missed, retriesSent := x.retriesSent }
      let chan := { s.chan h with state := .disabled, lastDrive := some 0, window := false, integ := 0 }
      let working : Prop := c.state = .moving ∨ c.state = .bonding ∨ c.state = .forming
      let due : Prop := working ∨ c.state = .fault ∧ c.faulted ≠ none ∨ c.nsb ≠ none
      let stopped := sendDrive h 0 false (s.setChan h chan)
      let aborted := if working then sendOwn (.head h) (.headCmd .abort c.cmdNo) stopped else stopped
      let reported :=
        if due then wireEndReport h false false (aborted.modHead h fun c => { c with missed := min 65535 (c.missed + 1) }) else aborted
      let v : State := { reported with vcu := { reported.vcu with votes := reported.vcu.votes.set h {} } }
      let ended (t : State) : State :=
        (clearAlarm .nsol (.head h) (clearAlarm .nsop (.head h) (clearAlarm .headFault (.head h) t))).modHead h kept
      (v.claimOf h = none → t = ended v) ∧
      (∀ u x, v.claimOf h = some u → v.unit? u = some x →
        let record (x : UnitRecord) : State := { v with usc := { v.usc with units := some (v.units.set u x) } }
        (∀ w, x.rebond = some w → t = ended (wireEndReport h false false v)) ∧
        (x.rebond = none → x.skipPending = false →
          t = ended (closeClaim h false (record { x with state := .pending, claimant := none }))) ∧
        (x.rebond = none → x.skipPending = true →
          t = ended (closeClaim h false
            { record { x with state := .skipped, skipPending := false, claimant := none } with
              trc := { v.trc with bond := v.trc.bond.map fun r => { r with skip := r.skip ||| 1#64 <<< u } } }))) ∧
      t.head h =
        { cmdNo := c.cmdNo, bonded := c.bonded, missed := if due then min 65535 (c.missed + 1) else c.missed
          retriesSent := c.retriesSent } ∧
      (s.offLawful →
        (s.alarmsLawful → ∀ e ∈ t.alc.list, e.scope = .head h → e.code = .headFault ∨ e.code = .nsop ∨ e.code = .nsol →
          e.state = .cleared) ∧
        (t.chan h).state = .disabled ∧ t.ccs = s.ccs ∧ t.fdc = s.fdc ∧ t.plm = s.plm ∧ t.recipes = s.recipes ∧
        t.usc.programs = s.usc.programs ∧ t.usc.wires = s.usc.wires ∧ t.trc.op = s.trc.op ∧ t.trc.heat = s.trc.heat ∧
        t.trc.preheat = s.trc.preheat ∧ t.trc.post = s.trc.post ∧ t.trc.bond.map StripRecord.seq = s.trc.bond.map StripRecord.seq ∧
        t.tmc.pages = s.tmc.pages ∧ t.tmc.tiles = s.tmc.tiles ∧ t.tmc.keys = s.tmc.keys ∧ t.lif.forwarding = s.lif.forwarding ∧
        t.lif.ufQueue = s.lif.ufQueue ∧ t.lif.fuQueue = s.lif.fuQueue ∧ t.lif.replies = s.lif.replies ∧
        t.lif.requests = s.lif.requests ∧ t.lif.fTx = s.lif.fTx ∧ t.lif.uTx = s.lif.uTx) ∧
      (c.state.working = false → c.faulted = none → c.nsb = none → s.claimOf h = none →
        s.unlists .headFault (.head h) → s.unlists .nsop (.head h) → s.unlists .nsol (.head h) →
        t = ({ stopped with vcu := { s.vcu with votes := s.vcu.votes.set h {} } } : State).modHead h kept))

/-! ### Claims, reports and the coverage scan (R52 to R59, R103 to R109) -/

/-- A wire end report for a normal claim (R52): the done mark and the two counts of the strip, the resume wire, the vote record,
and then the first that applies of the unit SKIPPED, the claim's end with the unit DONE or PARTIAL (R53), reason PROGRAM, and the
head's next step at its boundary. And what a wire done does to the strip's candidate list (R117): nothing for a scrapped strip; the
pair's candidate BONDED, with the wire's directed reason if one applies; else a new candidate for a directed reason, in the place of
the latest PLANNED one that is not recorded when 48 are listed, or CANDIDATE_OVERFLOW when there is none. -/
def Obligations.WireEndReportsStepTheUnit : Prop :=
  (∀ (l : List Nat) (v k : Nat), k ∈ insertMark l v ↔ k = v ∨ k ∈ l) ∧
  (∀ (set : ReasonSet) (h : Head) (u w : Nat) (v : VoteRecord) (retried : Bool) (r : StripRecord),
    let t := wireMade set h u w v retried r
    let shows (f : VoteEntry → Bool) : Bool := v.ball.any f || v.stitch.any f
    let reason : Option CandidateReason :=
      ([ (CandidateReason.dissent, set.dissent && shows (·.dissent)), (.highEnergy, set.highEnergy && shows (·.summary.highEnergy))
       , (.slowStart, set.slowStart && shows (·.summary.slowStart)), (.retried, set.retried && retried) ].find? (·.2)).map (·.1)
    let bonded (c : Candidate) : Candidate :=
      { c with ball := v.ball.map (·.summary), stitch := v.stitch.map (·.summary), head := some h, status := .bonded }
    let pair (c : Candidate) : Prop := c.unit = u ∧ c.wire = w
    let planned (c : Candidate) : Prop := c.reason = .planned ∧ c.record = none
    (r.scrapped = true → t = r) ∧
    (r.scrapped = false →
      (∀ l c m, r.candidates = l ++ c :: m → pair c → (∀ d ∈ l, ¬pair d) →
        t = { r with candidates := l ++ { bonded c with reason := reason.getD c.reason } :: m }) ∧
      ((∀ d ∈ r.candidates, ¬pair d) → reason = none → t = r) ∧
      ((∀ d ∈ r.candidates, ¬pair d) → ∀ x, reason = some x →
        let new := bonded { unit := u, wire := w, reason := x, status := .bonded }
        (r.candidates.length < 48 → t = { r with candidates := r.candidates ++ [new] }) ∧
        (48 ≤ r.candidates.length → ∀ l c m, r.candidates = l ++ c :: m → planned c → (∀ d ∈ m, ¬planned d) →
          t = { r with candidates := l ++ m ++ [new] }) ∧
        (48 ≤ r.candidates.length → (∀ d ∈ r.candidates, ¬planned d) → t = { r with overflow := true })))) ∧
  ∀ (h : Head) (done own : Bool) (s : State) (u : Nat) (x : UnitRecord) (r : StripRecord),
    s.claimOf h = some u → s.unit? u = some x → s.trc.bond = some r → x.rebond = none →
    let wires := (s.program r.program).wireCount
    let e := s.plm.plans.getD r.program {}
    let y := { x with done := if done then insertMark x.done x.resume else x.done, resume := x.resume + 1 }
    let counted :=
      if done then
        wireMade (if e.valid then e.reasons else {}) h u x.resume (s.vcu.votes.get h) (s.head h).retried
          { r with wiresBonded := min 65535 (r.wiresBonded + 1) }
      else { r with wiresMissed := min 65535 (r.wiresMissed + 1) }
    let reported (y : UnitRecord) (r : StripRecord) : State :=
      { s with usc := { s.usc with units := some (s.units.set u y) }, trc := { s.trc with bond := some r }
               vcu := { s.vcu with votes := s.vcu.votes.set h {} } }
    let after (t : State) : State :=
      if own then if (t.head h).hold = {} then startWire h u t else t.modHead h fun c => { c with state := .hold } else t
    wireEndReport h done own s =
      if x.skipPending then
        closeClaim h own (reported { y with state := .skipped, skipPending := false, claimant := none }
          { counted with skip := counted.skip ||| 1#64 <<< u })
      else if wires ≤ x.resume + 1 then
        closeClaim h own (reported
          { y with state := if ∀ w < wires, w ∈ y.done then .done else .partial_, claimant := none } counted)
      else if s.held r.program then after (addReason .program h (reported y counted))
      else after (reported y counted)

/-- A rebond claim (R58, R108): it ends at the report for its wire, the head's own or one made for it, with the unit DONE or
PARTIAL and its resume wire as it was; the pending wire and the rebond head become absent; a head that reports its own wire takes
its next step at its boundary, the other head, if PARKED, asks again, and the scan that waited for the report walks on from the
same wire. A scan that a SCRAP has ended meanwhile stays ended (R111). -/
def Obligations.RebondClaimsResumeTheScan : Prop :=
  ∀ (h : Head) (done own : Bool) (s : State) (u w : Nat) (x : UnitRecord) (r : StripRecord),
    s.claimOf h = some u → s.unit? u = some x → s.trc.bond = some r → x.rebond = some w →
    let wires := (s.program r.program).wireCount
    let e := s.plm.plans.getD r.program {}
    let marks := if done then insertMark x.done w else x.done
    let y := { x with done := marks, state := if ∀ v < wires, v ∈ marks then .done else .partial_, claimant := none, rebond := none }
    let counted :=
      if done then
        wireMade (if e.valid then e.reasons else {}) h u w (s.vcu.votes.get h) (s.head h).retried
          { r with wiresBonded := min 65535 (r.wiresBonded + 1) }
      else { r with wiresMissed := min 65535 (r.wiresMissed + 1) }
    let ended : State :=
      { s with usc := { s.usc with units := some (s.units.set u y) }, trc := { s.trc with bond := some counted }
               vcu := { s.vcu with votes := s.vcu.votes.set h {}, pendingWire := none, rebondHead := none } }
    let next : State :=
      if own = false then ended
      else if (ended.head h).hold ≠ {} then ended.modHead h fun c => { c with state := .hold }
      else
        match ended.claimOf h with
        | some v => startWire h v ended
        | none => askUnit h (ended.modHead h fun c => { c with state := .idle })
    let asked := if (next.head h.other).state = .parked then askUnit h.other next else next
    wireEndReport h done own s = if s.vcu.scan = some .rebond then walk u w asked else asked

/-- The end of a claim (R53, R51, R59): the head at its boundary goes on, the other head, if PARKED, asks again, and the strip is
evaluated; where both ask either may be first, a free choice of the model (log entry 3). CHECKING is entered exactly when the
strip is BONDING, not scrapped, and no unit is PENDING or CLAIMED (R59), and its program is not HELD: the strip of a HELD program
stays in BONDING (R57, R134), and is evaluated again at PROGRAM_RELEASE, which is the model's reading (log entry 41). -/
def Obligations.ClaimsEndWithAnEvaluation : Prop :=
  ∀ (h : Head) (s : State),
    (let go (t : State) : State :=
      if (t.head h).hold ≠ {} then t.modHead h fun c => { c with state := .hold }
      else
        match t.claimOf h with
        | some u => startWire h u t
        | none => askUnit h (t.modHead h fun c => { c with state := .idle })
     let ask (t : State) : State := if (t.head h.other).state = .parked then askUnit h.other t else t
     let fresh : State := { s with free := s.free + 1 }
     closeClaim h false s = evaluateChecking (ask s) ∧
     ((s.head h.other).state ≠ .parked ∨ (s.head h).hold ≠ {} → closeClaim h true s = evaluateChecking (ask (go s))) ∧
     ((s.head h.other).state = .parked → (s.head h).hold = {} →
        closeClaim h true s = evaluateChecking (ask (go fresh)) ∨ closeClaim h true s = evaluateChecking (go (ask fresh)))) ∧
    (let idle (k : Head) (t : State) : State :=
      if (t.head k).state = .parked then t.modHead k fun c => { c with state := .idle } else t
     (∀ r l, s.trc.bond = some r → s.usc.units = some l → r.state = .bonding → r.scrapped = false →
        s.plm.progState.getD r.program .running ≠ .held → (∀ x ∈ l, x.state ≠ .pending ∧ x.state ≠ .claimed) →
        evaluateChecking s =
          walk 0 0 (idle .b (idle .a { s with trc := { s.trc with bond := some { r with state := .checking } } }))) ∧
     ((∀ r l, s.trc.bond = some r → s.usc.units = some l → r.state = .bonding → r.scrapped = false →
        s.plm.progState.getD r.program .running = .held ∨ ∃ x ∈ l, x.state = .pending ∨ x.state = .claimed) →
        evaluateChecking s = s))

/-- The walk of the coverage scan under policy ASK (R103, R104, R109): from unit u, wire w on it stops at the first wire, in unit
order and then in wire order, of a unit not SKIPPED that is neither done nor waived; when there is none it passes and the strip
is RELEASED. The alarm raised before the DECISION notice is queued (log entry 17) and the scan position left as it was by a scan that
passes (log entry 25) are the model's reading. -/
def Obligations.TheScanStopsAtTheFirstMiss : Prop :=
  ∀ (s : State) (u w : Nat) (r : StripRecord), s.trc.bond = some r → s.ccs.params.policy = .ask →
    let wires := (s.program r.program).wireCount
    let fails (v k : Nat) : Prop := (u < v ∨ v = u ∧ w ≤ k) ∧ k < wires ∧
      ∃ x, s.unit? v = some x ∧ x.state ≠ .skipped ∧ k ∉ x.done ∧ k ∉ x.waived
    ((∀ v k, ¬fails v k) →
      walk u w s = notify (.strip r.seq .released)
        { s with vcu := { s.vcu with scan := some .passed, pendingWire := none }
                 trc := { s.trc with bond := some { r with state := .released } } }) ∧
    ∀ v k, fails v k → (∀ v' k', fails v' k' → v < v' ∨ v = v' ∧ k ≤ k') →
      walk u w s = notify (.decision (.missedWire { seq := r.seq, unit := v, wire := k }))
        (raiseAlarm .missedWire .track (v * 1000 + k)
          { s with vcu := { s.vcu with scan := some .stopped, pos := some (v, k), pendingWire := some (v, k) } })

/-- The walk under policy REJECT_UNIT (R107, R109): it never stops. Every unit with a failing wire is REJECTED and each of its wires
not done is waived, every other unit is as it was, no alarm is raised, and the strip is RELEASED. That the pending wire is absent
afterwards is the model's reading (log entry 25). -/
def Obligations.RejectUnitWalksToTheEnd : Prop :=
  ∀ (s : State) (u w : Nat) (r : StripRecord), s.trc.bond = some r → s.ccs.params.policy = .rejectUnit →
    let wires := (s.program r.program).wireCount
    let fails (v : Nat) (x : UnitRecord) : Prop := x.state ≠ .skipped ∧
      ∃ k < wires, (u < v ∨ v = u ∧ w ≤ k) ∧ k ∉ x.done ∧ k ∉ x.waived
    let t := walk u w s
    t.vcu.scan = some .passed ∧ t.vcu.pendingWire = none ∧ t.alc = s.alc ∧ t.heads = s.heads ∧
    t.noticeQueue = (notify (.strip r.seq .released) s).noticeQueue ∧
    (∃ b, t.trc.bond = some { r with state := .released, rejectUnits := b } ∧
      (b = true ↔ r.rejectUnits = true ∨ ∃ v x, s.unit? v = some x ∧ fails v x)) ∧
    ∀ v x, s.unit? v = some x →
      (¬fails v x → t.unit? v = some x) ∧
      (fails v x → ∃ m, t.unit? v = some { x with rejected := true, waived := m } ∧
        ∀ k, k ∈ m ↔ k ∈ x.waived ∨ (k < wires ∧ k ∉ x.done))

/-! ### Alarms and notices (R137 to R148, R173) -/

/-- A notice joins the notice queue while it holds fewer than 16, with the pending DROPPED mark, which it clears; otherwise it is
counted and leaves the mark (R173). A frame of the part's own waits behind those that wait already, with the address that holds its
role (R164, R168); a drive frame takes the place of one of its channel that still waits, and no frame is made for a role that no node
holds: both are the model's reading (log entries 7 and 6). -/
def Obligations.NoticesQueueOrAreCounted : Prop :=
  ∀ (n : Notice) (s : State),
    (s.lif.notices.length < 16 → notify n s =
      { s with lif := { s.lif with notices := s.lif.notices ++ [(s.lif.stamp, { notice := n, dropped := s.lif.droppedMark })]
                                   droppedMark := false, stamp := s.lif.stamp + 1 } }) ∧
    (16 ≤ s.lif.notices.length → notify n s =
      { s with lif := { s.lif with dropped := min 255 (s.lif.dropped + 1), droppedMark := true } }) ∧
    (∀ r : Role, s.addrOf r = none ↔ ∀ e ∈ s.lif.forwarding, e.valid = true → e.role ≠ r) ∧
    (∀ (r : Role) (a : Nat), s.addrOf r = some a → ∃ e, s.lif.forwarding[a]? = some e ∧ e.valid = true ∧ e.role = r) ∧
    (∀ (r : Role) (b : OwnBody),
      (s.addrOf r = none → sendOwn r b s = s) ∧
      ∀ a, s.addrOf r = some a → sendOwn r b s =
        { s with lif := { s.lif with own := s.lif.own ++ [{ role := r, dst := BitVec.ofNat 8 a, body := b }] } }) ∧
    ∀ (h : Head) (d : Nat) (mark : Bool),
      (s.addrOf (.head h) = none → sendDrive h d mark s = s) ∧
      ∀ a, s.addrOf (.head h) = some a → sendDrive h d mark s =
        { s with lif := { s.lif with
          drives := (s.lif.drives.filter fun x => decide (x.head ≠ h)) ++
            [{ head := h, dst := BitVec.ofNat 8 a, drive := d, endMark := mark }] } }

/-- The class, STOP or WARN, and the scopes of each of the 18 codes (R138). A raise (R139 to R142, R145, R146, R148): a repeat of
the listed entry, a new entry at the newest end, the entry that makes room when 32 are listed, and the raise that finds no place;
each with the notices it queues, that of a raise without a place with repeat count 0, which is the model's reading (log entry 39).
A new entry of a STOP alarm, or one that was acknowledged, adds ALARM to the head it names, or to both for scope CELL. Where the
entry that makes room is a CLEARED STOP entry its effect ends first: ALARM leaves each head concerned that no effective entry of
its scope or of scope CELL still holds, and a head whose set is then empty leaves HOLD. -/
def Obligations.RaisesListTheirAlarm : Prop :=
  ∀ (code : AlarmCode) (scope : AlarmScope) (detail : Nat) (s : State),
    let feeder (x : AlarmScope) : Prop := x = .feeder
    let track (x : AlarmScope) : Prop := x = .track
    let cell (x : AlarmScope) : Prop := x = .cell
    let head (x : AlarmScope) : Prop := ∃ h, x = .head h
    let program (x : AlarmScope) : Prop := ∃ p < 8, x = .program p
    let row : AlarmCode → Bool × (AlarmScope → Prop)
      | .slotMismatch => (false, feeder)
      | .inputEmpty => (false, feeder)
      | .idMismatch => (true, feeder)
      | .feedJam => (true, feeder)
      | .outputFull => (true, track)
      | .trackJam => (true, track)
      | .heatSignal => (true, cell)
      | .heatNotReady => (false, cell)
      | .headFault => (true, head)
      | .nsop => (true, head)
      | .nsol => (true, head)
      | .missedWire => (false, track)
      | .pullTimeout => (false, track)
      | .pullStation => (true, track)
      | .pullFail => (true, program)
      | .pullCapability => (false, program)
      | .pullLogFull => (false, track)
      | .estop => (true, cell)
    let t := raiseAlarm code scope detail s
    let l := s.alc.list
    let event := code = .slotMismatch ∨ code = .missedWire ∨ code = .pullTimeout
    let new : AlarmEntry :=
      { code := code, scope := scope, state := if event then .cleared else .active, first := s.ccs.timebase,
        last := s.ccs.timebase, repeats := 0, shown := false, detail := detail }
    let told (repeats : Nat) (s : State) : State :=
      notify (.alarm code scope (if event then .cleared else .active) detail repeats) s
    let concerned (s : State) : PerHead HeadCtx :=
      match scope with
      | .head h => (addReason .alarm h s).heads
      | .cell => (addReason .alarm .b (addReason .alarm .a s)).heads
      | .feeder | .track | .program _ => s.heads
    let drop (h : Head) (t : State) : State :=
      if (t.head h).state ≠ .off ∧
          ∀ e ∈ t.alc.list, isStop e.code = true → e.state ≠ .activeAcked → e.scope ≠ .head h ∧ e.scope ≠ .cell
      then removeReason .alarm h t else t
    let ended (e : AlarmEntry) (t : State) : State :=
      if isStop e.code = true ∧ e.state = .cleared then
        match e.scope with
        | .head h => drop h t
        | .cell => eachHead drop t
        | .feeder | .track | .program _ => t
      else t
    (isStop code = true ↔ (row code).1 = true) ∧ (scopeFits scope code = true ↔ (row code).2 scope) ∧
    (isEvent code = true ↔ event) ∧
    (∀ i e, s.lists code scope i e →
      t.alc = { s.alc with list := l.set i { e with
        repeats := min 255 (e.repeats + 1), last := s.ccs.timebase, detail := detail, shown := false,
        state := if event then .cleared else .active } } ∧
      t.noticeQueue = (told (min 255 (e.repeats + 1)) s).noticeQueue) ∧
    (s.unlists code scope → l.length < 32 → t.alc = { s.alc with list := l ++ [new] } ∧ t.noticeQueue = (told 0 s).noticeQueue) ∧
    (s.unlists code scope → 32 ≤ l.length → ∀ (i : Nat) (e : AlarmEntry), l[i]? = some e →
      (e.state = .cleared ∧ (∀ j < i, ∀ f, l[j]? = some f → f.state ≠ .cleared) ∨
       (∀ f ∈ l, f.state ≠ .cleared) ∧ isStop e.code = false ∧ (∀ j < i, ∀ f, l[j]? = some f → isStop f.code = true) ∨
       (∀ f ∈ l, f.state ≠ .cleared ∧ isStop f.code = true) ∧ e.state = .activeAcked ∧
        (∀ j < i, ∀ f, l[j]? = some f → f.state ≠ .activeAcked)) →
      t.alc = { s.alc with list := l.eraseIdx i ++ [new] } ∧
      t.noticeQueue = (told 0 (notify (.alarm e.code e.scope .removed e.detail e.repeats) s)).noticeQueue ∧
      let room := ended e (notify (.alarm e.code e.scope .removed e.detail e.repeats)
        { s with alc := { s.alc with list := l.eraseIdx i } })
      t.heads = if isStop code then concerned room else room.heads) ∧
    (s.unlists code scope → 32 ≤ l.length → (∀ e ∈ l, e.state = .active ∧ isStop e.code = true) →
      t = notify (.alarm code scope .notListed detail 0)
        { s with alc := { s.alc with unlisted := min 255 (s.alc.unlisted + 1) } }) ∧
    (s.unlists code scope → l.length < 32 → t.heads = if isStop code then concerned s else s.heads) ∧
    ∀ i e, s.lists code scope i e → t.heads = if isStop code ∧ e.state = .activeAcked then concerned s else s.heads

/-- A condition clear (R142): an ACTIVE entry becomes CLEARED and an ACTIVE_ACKED one leaves the list, each with its notice; a CLEARED
entry and an entry that is not listed stay as they are. The stop effects stay as they were: a CLEARED STOP entry keeps its own, and
the effect of an entry ends as the entry is removed. The three event alarms: a raise leaves the entry CLEARED, made or repeated, with
one ALARM notice of new state CLEARED for it, or finds no place and queues NOT_LISTED and no CLEARED notice; an acknowledgment
removes the entry. -/
def Obligations.ConditionClearsFollowTheTable : Prop :=
  ∀ (code : AlarmCode) (scope : AlarmScope) (s : State),
    let l := s.alc.list
    let stops (e : AlarmEntry) (x : AlarmScope) : Prop := isStop e.code = true ∧ e.state ≠ .activeAcked ∧ e.scope = x
    (s.unlists code scope → clearAlarm code scope s = s) ∧
    (∀ i e, s.lists code scope i e →
      (clearAlarm code scope s =
        match e.state with
        | .active =>
          notify (.alarm code scope .cleared e.detail e.repeats)
            { s with alc := { s.alc with list := l.set i { e with state := .cleared } } }
        | .activeAcked =>
          notify (.alarm code scope .removed e.detail e.repeats) { s with alc := { s.alc with list := l.eraseIdx i } }
        | .cleared => s) ∧
      ∀ x,
        ((∃ f ∈ (clearAlarm code scope s).alc.list, stops f x) ↔ ∃ f ∈ l, stops f x) ∧
        ((∃ f ∈ (removeAlarm i s).alc.list, stops f x) ↔ ∃ j f, j ≠ i ∧ l[j]? = some f ∧ stops f x)) ∧
    (isEvent code = true ↔ code = .slotMismatch ∨ code = .missedWire ∨ code = .pullTimeout) ∧
    (isEvent code = true →
      (∀ detail : Nat,
        let t := raiseAlarm code scope detail s
        let left (f : AlarmEntry) : Prop := f.code = code ∧ f.scope = scope ∧ f.state = .cleared ∧ f.detail = detail
        let told (f : AlarmEntry) (x : State) : State := notify (.alarm code scope .cleared f.detail f.repeats) x
        (∀ i e, s.lists code scope i e →
          ∃ f, left f ∧ t.alc.list = l.set i f ∧ t.noticeQueue = (told f s).noticeQueue) ∧
        (s.unlists code scope → l.length < 32 →
          ∃ f, left f ∧ t.alc.list = l ++ [f] ∧ t.noticeQueue = (told f s).noticeQueue) ∧
        (s.unlists code scope → 32 ≤ l.length → (∃ d ∈ l, d.state ≠ .active ∨ isStop d.code = false) →
          ∃ f j d, left f ∧ l[j]? = some d ∧ t.alc.list = l.eraseIdx j ++ [f] ∧
            t.noticeQueue = (told f (notify (.alarm d.code d.scope .removed d.detail d.repeats) s)).noticeQueue) ∧
        (s.unlists code scope → 32 ≤ l.length → (∀ d ∈ l, d.state = .active ∧ isStop d.code = true) →
          t.alc.list = l ∧ ∃ n, t.noticeQueue = (notify (.alarm code scope .notListed detail n) s).noticeQueue)) ∧
      ∀ (u : State) (tag : Byte) (i : Nat) (e : AlarmEntry),
        scopeFits scope code = true → u.lists code scope i e → e.state = .cleared → e.shown = true →
        Serves (.alarmAck tag (some code) (some scope)) tag (.alarmAck (some code) (some scope)) s u
          (notify (.alarm code scope .removed e.detail e.repeats) { u with alc := { u.alc with list := u.alc.list.eraseIdx i } }) .ok)

/-- ALARM_ACK (R144, R146): its checks in their order, with the class and the permitted scopes of each code (R138), and what one
that passes does to the entry; the acknowledgment of a STOP entry ends its effect, and ALARM leaves each head concerned that no
effective entry of its scope or of scope CELL still holds. -/
def Obligations.AcknowledgmentsFollowTheTable : Prop :=
  ∀ (s u : State) (tag : Byte) (code : AlarmCode) (scope : AlarmScope),
    let feeder (x : AlarmScope) : Prop := x = .feeder
    let track (x : AlarmScope) : Prop := x = .track
    let cell (x : AlarmScope) : Prop := x = .cell
    let head (x : AlarmScope) : Prop := ∃ h, x = .head h
    let program (x : AlarmScope) : Prop := ∃ p < 8, x = .program p
    let row : AlarmCode → Bool × (AlarmScope → Prop)
      | .slotMismatch => (false, feeder)
      | .inputEmpty => (false, feeder)
      | .idMismatch => (true, feeder)
      | .feedJam => (true, feeder)
      | .outputFull => (true, track)
      | .trackJam => (true, track)
      | .heatSignal => (true, cell)
      | .heatNotReady => (false, cell)
      | .headFault => (true, head)
      | .nsop => (true, head)
      | .nsol => (true, head)
      | .missedWire => (false, track)
      | .pullTimeout => (false, track)
      | .pullStation => (true, track)
      | .pullFail => (true, program)
      | .pullCapability => (false, program)
      | .pullLogFull => (false, track)
      | .estop => (true, cell)
    let r : Request := .alarmAck (some code) (some scope)
    let drop (h : Head) (t : State) : State :=
      if (t.head h).state ≠ .off ∧
          ∀ e ∈ t.alc.list, isStop e.code = true → e.state ≠ .activeAcked → e.scope ≠ .head h ∧ e.scope ≠ .cell
      then removeReason .alarm h t else t
    let ended (t : State) : State :=
      if isStop code then
        match scope with
        | .head h => drop h t
        | .cell => eachHead drop t
        | .feeder | .track | .program _ => t
      else t
    (isStop code = true ↔ (row code).1 = true) ∧ (scopeFits scope code = true ↔ (row code).2 scope) ∧
    (∀ sc, Serves (.alarmAck tag none sc) tag (.alarmAck none sc) s u u .badValue) ∧
    (∀ c, Serves (.alarmAck tag c none) tag (.alarmAck c none) s u u .badValue) ∧
    (scopeFits scope code = false → Serves (.alarmAck tag (some code) (some scope)) tag r s u u .badValue) ∧
    (scopeFits scope code = true → u.unlists code scope →
      Serves (.alarmAck tag (some code) (some scope)) tag r s u u .notFound) ∧
    (scopeFits scope code = true → ∀ i e, u.lists code scope i e →
      Serves (.alarmAck tag (some code) (some scope)) tag r s u
        (if e.state = .activeAcked ∨ e.shown = false then u
         else if e.state = .active then
          ended (notify (.alarm code scope .activeAcked e.detail e.repeats)
            { u with alc := { u.alc with list := u.alc.list.set i { e with state := .activeAcked } } })
         else
          ended (notify (.alarm code scope .removed e.detail e.repeats)
            { u with alc := { u.alc with list := u.alc.list.eraseIdx i } }))
        (if e.state = .activeAcked then .notFound else if e.shown then .ok else .notShown))

/-- ALARM_READ (R147, R143): its range checks; the number listed, the unlisted count and the entries at the positions asked for that
the list has, as they stood; and the shown flag set in each of them. That a first position outside the list is answered BAD_INDEX
before the count is looked at is the model's reading (log entry 18). -/
def Obligations.AlarmReadsShowTheirEntries : Prop :=
  ∀ (s u : State) (tag : Byte) (first count : Nat),
    let c : Instr := .alarmRead tag first count
    let r : Request := .alarmRead first count
    let a : Answer :=
      { result := .ok
        data := .alarms u.alc.list.length u.alc.unlisted
          ((((u.alc.list.drop first).take count).zipIdx first).map fun x => (x.2, x.1)) }
    (32 ≤ first → Serves c tag r s u u .badIndex) ∧
    (first < 32 → (count = 0 ∨ 4 < count) → Serves c tag r s u u .badValue) ∧
    (first < 32 → 1 ≤ count → count ≤ 4 → s.takes tag r a u →
      Answers (exec c s) tag r
        { u with alc := { u.alc with
          list := u.alc.list.mapIdx fun i e => if first ≤ i ∧ i < first + count then { e with shown := true } else e } } a)

/-! ### Time and frames (R24, R156 to R169, R176) -/

/-- MILLISECOND_TICK and DWELL_COMPLETE (R176, R24): the timebase wraps at 2^32; the strip at PREHEAT counts a millisecond of dwell
while it may, and enters WAIT_BOND when its dwell has reached the parameter. -/
def Obligations.TicksCountTimeAndDwell : Prop :=
  ∀ s : State, s.ccs.inReset = false →
    let arrived (r : StripRecord) : StripRecord :=
      if r.state = .preheat ∧ r.scrapped = false ∧ s.ccs.params.preheatDwell ≤ r.dwell then { r with state := .waitBond } else r
    let counted (r : StripRecord) : StripRecord :=
      if s.trc.heat.state = .ready ∧ (r.state = .preheat ∨ r.state = .waitBond) ∧ r.scrapped = false then
        arrived { r with dwell := min 65535 (r.dwell + 1) }
      else r
    Ends (exec .millisecondTick s)
      { s with ccs := { s.ccs with timebase := s.ccs.timebase + 1 }, trc := { s.trc with preheat := s.trc.preheat.map counted } } ∧
    (s.ccs.timebase = 4294967295 → s.ccs.timebase + 1 = 0) ∧
    Ends (exec .dwellComplete s) { s with trc := { s.trc with preheat := s.trc.preheat.map arrived } }

/-- A frame at the F-port (R162, R163, R165): the length check, the CRC check, the DROP action, the frame of an owned node, which
does what the event that it carries does or is discarded, and the forward queue, which holds 16 (R167). While the cell is STOPPED
a node owned for an operation in flight is heard for that operation's answers alone. A frame of an owned node that spells none of
its events, a US_SAMPLE of fewer than four bytes among them, is discarded uncounted, and of a longer US_SAMPLE the first four
bytes are the sample: both are the model's choice (log entry 21). The CRC (R162), the layout of a US_SAMPLE (11.9), the kinds that
the part defines (R163, 11.9), the action of a kind, PASS for an own kind (R163), the role that an address holds (R164) and the
answers of an operation in flight (R11, R32, R121, R165) are said first. -/
def Obligations.FieldFramesAreCheckedThenRouted : Prop :=
  (let bit (c : BitVec 16) : BitVec 16 := if c.getLsbD 15 then (c <<< 1) ^^^ 0x1021 else c <<< 1
   crc16 [] = 0xFFFF ∧
   ∀ (l : List Byte) (b : Byte),
    crc16 (l ++ [b]) = bit (bit (bit (bit (bit (bit (bit (bit (crc16 l ^^^ (b.setWidth 16 <<< 8)))))))))) ∧
  (∀ (b0 b1 seq marks : Byte) (l : List Byte),
    decodeSample (b0 :: b1 :: seq :: marks :: l) = some { feedback := b0 ++ b1, seq := seq, fault := marks.getLsbD 0 }) ∧
  (∀ l : List Byte, l.length < 4 → decodeSample l = none) ∧
  (∀ k : Byte, isOwnKind k = true ↔
    k ∈ [ 0x01, 0x02, 0x03, 0x10, 0x11, 0x12, 0x13, 0x18, 0x19, 0x1A, 0x1B, 0x1C, 0x20, 0x21, 0x28, 0x29, 0x2A ]) ∧
  (∀ (k : Byte) (s : State),
    (k.toNat < 64 → s.kindAction k = .pass) ∧
    (64 ≤ k.toNat → ∀ a, s.lif.kinds[k.toNat - 64]? = some a → s.kindAction k = a)) ∧
  (∀ (a : Nat) (s : State),
    s.roleAt a = ((s.lif.forwarding[a]?).map fun e => if e.valid then e.role else .unassigned).getD .unassigned) ∧
  (∀ (r : Role) (f : LinkFrame), isAnswer r f = true ↔
    r = .feedIn ∧ f.kind = 0x19 ∧ (f.reads = .feedEvt .feedFault ∨ ∃ c, f.reads = .feedEvt (.stripIn c)) ∨
    r = .feedOut ∧ f.kind = 0x19 ∧ (f.reads = .feedEvt .feedFault ∨ ∃ n, f.reads = .feedEvt (.ejected n)) ∨
    r = .track ∧ f.kind = 0x1B ∧ (∃ e, f.reads = .trackEvt e) ∨
    r = .pull ∧ f.kind = 0x21 ∧ ∃ tag force mode st, f.reads = .pullResult tag force mode st) ∧
  ∀ (f : RxFrame) (s : State), s.ccs.inReset = false →
    let c := exec (.fPortFrame f) s
    let data := f.payload.take f.length.toNat
    let counts (k : PortCounts) : State := { s with lif := { s.lif with fCounts := k } }
    let role := s.roleAt f.src.toNat
    let up : LinkFrame := { dst := f.dst, src := f.src, kind := f.kind, payload := data, reads := f.reads }
    let short : Prop := 60 < f.length.toNat ∨ f.payload.length < f.length.toNat
    let sound : Prop := ¬short ∧ crc16 ([f.dst, f.src, f.kind, f.length] ++ data) = f.crc
    let running : Prop := s.ccs.cell ≠ .stopped
    let heard : Prop := isOwnKind f.kind = true ∧
      match role with
      | .head h => (s.head h).state ≠ .off
      | .feedIn => running ∨ s.fdc.push.isSome = true ∧ isAnswer role up = true
      | .feedOut => running ∨ (∃ o, s.trc.op = some o ∧ o.kind = .eject) ∧ isAnswer role up = true
      | .track => running ∨ (∃ o, s.trc.op = some o ∧ (o.kind = .movePb ∨ o.kind = .moveBp)) ∧ isAnswer role up = true
      | .heater => running
      | .pull => running ∨ s.plm.req.isSome = true ∧ isAnswer role up = true
      | .term _ => True
      | .other | .unassigned => False
    (short → Ends c (counts { s.lif.fCounts with length := min 65535 (s.lif.fCounts.length + 1) })) ∧
    (¬short → ¬sound → Ends c (counts { s.lif.fCounts with crc := min 65535 (s.lif.fCounts.crc + 1) })) ∧
    (sound → s.kindAction f.kind = .drop → Ends c s) ∧
    (sound → s.kindAction f.kind = .pass → heard → ∀ e, eventOf role f = some e → c = exec e s) ∧
    (sound → s.kindAction f.kind = .pass → heard → eventOf role f = none → Ends c s) ∧
    (sound → s.kindAction f.kind = .pass → ¬heard →
      Ends c
        (if s.lif.fuQueue.length < 16 then
          { s with lif := { s.lif with fuQueue := s.lif.fuQueue ++ [(s.lif.stamp, up)], stamp := s.lif.stamp + 1 } }
        else counts { s.lif.fCounts with overrun := min 65535 (s.lif.fCounts.overrun + 1) }))

/-- A frame at the U-port (R162, R163, R166): the length check, the CRC check, the DROP action, MREQ to management, the gate with
its reply OWNED, and the forward queue, which holds 8 (R167); the action of a kind, PASS for an own kind (R163), and when the node
of a role is owned (R165). An MREQ too short for its two header bytes is discarded, which is the model's choice (log entry 21). -/
def Obligations.HostFramesAreCheckedThenGated : Prop :=
  (∀ (k : Byte) (s : State),
    (k.toNat < 64 → s.kindAction k = .pass) ∧
    (64 ≤ k.toNat → ∀ a, s.lif.kinds[k.toNat - 64]? = some a → s.kindAction k = a)) ∧
  (∀ (s : State) (r : Role), s.owned r = true ↔
    let running : Prop := s.ccs.cell ≠ .stopped
    let inFlight (k : OpKind) : Prop := ∃ o, s.trc.op = some o ∧ o.kind = k
    match r with
    | .head h => (s.head h).state ≠ .off
    | .feedIn => running ∨ s.fdc.push.isSome = true
    | .feedOut => running ∨ inFlight .eject
    | .track => running ∨ inFlight .movePb ∨ inFlight .moveBp
    | .heater => running
    | .pull => running ∨ s.plm.req.isSome = true
    | .term _ => True
    | .other | .unassigned => False) ∧
  ∀ (f : RxFrame) (s : State), s.ccs.inReset = false →
    let c := exec (.uPortFrame f) s
    let data := f.payload.take f.length.toNat
    let counts (k : PortCounts) : State := { s with lif := { s.lif with uCounts := k } }
    let overrun := counts { s.lif.uCounts with overrun := min 65535 (s.lif.uCounts.overrun + 1) }
    let down : LinkFrame := { dst := f.dst, src := f.src, kind := f.kind, payload := data, reads := f.reads }
    let short : Prop := 60 < f.length.toNat ∨ f.payload.length < f.length.toNat
    let sound : Prop := ¬short ∧ crc16 ([f.dst, f.src, f.kind, f.length] ++ data) = f.crc
    let targets : List Role :=
      if f.kind = 0x10 ∨ f.kind = 0x13 then [.head .a, .head .b]
      else if f.kind = 0x18 ∨ f.kind = 0x1A ∨ f.kind = 0x20 then [.feedIn, .feedOut, .track, .pull] else []
    let gated : Prop :=
      if f.dst = 63 then ∃ r ∈ targets, s.addrOf r ≠ none ∧ s.owned r = true
      else s.roleAt f.dst.toNat ∈ targets ∧ s.owned (s.roleAt f.dst.toNat) = true
    (short → Ends c (counts { s.lif.uCounts with length := min 65535 (s.lif.uCounts.length + 1) })) ∧
    (¬short → ¬sound → Ends c (counts { s.lif.uCounts with crc := min 65535 (s.lif.uCounts.crc + 1) })) ∧
    (sound → s.kindAction f.kind = .drop → Ends c s) ∧
    (sound → s.kindAction f.kind = .pass → f.dst = 1 → f.kind ≠ 0x01 → Ends c s) ∧
    (sound → f.dst = 1 → f.kind = 0x01 → data.length < 2 → Ends c s) ∧
    (sound → f.dst = 1 → f.kind = 0x01 → ∀ tag b content, data = tag :: b :: content →
      c = exec (.mreq
        { tag := tag, part := b.toNat % 8, last := b.getLsbD 7, content := content
          reads := match f.reads with
                   | .request r => some r
                   | _ => none }) s) ∧
    (sound → s.kindAction f.kind = .pass → f.dst ≠ 1 → gated →
      Ends c
        (if s.lif.replies.length < 8 then
          { s with lif := { s.lif with
            stamp := s.lif.stamp + 1
            replies := s.lif.replies ++
              [ (s.lif.stamp
                , { tag := 0, part := 0, last := true, op := 0, answer := { result := .owned, data := .gate f.kind f.dst } }) ] } }
        else overrun)) ∧
    (sound → s.kindAction f.kind = .pass → f.dst ≠ 1 → ¬gated →
      Ends c
        (if s.lif.ufQueue.length < 8 then { s with lif := { s.lif with ufQueue := s.lif.ufQueue ++ [down] } } else overrun))

/-- The ends of transmissions (R168, R157, R143): a terminal's frame waiting mark clears unless another of its frames waits, and
after the step, in which its next frame may have been made, it is set just while one of its frames is on its way out; a sent alarm
tile shows its entry. Each transmitter takes what comes next, here and at the closing of every step (`Settles`, `Closes`): a drive
frame, then the part's other own frames, then the forward queue; on the U-port the frame that became ready first among the oldest
reply, the oldest notice when no reply waits, and the oldest forwarded frame. Until the OK reply of a RESTART has been sent the
F-port takes no frame; then it takes the drive 0 frames and the ABORTs (R176, R78). That the reply has been sent when its
transmission has ended is the model's reading (log entry 11). So is that the end of the transmission sets the shown flag, once
more after the making of the frame (log entry 13), and so is what became ready first, read off the stamps that replies, notices
and forwarded frames take as they join their queues (log entry 32). -/
def Obligations.TransmittersTakeTheirNextFrame : Prop :=
  let restarts (m : Mrep) : Prop := m.op = 17 ∧ m.answer.result = .ok
  let held (l : Lif) : Prop := ∃ m, restarts m ∧ (l.uTx = some (.reply m) ∨ ∃ k, (k, m) ∈ l.replies)
  (∀ l : Lif,
    (l.restartUnsent = true ↔ held l) ∧
    (∀ d r, l.drives = d :: r → (pickF l).fTx = some (.drive d)) ∧
    (∀ o r, l.drives = [] → l.own = o :: r → (pickF l).fTx = some (.own o)) ∧
    (∀ f r, l.drives = [] → l.own = [] → l.ufQueue = f :: r → (pickF l).fTx = some (.forwarded f)) ∧
    (l.drives = [] → l.own = [] → l.ufQueue = [] → (pickF l).fTx = l.fTx) ∧
    (∀ k m r, l.replies = (k, m) :: r →
      (l.fuQueue = [] → (pickU l).uTx = some (.reply m)) ∧
      ∀ j f q, l.fuQueue = (j, f) :: q → (pickU l).uTx = some (if j < k then .forwarded f else .reply m)) ∧
    (∀ k n r, l.replies = [] → l.notices = (k, n) :: r →
      (l.fuQueue = [] → (pickU l).uTx = some (.notice n)) ∧
      ∀ j f q, l.fuQueue = (j, f) :: q → (pickU l).uTx = some (if j < k then .forwarded f else .notice n)) ∧
    (∀ j f r, l.replies = [] → l.notices = [] → l.fuQueue = (j, f) :: r → (pickU l).uTx = some (.forwarded f)) ∧
    (l.replies = [] → l.notices = [] → l.fuQueue = [] → (pickU l).uTx = l.uTx)) ∧
  ∀ s : State, s.ccs.inReset = false →
    (let free : State := { s with lif := { s.lif with fTx := none } }
     let x : State :=
      match s.lif.fTx with
      | some (.own o) =>
        let u :=
          match o.role with
          | .term k => free.modTerm k fun y => { y with frameWaiting := decide (∃ p ∈ s.lif.own, p.role = .term k) }
          | .head _ | .feedIn | .feedOut | .track | .heater | .pull | .other | .unassigned => free
        match o.body with
        | .screenTile _ _ _ _ (.alarm code scope) _ =>
          { u with alc := { u.alc with
            list := u.alc.list.map fun e => if e.code = code ∧ e.scope = scope then { e with shown := true } else e } }
        | _ => u
      | _ => free
     ∃ t, exec .fPortFrameSent s = .next t ∧ Closes x t ∧
      (∀ k o, s.lif.fTx = some (.own o) → o.role = .term k →
        ((t.term k).frameWaiting = true ↔ ∃ p ∈ t.ownLine, p.role = .term k)) ∧
      (held s.lif → t.lif.fTx = none) ∧
      (¬held s.lif →
        (∀ d l, s.lif.drives = d :: l → t.lif.fTx = some (.drive d)) ∧
        (∀ o l, s.lif.drives = [] → s.lif.own = o :: l → t.lif.fTx = some (.own o)) ∧
        ∀ f l, s.lif.drives = [] → s.lif.own = [] → s.lif.ufQueue = f :: l →
          t.lif.fTx = some (.forwarded f) ∨ ∃ o, t.lif.fTx = some (.own o) ∧ o.body.isScreen = true)) ∧
    (∃ t, exec .uPortFrameSent s = .next t ∧
      Replied { s with lif := pickU { s.lif with uTx := none } } [] t ∧
      (∀ m, s.lif.fTx = none → s.lif.uTx = some (.reply m) → restarts m → (∀ r ∈ s.lif.replies, ¬restarts r.2) →
        (∀ d l, s.lif.drives = d :: l → t.lif.fTx = some (.drive d)) ∧
        ∀ o l, s.lif.drives = [] → s.lif.own = o :: l → t.lif.fTx = some (.own o)) ∧
      (∀ k m l, s.lif.replies = (k, m) :: l →
        (s.lif.fuQueue = [] → t.lif.uTx = some (.reply m)) ∧
        ∀ j f l', s.lif.fuQueue = (j, f) :: l' → t.lif.uTx = some (if j < k then .forwarded f else .reply m)) ∧
      (∀ k n l, s.lif.replies = [] → s.lif.notices = (k, n) :: l →
        (s.lif.fuQueue = [] → t.lif.uTx = some (.notice n)) ∧
        ∀ j f l', s.lif.fuQueue = (j, f) :: l' → t.lif.uTx = some (if j < k then .forwarded f else .notice n)) ∧
      ∀ j f l, s.lif.replies = [] → s.lif.notices = [] → s.lif.fuQueue = (j, f) :: l → t.lif.uTx = some (.forwarded f))

/-- What a terminal is shown. The next frame for it (R157, R143), and TILE_INTERVAL_EXPIRY, which has it made: none while a frame
waits or the terminal is out of service; the pending page, then the message line, then the first tile of the dirty set that may be
sent now and whose text, tag or forced mark asks for it; members that ask for nothing leave the set as they are passed. The
refresh (R156): each tile of the current page whose text or tag differs from what was last sent joins the dirty set, which
otherwise keeps its members and their forced marks. A raise (R156): the tiles of the current page that show the alarm at the list
position the entry holds join it with the forced mark. What a tile shows (R153, R154): the text of its value in its format, always
as long as the tile is wide, and the value's tag; the catalogue of 32 values with their tags. The closing of every step
(`Settles`) refreshes the tiles, then makes the frames of TERM1 to TERM4, then starts the free transmitters. The tag NONE of
values 14 to 16 while BOND is empty is the model's reading (log entry 28), as are the slot that value 19 shows while an ejection
is in flight, that of the last search (log entry 42) and the order of the closing of a step (log entry 12). -/
def Obligations.TerminalFramesAreMadeOneAtATime : Prop :=
  (∀ x : State,
    refreshTiles x = { x with tmc := { x.tmc with terms := (refreshTiles x).tmc.terms } } ∧
    makeFrames x = makeFrame .t4 (makeFrame .t3 (makeFrame .t2 (makeFrame .t1 (refreshTiles x)))) ∧
    finish x = kick (makeFrames x)) ∧
  (∀ (k : Term) (s : State),
    let x := s.term k
    let last (i : Nat) : Option Sent := (x.lastSent.find? fun y => y.1 == i).map (·.2)
    let waits (i : Nat) : Bool := (last i).any fun v => decide ((s.ccs.timebase - v.time).toNat < (s.tile i).interval * 100)
    let same (i : Nat) : Bool := (last i).any fun v => decide (v.text = (s.tileNow i).1 ∧ v.tag = (s.tileNow i).2)
    let quiet (m : Nat × Bool) : Prop := waits m.1 = true ∨ same m.1 = true ∧ m.2 = false
    (s.ccs.inReset = false →
      exec (.tileIntervalExpiry k) s = .next (finish (makeFrame k s)) ∧ Ends (exec (.tileIntervalExpiry k) s) (makeFrame k s)) ∧
    (s.addrOf (.term k) = none ∨ x.frameWaiting = true → makeFrame k s = s) ∧
    ∀ a, s.addrOf (.term k) = some a → x.frameWaiting = false →
      let send (b : OwnBody) (t : State) : State :=
        { t with lif := { t.lif with own := t.lif.own ++ [{ role := .term k, dst := BitVec.ofNat 8 a, body := b }] } }
      (x.pagePending = true →
        makeFrame k s = send (.screenPage x.page) (s.modTerm k fun _ => { x with pagePending := false, frameWaiting := true })) ∧
      (x.pagePending = false → x.messagePending = true →
        makeFrame k s = send (.screenMessage x.message) (s.modTerm k fun _ => { x with messagePending := false, frameWaiting := true })) ∧
      (x.pagePending = false → x.messagePending = false → (∀ m ∈ x.dirty, quiet m) →
        makeFrame k s = s.modTerm k fun _ => { x with dirty := x.dirty.filter fun m => waits m.1 }) ∧
      (x.pagePending = false → x.messagePending = false → ∀ p i forced rest, x.dirty = p ++ (i, forced) :: rest →
        (∀ m ∈ p, quiet m) → waits i = false → (forced = true ∨ same i = false) →
        let e := s.tile i
        let now := s.tileNow i
        let y : TermState :=
          { x with dirty := (p.filter fun m => waits m.1) ++ rest, frameWaiting := true
                   lastSent := (i, { text := now.1, tag := now.2, time := s.ccs.timebase }) ::
                     x.lastSent.filter (fun z => z.1 != i) }
        let t := send (.screenTile i e.row e.column e.width now.2 now.1) (s.modTerm k fun _ => y)
        makeFrame k s =
          match now.2 with
          | .alarm code scope =>
            if e.value = 30 then
              { t with alc := { t.alc with
                list := t.alc.list.map fun a => if a.code = code ∧ a.scope = scope then { a with shown := true } else a } }
            else t
          | .none | .strip _ | .unit _ _ | .head _ | .program _ | .slot _ => t)) ∧
  (∀ (k : Term) (s : State),
    let x := s.term k
    let page := s.tmc.pages.getD x.page {}
    let shown : List Nat := if page.valid then List.range' page.firstTile page.tileCount else []
    let same (i : Nat) : Prop := ∃ v, (x.lastSent.find? fun y => y.1 == i).map (·.2) = some v ∧ (v.text, v.tag) = s.tileNow i
    let member (d : List (Nat × Bool)) (i : Nat) : Prop := ∃ f, (i, f) ∈ d
    s.pageTiles x.page = shown ∧
    (let y := (refreshTiles s).term k
     (s.addrOf (.term k) = none → y = x) ∧
     (s.addrOf (.term k) ≠ none →
       y = { x with dirty := y.dirty } ∧ (∀ i, member y.dirty i ↔ member x.dirty i ∨ i ∈ shown ∧ ¬same i) ∧
       (∀ i, (i, true) ∈ y.dirty ↔ (i, true) ∈ x.dirty) ∧
       ((x.dirty.Pairwise fun a b => a.1 < b.1) → y.dirty.Pairwise fun a b => a.1 < b.1))) ∧
    ∀ (code : AlarmCode) (scope : AlarmScope) (detail p : Nat),
      let n := s.alc.list.length
      (∃ e, s.lists code scope p e) ∨
        s.unlists code scope ∧
          (n < 32 ∧ p = n ∨ 32 ≤ n ∧ p = n - 1 ∧ ∃ e ∈ s.alc.list, e.state ≠ .active ∨ isStop e.code = false) →
      let y := (raiseAlarm code scope detail s).term k
      let forced (i : Nat) : Prop :=
        s.addrOf (.term k) ≠ none ∧ i ∈ shown ∧ (s.tile i).value = 30 ∧ (s.tile i).operand = p
      y = { x with dirty := y.dirty } ∧ (∀ i, member y.dirty i ↔ member x.dirty i ∨ forced i) ∧
      ∀ i, (i, true) ∈ y.dirty ↔ (i, true) ∈ x.dirty ∨ forced i) ∧
  (∀ (f : TileFormat) (width : Nat) (v : TileValue), (formatValue f width v).length = width) ∧
  (∀ (f : TileFormat) (width : Nat), formatValue f width .notValid = List.replicate width '-') ∧
  (∀ (f : TileFormat) (width : Nat) (name : List Char),
    formatValue f width (.name name) =
      if width < name.length then List.replicate width '*' else name ++ List.replicate (width - name.length) ' ') ∧
  (∀ (k width : Nat) (n : Int), n.natAbs < 10 ^ 20 →
    let digits := Nat.toDigits 10 n.natAbs
    let full := List.replicate (k + 1 - digits.length) '0' ++ digits
    let magnitude := if k = 0 then full else full.take (full.length - k) ++ '.' :: full.drop (full.length - k)
    let text := if n < 0 then '-' :: magnitude else magnitude
    formatValue (.decimal k) width (.number n) =
      if width < text.length then List.replicate width '*' else List.replicate (width - text.length) ' ' ++ text) ∧
  ∀ s : State,
    let shows (v o : Nat) (x : TileValue) (g : DisplayTag) : Prop := s.catalogue v o = (x, g)
    let named (name : String) : TileValue := .name name.toList
    let maybe (n : Option Nat) : TileValue := n.elim .notValid fun n => .number n
    let strip (r : StripRecord) : DisplayTag := .strip (BitVec.ofNat 7 r.seq)
    let atBond : DisplayTag := s.trc.bond.elim .none strip
    (∀ i, s.tileNow i =
      (formatValue (s.tile i).format (s.tile i).width (s.catalogue (s.tile i).value (s.tile i).operand).1,
        (s.catalogue (s.tile i).value (s.tile i).operand).2)) ∧
    shows 0 0 (.number (s.ccs.timebase.toNat / 1000 : Nat)) .none ∧
    shows 1 0 (named (match s.ccs.cell with
      | .stopped => "STOPPED" | .ready => "READY" | .run => "RUN" | .drain => "DRAIN")) .none ∧
    (∀ (o : Nat) (h : Head), (o, h) ∈ [(0, Head.a), (1, Head.b)] →
      let c := s.head h
      let letter (on : Bool) (l : Char) : Char := if on then l else '.'
      shows 2 o (named (match c.state with
        | .off => "OFF" | .idle => "IDLE" | .parked => "PARKED" | .moving => "MOVING" | .bonding => "BONDING"
        | .forming => "FORMING" | .hold => "HOLD" | .fault => "FAULT")) (.head h) ∧
      shows 3 o (.name
        [ letter c.hold.operator 'O', letter c.hold.cell 'C', letter c.hold.heat 'H', letter c.hold.nsb 'N', letter c.hold.alarm 'A'
        , letter c.hold.program 'P', letter c.hold.faultCleared 'F' ]) (.head h) ∧
      shows 4 o (.number c.bonded) (.head h) ∧
      (s.claimOf h = none ∨ s.trc.bond = none → shows 5 o .notValid (.head h) ∧ shows 6 o .notValid (.head h)) ∧
      (∀ u r, s.claimOf h = some u → s.trc.bond = some r →
        shows 5 o (.number r.seq) (strip r) ∧ shows 6 o (.number u) (.unit (BitVec.ofNat 7 r.seq) (BitVec.ofNat 6 u))) ∧
      shows 7 o (named (match (s.chan h).state with
        | .disabled => "DISABLED" | .idle => "IDLE" | .startup => "STARTUP" | .regulate => "REGULATE" | .tripped => "TRIPPED"))
        (.head h) ∧
      shows 8 o (maybe ((s.chan h).lastSummary.map (·.energy))) (.head h) ∧
      shows 9 o (maybe ((s.chan h).lastSummary.map (·.peak))) (.head h)) ∧
    shows 10 0 (maybe s.trc.heat.lastTemp) .none ∧
    shows 11 0 (named (match s.trc.heat.state with
      | .notReady => "NOTREADY" | .settling => "SETTLING" | .ready => "READY")) .none ∧
    (∀ (o : Nat) (p : Position), (o, p) ∈ [(0, Position.preheat), (1, .bond), (2, .post)] →
      (s.strip p = none → shows 12 o .notValid .none ∧ shows 13 o .notValid .none) ∧
      ∀ r, s.strip p = some r →
        shows 12 o (.number r.seq) (strip r) ∧
        shows 13 o (named (if r.scrapped then "SCRAPPED" else match r.state with
          | .idHold => "ID_HOLD" | .preheat => "PREHEAT" | .waitBond => "WAITBOND" | .bonding => "BONDING"
          | .checking => "CHECKING" | .released => "RELEASED" | .pulling => "PULLING" | .done => "DONE"
          | .ejecting => "EJECTING")) (strip r)) ∧
    shows 14 0 (maybe (s.usc.units.map fun l => (l.filter fun x => decide (x.state = .pending ∨ x.state = .claimed)).length)) atBond ∧
    shows 15 0 (maybe (s.trc.bond.map (·.wiresMissed))) atBond ∧
    shows 16 0 (maybe (s.vcu.pendingWire.map fun x => x.1 * 1000 + x.2)) atBond ∧
    shows 17 0 (named (match s.fdc.mag with
      | .absent => "ABSENT" | .scanning => "SCANNING" | .ready => "READY" | .feeding => "FEEDING" | .exhausted => "EXHAUST")) .none ∧
    (let slot := s.fdc.pendingSlot.or s.nextSlot
     shows 18 0 (maybe slot) (slot.elim .none fun n => .slot (BitVec.ofNat 6 n))) ∧
    shows 19 0 (maybe (if s.fdc.out = .ready then s.fdc.outNext else none)) .none ∧
    shows 20 0 (named (match s.fdc.out with
      | .absent => "ABSENT" | .ready => "READY" | .full => "FULL")) .none ∧
    shows 21 0 (.number s.plm.log.length) .none ∧
    (∀ p < 8,
      let x := s.plm.stats.getD p {}
      let tag : DisplayTag := .program (BitVec.ofNat 3 p)
      shows 22 p (.number x.n) tag ∧
      shows 23 p (maybe (if x.n = 0 then none else some (x.sum / x.n))) tag ∧
      (x.n < 2 → shows 24 p .notValid tag ∧ shows 26 p .notValid tag) ∧
      (2 ≤ x.n → ∀ d,
        let q := (x.n * x.sumSq - x.sum * x.sum) / (x.n * (x.n - 1))
        d * d ≤ q → q < (d + 1) * (d + 1) →
        shows 24 p (.number d) tag ∧ shows 26 p (.number ((x.sum / x.n : Nat) - 3 * (d : Int))) tag) ∧
      shows 25 p (maybe x.min) tag ∧
      shows 27 p (named (match s.plm.progState.getD p .running with
        | .running => "RUNNING" | .held => "HELD")) tag ∧
      let e := s.program p
      ∀ (f : Nat) (v : Int),
        [ if e.valid then 1 else 0, (e.firstWire : Int), e.wireCount, e.rows, e.columns, e.pitchX, e.pitchY, e.originX, e.originY
        , e.guard ][f]? = some v → shows 28 (p * 16 + f) (.number v) tag) ∧
    shows 29 0 (.number s.alc.list.length) .none ∧
    (∀ k, s.alc.list[k]? = none → shows 30 k .notValid .none) ∧
    (∀ (k : Nat) (e : AlarmEntry), s.alc.list[k]? = some e →
      let code := match e.code with
        | .slotMismatch => "SLOTMIS" | .inputEmpty => "INEMPTY" | .idMismatch => "IDMIS" | .feedJam => "FEED_JAM"
        | .outputFull => "OUTFULL" | .trackJam => "TRACKJAM" | .heatSignal => "HEATSIG" | .heatNotReady => "HEATNRDY"
        | .headFault => "HEADFLT" | .nsop => "NSOP" | .nsol => "NSOL" | .missedWire => "MISSWIRE" | .pullTimeout => "PULLTMO"
        | .pullStation => "PULLSTN" | .pullFail => "PULLFAIL" | .pullCapability => "PULLCAP" | .pullLogFull => "LOGFULL"
        | .estop => "ESTOP"
      let state := match e.state with
        | .active => "ACT" | .activeAcked => "ACK" | .cleared => "CLR"
      shows 30 k (.name (code.toList ++ ' ' :: state.toList)) (.alarm e.code e.scope)) ∧
    ∀ (k n : Nat),
      [ s.lif.uCounts.crc, s.lif.uCounts.length, s.lif.uCounts.overrun, s.lif.fCounts.crc, s.lif.fCounts.length
      , s.lif.fCounts.overrun ][k]? = some n → shows 31 k (.number n) .none

/-- Requests and their replies (R168, R169, R170, 11.9). The numbers of the operations, those of a request that LIF refuses echoed
as they came, and what LIF itself refuses; the parts of a reply, 58 content bytes to a frame, numbered from 0, the last alone with
LAST; the 8 places of the reply list; and the taking of a request: the oldest leaves the queue and the rest keeps its order, and
with the queue empty it is taken as it comes, which is the model's choice (log entry 10). A management command whose request is
taken and whose reply has room is applied whole and answered; while another request is the oldest, or the reply list has no room,
nothing but what LIF answers itself happens. LIF answers its own requests oldest first as they come to be the oldest, whether as
they join the queue or when the request before them has been taken, while the reply list has room: BAD_OP, BAD_TABLE or BAD_VALUE,
the first byte of the content echoed. That it queues them at all is the model's reading (log entry 34). MREQ: the gathering of a
request from its parts, the request queue of 4, BUSY, and BAD_VALUE for a frame that does not go on with the gathering. Its
operation, like that of a request with no content, the manual does not give (log entry 5); nor does it give the bytes of most
reply data (log entry 4). -/
def Obligations.RequestsAreGatheredThenQueued : Prop :=
  (∀ r : Request, (opNumber r, lifAnswer r) =
    match r with
    | .tableWrite _ => (1, none)
    | .tableRead _ _ _ _ => (2, none)
    | .cellCmd _ => (3, none)
    | .headOp _ _ => (4, none)
    | .stripOp _ => (5, none)
    | .slotOp _ _ => (6, none)
    | .programRelease _ => (7, none)
    | .pullAdd _ _ _ => (8, none)
    | .pullRead _ => (9, none)
    | .pullRelease _ => (10, none)
    | .statsRead _ => (11, none)
    | .statsReset _ => (12, none)
    | .alarmRead _ _ => (13, none)
    | .alarmAck _ _ => (14, none)
    | .statusRead _ => (15, none)
    | .countersClear => (16, none)
    | .restart => (17, none)
    | .unknownOperation op => (op, some .badOp)
    | .unknownTable op => (op, some .badTable)
    | .malformed op => (op, some .badValue)) ∧
  (∀ bytes n : Nat, framesFor bytes ≤ n ↔ bytes ≤ 58 * n) ∧
  (∀ (op : Byte) (arg : Nat) (l : List PullRecord) (k d : Byte),
    dataBytes op arg .none = 0 ∧ dataBytes op arg (.gate k d) = 2 ∧ dataBytes op arg (.pullRecords l) = 64 * l.length) ∧
  (∀ (tag : Byte) (r : Request) (a : Answer),
    let n := framesFor (3 + dataBytes (opNumber r) (sizeArg r) a.data)
    (answerFrames tag r a).length = n ∧
    ∀ i < n, (answerFrames tag r a)[i]? =
      some { tag := tag, part := i, last := decide (i + 1 = n), op := opNumber r, answer := a }) ∧
  (∀ (n : Nat) (s : State), s.replyRoom n = true ↔ s.lif.replies.length + n ≤ 8) ∧
  (∀ (tag : Byte) (r : Request) (s : State),
    (s.lif.requests = [] → s.takeRequest tag r = some s) ∧
    (∀ l, s.lif.requests = (tag, r) :: l → s.takeRequest tag r = some { s with lif := { s.lif with requests := l } }) ∧
    ∀ q l, s.lif.requests = q :: l → q ≠ (tag, r) → s.takeRequest tag r = none) ∧
  (∀ (n : Nat) (q : Byte × Request) (l : List (Byte × Request)),
    lifReplies n [] = ([], []) ∧ lifReplies 0 l = ([], l) ∧
    (lifAnswer q.2 = none → lifReplies n (q :: l) = ([], q :: l)) ∧
    ∀ code, lifAnswer q.2 = some code → lifReplies (n + 1) (q :: l) =
      ({ tag := q.1, part := 0, last := true, op := opNumber q.2, answer := { result := code } } :: (lifReplies n l).1
      , (lifReplies n l).2)) ∧
  (∀ (x : State) (n : Nat), x.lifGoesOn n = lifReplies (min 4 (8 - (x.lif.replies.length + n))) x.lif.requests) ∧
  (∀ (c : Instr) (tag : Byte) (r : Request), carries c = some (tag, r) → ∃ f : State → Served, ∀ s : State, s.ccs.inReset = false →
    (∀ u, s.takes tag r (f u).2 u →
      let x := (f u).1
      let frames := answerFrames tag r (f u).2
      Answers (exec c s) tag r x (f u).2 ∧
      ∀ t, exec c s = .next t → ∀ own op l code, x.lif.requests = (own, op) :: l → lifAnswer op = some code →
        x.lif.replies.length + frames.length < 8 →
        t.lif.requests <:+ l ∧ ∃ m, t.replyLine = x.replyLine ++ frames ++
          { tag := own, part := 0, last := true, op := opNumber op, answer := { result := code } } :: m) ∧
    ((∀ u, ¬s.takes tag r (f u).2 u) →
      ∃ t, exec c s = .next t ∧ Replied s [] t ∧ ((∀ q l, s.lif.requests = q :: l → lifAnswer q.2 = none) → Closes s t))) ∧
  ∀ (f : MreqFrame) (s : State), s.ccs.inReset = false →
    let c := exec (.mreq f) s
    let clear : State := { s with lif := { s.lif with gathering := none } }
    let reply (u : State) (op : Byte) (code : ResultCode) : State :=
      if u.lif.replies.length < 8 then
        { u with lif := { u.lif with
          stamp := u.lif.stamp + 1
          replies := u.lif.replies ++
            [(u.lif.stamp, { tag := f.tag, part := 0, last := true, op := op, answer := { result := code } })] } }
      else { u with lif := { u.lif with uCounts := { u.lif.uCounts with overrun := min 65535 (u.lif.uCounts.overrun + 1) } } }
    let goes (part : Nat) (content : List Byte) : Prop := ∃ op : Byte,
      let r := f.reads.getD (.malformed (content.headD op))
      let clear : State := if f.reads = none ∧ content = [] then { clear with free := s.free + 1 } else clear
      if f.last then
        if s.lif.requests.length < 4 then
          ∃ t, c = .next t ∧ Replied { clear with lif := { clear.lif with requests := s.lif.requests ++ [(f.tag, r)] } } [] t ∧
            (s.lif.requests = [] → s.lif.replies.length < 8 →
              (∀ n, r = .unknownOperation n → Closes (reply clear n .badOp) t) ∧
              (∀ n, r = .unknownTable n → Closes (reply clear n .badTable) t) ∧
              ∀ n, r = .malformed n → Closes (reply clear n .badValue) t)
        else Ends c (reply clear (opNumber r) .busy)
      else Ends c { s with lif := { s.lif with gathering := some { tag := f.tag, part := part, content := content } } }
    let bad : Prop := ∃ op, Ends c (reply { clear with free := s.free + 1 } op .badValue)
    (f.part = 0 → goes 0 f.content) ∧
    (f.part ≠ 0 → s.lif.gathering = none → bad) ∧
    ∀ g, s.lif.gathering = some g →
      (f.part ≠ 0 → f.tag = g.tag → f.part = g.part + 1 → (f.part < 7 ∨ f.last = true) → goes f.part (g.content ++ f.content)) ∧
      (f.part ≠ 0 → (f.tag ≠ g.tag ∨ f.part ≠ g.part + 1 ∨ 7 ≤ f.part ∧ f.last = false) → bad)

/-! ### The tables (R2, R42 to R45, R80, R81, R113, R114, R150 to R152, R163, R164, R170, R171) -/

/-- The checks on an entry of the lot, program, wire and recipe tables (R2, R42, R43, R80), with the in-use rule (R44). -/
def Obligations.FeedAndBondEntriesAreChecked : Prop :=
  ∀ s : State,
    let used (p : Nat) : Prop := (∃ r ∈ s.strips, r.program = p) ∨ ∃ x, s.fdc.push = some x ∧ x.program = p
    let covers (p i : Nat) : Prop := (s.program p).firstWire ≤ i ∧ i < (s.program p).firstWire + (s.program p).wireCount
    let names (p k : Nat) : Prop :=
      ∃ i w, covers p i ∧ s.usc.wires[i]? = some w ∧ (w.ballRecipe = k ∨ w.stitchRecipe = k)
    let answers (c : Option ResultCode) (busy fits : Prop) : Prop :=
      (busy → c = some .inUse) ∧ (¬busy → ¬fits → c = some .badValue) ∧ (¬busy → fits → c = none)
    (∀ e : LotWrite, answers (checkLot s e) False
      (e.expected ≠ none ∧ (∀ p, e.program = some p → p < 8) ∧
       (e.expected = some .occupied → ∃ p, e.program = some p ∧ (s.program p).valid = true) ∧
       (e.program = none → e.skip = 0) ∧
       ∀ t, e.code = some t → t.length ≤ 16 ∧ ∀ b ∈ t, 0x20 ≤ b.toNat ∧ b.toNat ≤ 0x7E)) ∧
    (∀ (p : Nat) (e : ProgramEntry), answers (checkProgram s p e) (used p)
      (e.valid = true →
        e.firstWire ≤ 1535 ∧ 1 ≤ e.wireCount ∧ e.wireCount ≤ 384 ∧ 1 ≤ e.rows ∧ e.rows ≤ 8 ∧ 1 ≤ e.columns ∧ e.columns ≤ 16 ∧
        1 ≤ e.pitchX ∧ e.pitchX ≤ 65535 ∧ 1 ≤ e.pitchY ∧ e.pitchY ≤ 65535 ∧ -1000000 ≤ e.originX ∧ e.originX ≤ 1000000 ∧
        -1000000 ≤ e.originY ∧ e.originY ≤ 1000000 ∧ e.guard ≤ 3 ∧ e.rows * e.columns ≤ 64 ∧ e.firstWire + e.wireCount ≤ 1536 ∧
        ∀ i w, e.firstWire ≤ i → i < e.firstWire + e.wireCount → s.usc.wires[i]? = some w →
          w.valid = true ∧ (s.recipe w.ballRecipe).valid = true ∧ (s.recipe w.stitchRecipe).valid = true)) ∧
    (∀ (i : Nat) (e : WireEntry), answers (checkWire s i e) (∃ p < 8, used p ∧ covers p i)
      (-32768 ≤ e.x1 ∧ e.x1 ≤ 32767 ∧ -32768 ≤ e.y1 ∧ e.y1 ≤ 32767 ∧ -32768 ≤ e.x2 ∧ e.x2 ≤ 32767 ∧ -32768 ≤ e.y2 ∧
       e.y2 ≤ 32767 ∧ e.dieLevel ≤ 3 ∧ e.loopCode ≤ 15 ∧ e.ballRecipe ≤ 31 ∧ e.stitchRecipe ≤ 31 ∧
       ((∃ p < 8, (s.program p).valid = true ∧ covers p i) →
         e.valid = true ∧ (s.recipe e.ballRecipe).valid = true ∧ (s.recipe e.stitchRecipe).valid = true))) ∧
    ∀ (k : Nat) (e : RecipeEntry), answers (checkRecipe s k e) (∃ p < 8, used p ∧ names p k)
      (if e.valid then
        let segments := [e.seg1, e.seg2, e.seg3, e.seg4].take e.segCount
        1 ≤ e.segCount ∧ e.segCount ≤ 4 ∧ (∀ g ∈ segments, g.setpoint ≤ 4095 ∧ 1 ≤ g.length ∧ g.length ≤ 4095) ∧
        2 ≤ (segments.map (·.length)).sum ∧ e.baseDrive ≤ 1023 ∧ e.kp ≤ 65535 ∧ e.kpShift ≤ 15 ∧ e.ki ≤ 65535 ∧ e.kiShift ≤ 15 ∧
        e.epStart ≤ 255 ∧ e.ep ≤ 255 ∧ e.en ≤ 255 ∧ e.imax ≤ 8388607 ∧ e.dlow ≤ e.dhigh ∧ e.dhigh ≤ 1023 ∧ 1 ≤ e.sstep ∧
        e.sstep ≤ 255 ∧ 1 ≤ e.tstart ∧ e.tstart ≤ 255 ∧ e.ftrip ≤ 4095 ∧ 1 ≤ e.ntrip ∧ e.ntrip ≤ 15 ∧ e.emin ≤ e.emax ∧
        e.emax ≤ 4294967295 ∧ e.defMin ≤ 1023 ∧ 1 ≤ e.bondForce ∧ e.bondForce ≤ 255 ∧ e.retryCount ≤ 2
      else ¬∃ p < 8, (s.program p).valid = true ∧ names p k)

/-- The checks on an entry of the plan, limits, cell parameter, kind and terminal tables (R113, R114, R171, R163, R150). -/
def Obligations.PullAndCellEntriesAreChecked : Prop :=
  let answers (c : Option ResultCode) (fits : Prop) : Prop := (¬fits → c = some .badValue) ∧ (fits → c = none)
  (∀ e : PlanEntry, answers (checkPlan e)
    (e.valid = true →
      e.interval ≤ 255 ∧ e.units.length ≤ 4 ∧ (∀ u ∈ e.units, u ≤ 63) ∧ e.units.Nodup ∧ e.wires.length ≤ 8 ∧
      (∀ w ∈ e.wires, w ≤ 383) ∧ e.wires.Nodup)) ∧
  (∀ e : LimitsEntry, answers (checkLimits e)
    (e.valid = true →
      (∀ m ∈ [e.m1, e.m2, e.m3, e.m4, e.m5], m.minForce ≤ 65000) ∧ 1 ≤ e.failLimit ∧ e.failLimit ≤ 8 ∧ 2 ≤ e.capCount ∧
      e.capCount ≤ 255 ∧ e.capLimit ≤ 65000)) ∧
  (∀ (i : Nat) (v : ParamValue), answers (checkParam i v)
    ((∃ n, v = .number n ∧
       (i = 0 ∧ n ≤ 5000 ∨ i = 1 ∧ 1 ≤ n ∧ n ≤ 200 ∨ i = 2 ∧ n ≤ 100 ∨ i = 3 ∧ 1 ≤ n ∧ n ≤ 50 ∨ i = 4 ∧ n ≤ 60000 ∨
        (i = 7 ∨ i = 9) ∧ n ≤ 39)) ∨
     (∃ p, v = .policy p ∧ i = 5) ∨ ∃ d, v = .direction d ∧ (i = 6 ∨ i = 8))) ∧
  (∀ a : Option KindAction, answers (checkKind a) (a ≠ none)) ∧
  ∀ l : Option Level, answers (checkLevel l) (l ≠ none)

/-- The checks on an entry of the page, tile, key map and forwarding tables (R151, R152, R164), the last two made against the
table with the entries before it in the same write already stored; and the operands that each key action accepts (R160). Two of
them are the model's reading: the ranges of a page entry are checked even when it is not valid (log entry 19), and the fixed
operand of a key entry with source TAG is held to 0 to 255 alone (log entry 40). -/
def Obligations.ScreenAndForwardingEntriesAreChecked : Prop :=
  ∀ s : State,
    let answers (c : Option ResultCode) (fits : Prop) : Prop := (¬fits → c = some .badValue) ∧ (fits → c = none)
    let active (r : Role) : Prop :=
      let busy := s.ccs.cell = .run ∨ s.ccs.cell = .drain
      let moves (k : OpKind) := ∃ o, s.trc.op = some o ∧ o.kind = k
      match r with
      | .head h => (s.head h).state ≠ .off
      | .feedIn => busy ∨ s.fdc.push.isSome = true
      | .feedOut => busy ∨ moves .eject
      | .track => busy ∨ moves .movePb ∨ moves .moveBp
      | .pull => busy ∨ s.plm.req.isSome = true
      | .heater => busy
      | .term _ | .other | .unassigned => False
    let operands : KeyAction → Option Nat × Bool
      | .page => (some 15, false)
      | .pageNext => (some 0, false)
      | .pauseHead => (some 1, true)
      | .resumeHead => (some 1, true)
      | .clearFault => (some 1, true)
      | .pauseCell => (some 0, false)
      | .resumeCell => (some 0, false)
      | .ackAlarm => (none, true)
      | .skipUnit => (none, true)
      | .nsbResume => (none, true)
      | .waiveWire => (none, true)
      | .rebondWire => (none, true)
      | .releaseProgram => (some 7, true)
      | .acceptSlot => (some 39, true)
      | .skipSlot => (some 39, true)
      | .acceptId => (none, true)
    (∀ a : KeyAction, fixedMax a = (operands a).1 ∧ takesTag a = (operands a).2) ∧
    (∀ e : PageEntry, answers (checkPage s e)
      (e.firstTile ≤ 255 ∧ e.tileCount ≤ 24 ∧ e.keyMap ≤ 15 ∧
       (e.valid = true → e.firstTile + e.tileCount ≤ 256 ∧
         ∀ i, e.firstTile ≤ i → i < e.firstTile + e.tileCount → (s.tile i).valid = true))) ∧
    (∀ (i : Nat) (e : TileEntry), answers (checkTile s i e)
      (if e.valid then
        e.row ≤ 15 ∧ e.column ≤ 39 ∧ 1 ≤ e.width ∧ e.width ≤ 16 ∧ e.column + e.width ≤ 40 ∧ e.value ≤ 31 ∧ e.operand ≤ 255 ∧
        e.interval ≤ 50 ∧
        (e.value ∈ [2, 3, 4, 5, 6, 7, 8, 9] → e.operand ≤ 1) ∧ (e.value ∈ [12, 13] → e.operand ≤ 2) ∧
        (e.value ∈ [22, 23, 24, 25, 26, 27] → e.operand ≤ 7) ∧ (e.value = 28 → e.operand / 16 ≤ 7 ∧ e.operand % 16 ≤ 9) ∧
        (e.value = 30 → e.operand ≤ 31) ∧ (e.value = 31 → e.operand ≤ 5) ∧
        (e.value ∈ [0, 1, 10, 11, 14, 15, 16, 17, 18, 19, 20, 21, 29] → e.operand = 0) ∧
        (if e.value ∈ [1, 2, 3, 7, 11, 13, 17, 20, 27, 30] then e.format = .name else ∃ k ≤ 3, e.format = .decimal k)
      else ∀ p ∈ s.tmc.pages, p.valid = true → ¬(p.firstTile ≤ i ∧ i < p.firstTile + p.tileCount))) ∧
    (∀ (t : List KeyEntry) (i : Nat) (e : KeyEntry), answers (checkKey t i e)
      (e.valid = true →
        e.key ≤ 63 ∧ e.minLevel ≠ none ∧ e.fixed ≤ 255 ∧
        (∃ a, e.action = some a ∧
          (e.source = some .fixed ∧ (∃ m, fixedMax a = some m ∧ e.fixed ≤ m) ∨ e.source = some .tag ∧ takesTag a = true)) ∧
        ∀ j x, j / 16 = i / 16 → j ≠ i → t[j]? = some x → x.valid = true → x.key ≠ e.key)) ∧
    ∀ (t : List ForwardingEntry) (a : Nat) (e : ForwardingWrite),
      let named : Prop := e.role ≠ none ∧ (a = 0 ∨ a = 1 ∨ a = 63 → e.role = some .unassigned)
      ∀ r, r = (if e.valid then e.role.getD .unassigned else .unassigned) →
        let held : Prop := r ≠ .other ∧ r ≠ .unassigned ∧ ∃ b < t.length, b ≠ a ∧ roleIn t b = r
        let kept : Prop := roleIn t a ≠ r ∧ active (roleIn t a)
        (¬named → checkForwarding s t a e = some .badValue) ∧
        (named → held → checkForwarding s t a e = some .duplicate) ∧
        (named → ¬held → kept → checkForwarding s t a e = some .inUse) ∧
        (named → ¬held → ¬kept → checkForwarding s t a e = none)

/-- The writes of the tables that act on nothing but their entries, and of the cell parameters, where a write of the preheat dwell
is compared with the strip's dwell (R24): every check before any store, the first failing entry named, each entry as it is stored;
the lot table's IN_USE (R2); the ten cell parameters by their numbers (R171); and the tables that are read only (R170). The order
of the checks, a count of 0, then a number of entries that is not the count, then the range, with IN_USE of the lot table and
BAD_STATE of the read-only tables before them, is the model's reading (log entry 18), and so is what an entry written not valid
stores (log entry 19). -/
def Obligations.TableWritesStoreAllOrNothing : Prop :=
  (∀ p : Params, (List.range 10).map p.read =
    [ .number p.heatTarget, .number p.heatBand, .number p.heatHysteresis, .number p.settleCount, .number p.preheatDwell
    , .policy p.policy, .direction p.inDir, .number p.inStart, .direction p.outDir, .number p.outStart ]) ∧
  ∀ (s u : State) (tag : Byte) (first count : Nat),
    (∀ (l es : List Nat) (i j : Nat),
      (storeFrom l i es)[j]? = if i ≤ j ∧ j < i + es.length ∧ j < l.length then es[j - i]? else l[j]?) ∧
    (∀ es,
      (u.fdc.mag ≠ .absent → u.fdc.mag ≠ .exhausted →
        Serves (.tableWriteLot tag first count es) tag (.tableWrite (.lot first count es)) s u u .inUse) ∧
      (u.fdc.mag = .absent ∨ u.fdc.mag = .exhausted →
        Writes (.tableWriteLot tag first count es) tag (.lot first count es) s u 0 40 first count es.length
          (entryFault first es fun _ => checkLot u)
          { u with fdc := { u.fdc with
            lot := storeFrom u.fdc.lot first (es.map fun e =>
              { expected := e.expected.getD .empty, dontCare := e.dontCare, program := e.program, skip := e.skip, code := e.code }) } })) ∧
    (∀ es, Writes (.tableWriteProgram tag first count es) tag (.program first count es) s u 0 8 first count es.length
      (entryFault first es (checkProgram u))
      { u with usc := { u.usc with
        programs := storeFrom u.usc.programs first (es.map fun e => if e.valid then e else {}) } }) ∧
    (∀ es, Writes (.tableWriteWire tag first count es) tag (.wire first count es) s u 0 1536 first count es.length
      (entryFault first es (checkWire u))
      { u with usc := { u.usc with wires := storeFrom u.usc.wires first (es.map fun e => if e.valid then e else {}) } }) ∧
    (∀ es, Writes (.tableWriteRecipe tag first count es) tag (.recipe first count es) s u 0 32 first count es.length
      (entryFault first es (checkRecipe u))
      { u with
        recipes := storeFrom u.recipes first (es.map fun e =>
          if e.valid then
            { e with seg2 := if e.segCount < 2 then {} else e.seg2
                     seg3 := if e.segCount < 3 then {} else e.seg3
                     seg4 := if e.segCount < 4 then {} else e.seg4 }
          else {}) }) ∧
    (∀ es, Writes (.tableWritePlan tag first count es) tag (.plan first count es) s u 0 8 first count es.length
      (entryFault first es fun _ => checkPlan)
      { u with plm := { u.plm with plans := storeFrom u.plm.plans first (es.map fun e => if e.valid then e else {}) } }) ∧
    (∀ es, Writes (.tableWriteLimits tag first count es) tag (.limits first count es) s u 0 8 first count es.length
      (entryFault first es fun _ => checkLimits)
      { u with plm := { u.plm with limits := storeFrom u.plm.limits first (es.map fun e => if e.valid then e else {}) } }) ∧
    (∀ es, Writes (.tableWriteKind tag first count es) tag (.kind first count es) s u 64 256 first count es.length
      (entryFault first es fun _ => checkKind)
      { u with lif := { u.lif with
        kinds := storeFrom u.lif.kinds (first - 64) (es.map fun a => a.getD .pass) } }) ∧
    (∀ es,
      let p := putParams u.ccs.params first es
      Writes (.tableWriteCellParameter tag first count es) tag (.cellParameter first count es) s u 0 10 first count es.length
        (entryFault first es checkParam)
        { u with ccs := { u.ccs with params := p }
                 trc := { u.trc with preheat := u.trc.preheat.map fun r =>
                   if first ≤ 4 ∧ 4 < first + count ∧ r.state = .preheat ∧ r.scrapped = false ∧ p.preheatDwell ≤ r.dwell then
                     { r with state := .waitBond }
                   else r } } ∧
      ((∀ k v, es[k]? = some v → checkParam (first + k) v = none) → ∀ i < 10,
        p.read i = if first ≤ i then es.getD (i - first) (u.ccs.params.read i) else u.ccs.params.read i)) ∧
    Serves (.tableWriteUnit tag first count) tag (.tableWrite (.unit first count)) s u u .badState ∧
    Serves (.tableWriteCandidate tag first count) tag (.tableWrite (.candidate first count)) s u u .badState

/-- The writes of the forwarding, terminal, page, tile and key map tables (R164, R150, R151, R152), with the page changes (R158)
of the terminals whose role is assigned or moved (R161) or whose current page is touched (R151): a tile write touches the pages
whose range holds one of its tiles, valid or not. The order of the checks (log entry 18) and the storing of pages, tiles and keys
that are not valid as they were written (log entry 19) are the model's reading. -/
def Obligations.ScreenTableWritesRedrawTheirPages : Prop :=
  ∀ (s u : State) (tag : Byte) (first count : Nat),
    let each (f : Term → TermState → TermState) (t : State) : State :=
      { t with tmc := { t.tmc with terms := ⟨f .t1 t.tmc.terms.t1, f .t2 t.tmc.terms.t2, f .t3 t.tmc.terms.t3, f .t4 t.tmc.terms.t4⟩ } }
    let change (t : State) (p : Nat) (y : TermState) : TermState :=
      { y with page := p, lastSent := [], message := [], messagePending := false, pagePending := true
               dirty := (t.pageTiles p).map fun i => (i, false) }
    (∀ es,
      let t : State :=
        { u with lif := { u.lif with
          forwarding := storeFrom u.lif.forwarding first (es.map fun e =>
            if e.valid then { role := e.role.getD .unassigned, valid := true } else {}) } }
      Writes (.tableWriteForwarding tag first count es) tag (.forwarding first count es) s u 0 64 first count es.length
        (fun i => (es[i - first]?).bind
          (checkForwarding u (storeFrom u.lif.forwarding first ((es.take (i - first)).map fun e =>
            if e.valid then { role := e.role.getD .unassigned, valid := true } else {})) i))
        (each (fun k y =>
          match t.addrOf (.term k), u.addrOf (.term k) with
          | some a, old => if old = some a then y else change t 0 y
          | none, some _ => { y with dirty := [], pagePending := false, message := [], messagePending := false, lastSent := [] }
          | none, none => y) t)) ∧
    (∀ es,
      let level (i : Nat) (y : TermState) : TermState :=
        if first ≤ i then { y with level := ((es[i - first]?).getD (some y.level)).getD .view } else y
      Writes (.tableWriteTerminal tag first count es) tag (.terminal first count es) s u 0 4 first count es.length
        (entryFault first es fun _ => checkLevel)
        (each (fun k => level (match k with
          | .t1 => 0
          | .t2 => 1
          | .t3 => 2
          | .t4 => 3)) u)) ∧
    (∀ es,
      let t : State := { u with tmc := { u.tmc with pages := storeFrom u.tmc.pages first es } }
      Writes (.tableWritePage tag first count es) tag (.page first count es) s u 0 16 first count es.length
        (entryFault first es fun _ => checkPage u)
        (each (fun k y =>
          if u.addrOf (.term k) ≠ none ∧ first ≤ y.page ∧ y.page < first + count then change t y.page y else y) t)) ∧
    (∀ es,
      let t : State := { u with tmc := { u.tmc with tiles := storeFrom u.tmc.tiles first es } }
      Writes (.tableWriteTile tag first count es) tag (.tile first count es) s u 0 256 first count es.length
        (entryFault first es (checkTile u))
        (each (fun k y =>
          let p := u.tmc.pages.getD y.page {}
          if u.addrOf (.term k) ≠ none ∧ ∃ i ∈ List.range' p.firstTile p.tileCount, first ≤ i ∧ i < first + count then
            change t y.page y
          else y) t)) ∧
    ∀ es,
      Writes (.tableWriteKeyMap tag first count es) tag (.keyMap first count es) s u 0 256 first count es.length
        (fun i => (es[i - first]?).bind (checkKey (storeFrom u.tmc.keys first (es.take (i - first))) i))
        { u with tmc := { u.tmc with keys := storeFrom u.tmc.keys first es } }

/-- The reads of the fifteen tables (R2, R45, R48, R81, R113, R116, R150, R170): what each returns, and NOT_FOUND where there are
no unit records or no strip at the position. The bytes of an entry in a reply are a free value (log entry 4); one entry always
fits. That BAD_INDEX comes before BAD_VALUE is the model's reading (log entry 18), and that a unit record is given without the
rebond wire that the model keeps in it is its choice (log entry 43). -/
def Obligations.TableReadsReturnTheirEntries : Prop :=
  ∀ (s u : State) (tag : Byte) (first count : Nat),
    let req (t : TableName) : Request := .tableRead t none first count
    let rows {α : Type} (f : Nat → α) : List α := (List.range' first count).map f
    let used (p : Nat) : Prop := (∃ r ∈ u.strips, r.program = p) ∨ ∃ x, u.fdc.push = some x ∧ x.program = p
    let covers (p i : Nat) : Prop := (u.program p).firstWire ≤ i ∧ i < (u.program p).firstWire + (u.program p).wireCount
    let names (p k : Nat) : Prop :=
      ∃ i w, covers p i ∧ u.usc.wires[i]? = some w ∧ (w.ballRecipe = k ∨ w.stitchRecipe = k)
    (∀ t, 3 + 1 * entryBytes t ≤ 464) ∧ (∀ p, u.inUse p = true ↔ used p) ∧
    (∀ i, u.wireInUse i = true ↔ ∃ p < 8, used p ∧ covers p i) ∧
    (∀ k, u.recipeInUse k = true ↔ ∃ p < 8, used p ∧ names p k) ∧
    (∀ e : RecipeEntry, profileLength e = (([e.seg1, e.seg2, e.seg3, e.seg4].take e.segCount).map (·.length)).sum) ∧
    Reads (.tableReadForwarding tag first count) tag (req .forwarding) s u .forwarding 0 64 first count
      (.forwarding ((u.lif.forwarding.drop first).take count)) ∧
    Reads (.tableReadKind tag first count) tag (req .kind) s u .kind 64 256 first count
      (.kinds ((u.lif.kinds.drop (first - 64)).take count)) ∧
    Reads (.tableReadCellParameter tag first count) tag (req .cellParameter) s u .cellParameter 0 10 first count
      (.params (rows u.ccs.params.read)) ∧
    Reads (.tableReadLot tag first count) tag (req .lot) s u .lot 0 40 first count
      (.lot (rows fun n => (u.fdc.lot.getD n {}, u.fdc.marks.getD n {}))) ∧
    Reads (.tableReadProgram tag first count) tag (req .program) s u .program 0 8 first count
      (.programs (rows fun p =>
        { entry := u.usc.programs.getD p {}, state := u.plm.progState.getD p .running, inUse := u.inUse p
          strips := (u.strips.filter fun r => r.program == p).length })) ∧
    Reads (.tableReadWire tag first count) tag (req .wire) s u .wire 0 1536 first count
      (.wires (rows fun i => (u.usc.wires.getD i {}, u.wireInUse i))) ∧
    Reads (.tableReadRecipe tag first count) tag (req .recipe) s u .recipe 0 32 first count
      (.recipes (rows fun k => (u.recipes.getD k {}, profileLength (u.recipes.getD k {}), u.recipeInUse k))) ∧
    (u.usc.units = none → count ≠ 0 → Serves (.tableReadUnit tag first count) tag (req .unit) s u u .notFound) ∧
    (∀ l, u.usc.units = some l →
      Reads (.tableReadUnit tag first count) tag (req .unit) s u .unit 0 l.length first count
        (.units (((l.drop first).take count).map fun x => { x with rebond := none }))) ∧
    (∀ p, u.strip p = none → count ≠ 0 →
      Serves (.tableReadCandidate tag p first count) tag (.tableRead .candidate (some p) first count) s u u .notFound) ∧
    (∀ p r, u.strip p = some r →
      Reads (.tableReadCandidate tag p first count) tag (.tableRead .candidate (some p) first count) s u .candidate 0
        r.candidates.length first count (.candidates ((r.candidates.drop first).take count))) ∧
    Reads (.tableReadPlan tag first count) tag (req .plan) s u .plan 0 8 first count
      (.plans (rows fun p => (u.plm.plans.getD p {}, u.plm.counters.getD p 0))) ∧
    Reads (.tableReadLimits tag first count) tag (req .limits) s u .limits 0 8 first count
      (.limits ((u.plm.limits.drop first).take count)) ∧
    Reads (.tableReadTerminal tag first count) tag (req .terminal) s u .terminal 0 4 first count
      (.terminals (rows fun n =>
        let k : Term := match n with
          | 0 => .t1
          | 1 => .t2
          | 2 => .t3
          | _ => .t4
        { level := (u.term k).level, page := (u.term k).page, address := u.addrOf (.term k), dirtyCount := (u.term k).dirty.length
          message := (u.term k).message })) ∧
    Reads (.tableReadPage tag first count) tag (req .page) s u .page 0 16 first count
      (.pages ((u.tmc.pages.drop first).take count)) ∧
    Reads (.tableReadTile tag first count) tag (req .tile) s u .tile 0 256 first count
      (.tiles ((u.tmc.tiles.drop first).take count)) ∧
    Reads (.tableReadKeyMap tag first count) tag (req .keyMap) s u .keyMap 0 256 first count
      (.keys ((u.tmc.keys.drop first).take count))

/-! ### The feed (R4 to R17) -/

/-- MAG_IN and MAG_OUT of the FEED_IN node (R4, R7), and the load check (R5): the masked compare from the scan resume slot on, its
completion and its stop at the first mismatch. A MAG_IN or MAG_OUT clears INPUT_EMPTY as it takes the magazine out of EXHAUSTED
(R9). That it clears before the check runs, and that the alarm of a stop is raised before the DECISION notice is queued, is the
model's reading (log entry 17). -/
def Obligations.MagazinesAreCheckedSlotBySlot : Prop :=
  (∀ (s : State) (src : Byte), s.hears src .feedIn false →
    let push := s.fdc.push.map fun p => { p with magTouched := true }
    let left (t : State) : State := if s.fdc.mag = .exhausted then clearAlarm .inputEmpty .feeder t else t
    (∀ sensed : SlotMap, Ends (exec (.magIn src sensed) s)
      (loadCheck (left { s with fdc := { s.fdc with
        marks := (List.range 40).map fun n =>
          { sensed := if sensed.getLsbD n then .occupied else .empty, masked := (s.fdc.lot.getD n {}).dontCare
            skipped := false, push := .notPushed }
        pendingSlot := none, pointer := none, resume := 0, mag := .scanning, push := push } }))) ∧
    Ends (exec (.magOut src) s)
      (left { s with fdc := { s.fdc with
        marks := List.replicate 40 {}, pendingSlot := none, pointer := none, mag := .absent, push := push } })) ∧
  ∀ s : State,
    let mark (n : Nat) : SlotMarks := s.fdc.marks.getD n {}
    let expected (n : Nat) : Occupancy := (s.fdc.lot.getD n {}).expected
    let fails (n : Nat) : Prop :=
      n < 40 ∧ s.fdc.resume ≤ n ∧ (mark n).masked = false ∧ expected n ≠ (mark n).sensed
    ((∀ n, ¬fails n) → loadCheck s = evaluateNext { s with fdc := { s.fdc with
      mag := .ready, pendingSlot := none, pointer := some s.ccs.params.inStart, dir := s.ccs.params.inDir } }) ∧
    ∀ n, fails n → (∀ m, fails m → n ≤ m) →
      loadCheck s = notify (.decision (.slotMismatch n (expected n) (mark n).sensed))
        (raiseAlarm .slotMismatch .feeder n { s with fdc := { s.fdc with
          marks := s.fdc.marks.modify n fun m => { m with masked := true }, pendingSlot := some n, resume := n + 1 } })

/-- SLOT_OP (R6): its checks in their order and the two decisions, after each of which the load check goes on from the scan resume
slot. -/
def Obligations.SlotDecisionsResumeTheCheck : Prop :=
  ∀ (s u : State) (tag : Byte) (n : Nat),
    let result : ResultCode :=
      if 40 ≤ n then .badIndex
      else if u.fdc.mag ≠ .scanning ∨ u.fdc.pendingSlot = none then .badState
      else if u.fdc.pendingSlot ≠ some n then .notFound else .ok
    Serves (.slotOpAcceptSensed tag n) tag (.slotOp .acceptSensed n) s u
      (if result = .ok then loadCheck { u with fdc := { u.fdc with pendingSlot := none } } else u) result ∧
    Serves (.slotOpSkipSlot tag n) tag (.slotOp .skipSlot n) s u
      (if result = .ok then
        loadCheck { u with fdc := { u.fdc with
          pendingSlot := none, marks := u.fdc.marks.modify n fun m => { m with skipped := true } } }
      else u) result

/-- The next slot (R9): the first candidate from the pointer on in the input direction, without wrapping; its feed values (R8);
and the evaluation that finds a READY or FEEDING magazine EXHAUSTED. -/
def Obligations.TheNextSlotIsTheFirstCandidate : Prop :=
  ∀ s : State,
    (let mark (n : Nat) : SlotMarks := s.fdc.marks.getD n {}
     let candidate (n : Nat) : Prop := n < 40 ∧ (mark n).sensed = .occupied ∧ (mark n).skipped = false ∧ (mark n).push = .notPushed ∧
      ∃ p, s.fdc.pointer = some p ∧ (if s.fdc.dir = .up then p ≤ n else n ≤ p)
     (∀ n, s.nextSlot = some n ↔
        candidate n ∧ ∀ m, candidate m → if s.fdc.dir = .up then n ≤ m else m ≤ n) ∧
     (s.nextSlot = none ↔ ∀ n, ¬candidate n)) ∧
    (∀ n, s.feedValues n =
      let e := s.fdc.lot.getD n {}
      match e.program with
      | some p => (p, e.skip, e.code)
      | none => (0, 0, e.code)) ∧
    evaluateNext s =
      if (s.fdc.mag = .ready ∨ s.fdc.mag = .feeding) ∧ s.nextSlot = none ∧ s.fdc.push = none then
        raiseAlarm .inputEmpty .feeder 0 { s with fdc := { s.fdc with mag := .exhausted, pointer := none } }
      else s

/-- The arbiter (R10, R25 to R27): when each of the four requests stands, and that with the indexer FREE the first that stands in
the order EJECT, MOVE_BP, MOVE_PB, PUSH is granted. -/
def Obligations.TheArbiterGrantsInOrder : Prop :=
  ∀ s : State,
    let stop (scope : AlarmScope) : Prop :=
      ∃ e ∈ s.alc.list, isStop e.code = true ∧ e.scope = scope ∧ e.state ≠ .activeAcked
    let free : Prop :=
      (s.ccs.cell = .run ∨ s.ccs.cell = .drain) ∧ s.ccs.feedPause = false ∧ ¬stop .track ∧ ¬stop .cell
    let eject : Prop := free ∧ s.fdc.out = .ready ∧
      ∃ r, s.trc.post = some r ∧ if r.scrapped then ∀ q, s.plm.req = some q → q.seq ≠ r.seq else r.state = .done
    let moveBp : Prop := free ∧ s.trc.post = none ∧
      ∃ r, s.trc.bond = some r ∧ (r.state = .released ∨ r.scrapped = true ∧ s.claimOf .a = none ∧ s.claimOf .b = none)
    let movePb : Prop := free ∧ s.trc.bond = none ∧
      ∃ r, s.trc.preheat = some r ∧ if r.scrapped then r.state ≠ .ejecting else r.state = .waitBond
    let push : Prop := s.ccs.cell = .run ∧ (s.fdc.mag = .ready ∨ s.fdc.mag = .feeding) ∧ s.ccs.feedPause = false ∧
      s.trc.preheat = none ∧ s.fdc.push = none ∧ ¬stop .feeder ∧ ¬stop .cell ∧
      ∃ n, s.nextSlot = some n ∧
        let p := (s.feedValues n).1
        s.held p = false ∧ (s.program p).valid = true ∧ ¬stop (.program p)
    (s.granted = some .eject ↔ s.trc.op = none ∧ eject) ∧
    (s.granted = some .moveBp ↔ s.trc.op = none ∧ ¬eject ∧ moveBp) ∧
    (s.granted = some .movePb ↔ s.trc.op = none ∧ ¬eject ∧ ¬moveBp ∧ movePb) ∧
    (s.granted = some .push ↔ s.trc.op = none ∧ ¬eject ∧ ¬moveBp ∧ ¬movePb ∧ push) ∧
    (s.granted = none ↔ s.trc.op ≠ none ∨ ¬eject ∧ ¬moveBp ∧ ¬movePb ∧ ¬push)

/-- The four grants (R11, R16, R28, R29, R30): the operation in flight, what the granted operation changes, and its command to the
node. The slot of an ejection is the one that the last search of R15 found (log entry 42). A grant command at a moment at which its
request is not the one granted changes nothing (log entry 9). -/
def Obligations.GrantsStartTheirOperation : Prop :=
  ∀ s : State, s.ccs.inReset = false →
    let op (k : OpKind) (strip : Option Nat) (n : Option Byte) (slot : Option Nat) (timeout : Nat) : Option IndexerOp :=
      some { kind := k, strip := strip, moveNo := n, slot := slot, grantTime := s.ccs.timebase, timeout := timeout }
    let next := s.trc.moveNo + 1
    (s.granted ≠ some .push → Ends (exec .pushGrant s) s) ∧
    (s.granted ≠ some .movePb → Ends (exec .movePbGrant s) s) ∧
    (s.granted ≠ some .moveBp → Ends (exec .moveBpGrant s) s) ∧
    (s.granted ≠ some .eject → Ends (exec .ejectGrant s) s) ∧
    (s.granted = some .push → ∀ n, s.nextSlot = some n →
      Ends (exec .pushGrant s) (sendOwn .feedIn (.feedPush n)
        { s with
          fdc := { s.fdc with
            marks := s.fdc.marks.modify n fun m => { m with push := .pushed }
            push := some { slot := n, program := (s.feedValues n).1, skip := (s.feedValues n).2.1, code := (s.feedValues n).2.2
                           grantTime := s.ccs.timebase, magTouched := false }
            pointer := some n
            mag := if s.fdc.mag = .ready then .feeding else s.fdc.mag }
          trc := { s.trc with op := op .push none none (some n) 3000 } })) ∧
    (s.granted = some .movePb → ∀ r, s.trc.preheat = some r →
      Ends (exec .movePbGrant s) (sendOwn .track (.trackMove .preheat next)
        { s with trc := { s.trc with moveNo := next, op := op .movePb (some r.seq) (some next) none 2000 } })) ∧
    (s.granted = some .moveBp → ∀ r, s.trc.bond = some r →
      Ends (exec .moveBpGrant s) (sendOwn .track (.trackMove .bond next)
        { s with trc := { s.trc with moveNo := next, op := op .moveBp (some r.seq) (some next) none 2000 } })) ∧
    (s.granted = some .eject → ∀ r n, s.trc.post = some r → s.fdc.outNext = some n →
      Ends (exec .ejectGrant s) (sendOwn .feedOut (.feedEject n)
        { s with
          fdc := { s.fdc with reserved := some n }
          trc := { s.trc with post := some { r with state := .ejecting, former := r.state }
                              op := op .eject (some r.seq) none (some n) 3000 } }))

/-- STRIP_IN (R12, R20, R24, R115): with no push in flight it is discarded; otherwise it ends the push and admits the strip with the
next sequence number, checks its code, queues ADMITTED, plans the strip's candidates where the program's interval calls for them,
clears the condition of FEED_JAM and evaluates the next slot. That ID_MISMATCH is raised before the DECISION notice is queued is the
model's reading (log entry 17). -/
def Obligations.StripsAreAdmittedToTheTrack : Prop :=
  ∀ (s : State) (src : Byte) (code : Option StripCode), s.hears src .feedIn true →
    (s.fdc.push = none → Ends (exec (.stripIn src code) s) s) ∧
    ∀ p, s.fdc.push = some p →
      let fails : Prop := ∃ c, p.code = some c ∧ code ≠ some c
      let e := s.plm.plans.getD p.program {}
      let count := (s.plm.counters.getD p.program 0 + 1) % 65536
      let planned : List Candidate :=
        if e.valid = true ∧ e.interval ≠ 0 ∧ count % e.interval = 0 then
          (e.units.filter fun v => v < (s.program p.program).rows * (s.program p.program).columns ∧ p.skip.getLsbD v = false).flatMap fun v =>
            (e.wires.filter fun w => w < (s.program p.program).wireCount).map fun w =>
              { unit := v, wire := w, reason := .planned, status := .waiting }
        else []
      let r (state : StripState) (candidates : List Candidate) : StripRecord :=
        { seq := s.trc.nextSeq, code := code, slot := p.slot, program := p.program, state := state, skip := p.skip
          idUnread := code.isNone, candidates := candidates }
      let at_ (r : StripRecord) : State :=
        { s with
          fdc := { s.fdc with push := none }
          trc := { s.trc with op := none, preheat := some r, nextSeq := if s.trc.nextSeq = 65535 then 1 else s.trc.nextSeq + 1 } }
      let admitted (state : StripState) (t : State) : State :=
        let t := notify (.strip s.trc.nextSeq .admitted) t
        evaluateNext (clearAlarm .feedJam .feeder
          { t with plm := { t.plm with counters := t.plm.counters.set p.program count }
                   trc := { t.trc with preheat := some (r state planned) } })
      (¬fails →
        Ends (exec (.stripIn src code) s)
          (let state := if s.ccs.params.preheatDwell = 0 then .waitBond else .preheat
           admitted state (at_ (r state [])))) ∧
      ∀ c, p.code = some c → code ≠ some c →
        Ends (exec (.stripIn src code) s)
          (admitted .idHold (notify (.decision (.idMismatch s.trc.nextSeq c code))
            (raiseAlarm .idMismatch .feeder s.trc.nextSeq (at_ (r .idHold [])))))

/-- A failed push (R13), by FEED_FAULT or by its timeout of 3000 ms: the indexer is freed, FEED_JAM raised, the slot FAILED unless a
magazine change was taken since the grant, and the next slot evaluated; a cell in DRAIN whose track is then empty enters READY
(R23, R174). A timeout that is not due changes nothing (log entry 9). -/
def Obligations.FailedPushesAreNotTriedAgain : Prop :=
  ∀ s : State,
    let emptied (t : State) : State :=
      if t.ccs.cell = .drain ∧ t.trc.preheat = none ∧ t.trc.bond = none ∧ t.trc.post = none ∧ t.trc.op = none then
        eachHead (fun h t => unpark h (removeReason .cell h t)) { t with ccs := { t.ccs with cell := .ready, feedPause := false } }
      else t
    let failed (p : PushInFlight) : State :=
      let t := raiseAlarm .feedJam .feeder p.slot { s with fdc := { s.fdc with push := none }, trc := { s.trc with op := none } }
      emptied (evaluateNext
        (if p.magTouched then t
         else { t with fdc := { t.fdc with marks := t.fdc.marks.modify p.slot fun m => { m with push := .failed } } }))
    (∀ src, s.hears src .feedIn true →
      Ends (exec (.feedFault src) s)
        (match s.fdc.push with
         | some p => failed p
         | none => raiseAlarm .feedJam .feeder 40 s)) ∧
    (s.ccs.inReset = false →
      Ends (exec .pushTimeout s)
        (match s.fdc.push with
         | some p => if 3000 ≤ (s.ccs.timebase - p.grantTime).toNat then failed p else s
         | none => s))

/-- MAG_IN and MAG_OUT of the FEED_OUT node (R15, R17) and the search for the next free slot: the first that is neither full nor
reserved from the fill pointer on in the output direction, without wrapping. That a MAG_IN which finds none while the magazine is
FULL already raises OUTPUT_FULL again, as a repeat, is the model's reading (log entry 31), and so is that the slot found stays the
next free one until the next search (log entry 42). -/
def Obligations.TheOutputMagazineFindsItsFreeSlot : Prop :=
  (∀ (f : Fdc) (n : Nat),
    let free (n : Nat) : Prop := n < 40 ∧ f.outFull.getLsbD n = false ∧ f.reserved ≠ some n ∧
      ∃ p, f.fill = some p ∧ if f.outDir = .up then p ≤ n else n ≤ p
    (f.freeFrom = some n ↔ free n ∧ ∀ m, free m → if f.outDir = .up then n ≤ m else m ≤ n) ∧
    (f.freeFrom = none ↔ ∀ m, ¬free m)) ∧
  ∀ (s : State) (src : Byte), s.hears src .feedOut false →
    (∀ sensed : SlotMap, ∃ full : SlotMap,
      (∀ n, full.getLsbD n = (sensed.getLsbD n && decide (s.fdc.reserved ≠ some n))) ∧
      let f := { s.fdc with outFull := full, fill := some s.ccs.params.outStart, outDir := s.ccs.params.outDir }
      Ends (exec (.outputMagIn src sensed) s)
        (if f.freeFrom = none then raiseAlarm .outputFull .track 0 { s with fdc := { f with out := .full, outNext := none } }
         else if s.fdc.out = .full then
          clearAlarm .outputFull .track { s with fdc := { f with out := .ready, outNext := f.freeFrom } }
         else { s with fdc := { f with out := .ready, outNext := f.freeFrom } })) ∧
    (let t : State := { s with fdc := { s.fdc with outFull := 0, fill := none, out := .absent, outNext := none } }
     Ends (exec (.outputMagOut src) s) (if s.fdc.out = .full then clearAlarm .outputFull .track t else t))

/-! ### The track and the heat monitor (R16, R23, R28 to R38) -/

/-- MOVE_DONE (R28, R29) and EJECTED (R30, R16): one that does not match the operation in flight is discarded (R31); one that matches
frees the indexer, clears the condition of TRACK_JAM and moves the strip. At BOND a strip that is not scrapped enters BONDING with
fresh unit records, is evaluated for CHECKING, and the heads ask for units; at POST the candidates never bonded are NOT_BONDED, the
unit records go, reason PROGRAM leaves the heads (R57) and the pulls begin. The record of an ejected strip is kept without its
candidate list (R116). The model's reading: TRACK_JAM clears before the STRIP notice is queued, at POST before reason PROGRAM leaves
the heads and then the pulls begin, and at EJECTED after the slot and OUTPUT_FULL (log entry 17); EJECTED with the magazine ABSENT marks no slot (log entry 16); EJECTED that finds no free slot raises
OUTPUT_FULL again while FULL, and one that finds a free slot while FULL makes the magazine READY and clears that condition (log entry
31); and the slot found stays the next free one until the next search (log entry 42). -/
def Obligations.CompletionsMoveTheStrips : Prop :=
  ∀ (s : State) (src : Byte),
    (s.hears src .track true → ∀ (o : Origin) (n : Byte),
      let kind : OpKind := match o with
        | .preheat => .movePb
        | .bond => .moveBp
      let mine : Prop := ∃ x, s.trc.op = some x ∧ x.kind = kind ∧ x.moveNo = some n
      let done := exec (.moveDone src o n) s
      (¬mine → Ends done s) ∧
      (mine → o = .preheat → ∀ r, s.trc.preheat = some r →
        let t := clearAlarm .trackJam .track { s with trc := { s.trc with op := none, preheat := none, bond := some r } }
        (r.scrapped = true → Ends done (notify (.strip r.seq .atBond) t)) ∧
        (r.scrapped = false → Ends done (eachHead askUnit (evaluateChecking (notify (.strip r.seq .atBond)
          { t with
            trc := { t.trc with bond := some { r with state := .bonding } }
            usc := { t.usc with
              units := some ((List.range ((s.program r.program).rows * (s.program r.program).columns)).map fun u =>
                { state := if r.skip.getLsbD u then .skipped else .pending }) }
            vcu := { t.vcu with scan := some .notStarted, pos := some (0, 0), pendingWire := none, rebondHead := none } }))))) ∧
      (mine → o = .bond → ∀ r, s.trc.bond = some r →
        let l := r.candidates.map fun c => if c.status = .waiting then { c with status := .notBonded } else c
        let arrived : StripRecord :=
          { r with candidates := l
                   state := if r.scrapped then r.state
                            else if ∃ c ∈ l, c.record = none ∧ c.status ≠ .cancelled then .pulling else .done }
        let t := clearAlarm .trackJam .track { s with trc := { s.trc with op := none, bond := none, post := some arrived } }
        Ends done (pullWork (eachHead (removeReason .program)
          { t with
            usc := { t.usc with units := none }
            vcu := { t.vcu with scan := none, pos := none, pendingWire := none, rebondHead := none } })))) ∧
    (s.hears src .feedOut true → ∀ n : Nat,
      let mine : Prop := ∃ x, s.trc.op = some x ∧ x.kind = .eject ∧ x.slot = some n
      (¬mine → Ends (exec (.ejected src n) s) s) ∧
      (mine → ∀ r, s.trc.post = some r →
        let f : Fdc := { s.fdc with
          outFull := if s.fdc.out = .absent then s.fdc.outFull else s.fdc.outFull ||| 1#40 <<< n, reserved := none, fill := some n }
        let t (o : OutState) (next : Option Nat) : State :=
          { s with fdc := { f with out := o, outNext := next }, trc := { s.trc with op := none } }
        let filled : State :=
          if s.fdc.out = .absent then t .absent s.fdc.outNext
          else if f.freeFrom = none then raiseAlarm .outputFull .track 0 (t .full none)
          else if s.fdc.out = .full then clearAlarm .outputFull .track (t .ready f.freeFrom) else t .ready f.freeFrom
        let u := clearAlarm .trackJam .track filled
        Ends (exec (.ejected src n) s)
          (drainCheck (notify (.strip r.seq .ejected)
            { u with trc := { u.trc with post := none, lastEjected := some { r with dest := some n, candidates := [], former := .done } } })))) ∧
    drainCheck s =
      if s.ccs.cell = .drain ∧ s.trc.preheat = none ∧ s.trc.bond = none ∧ s.trc.post = none ∧ s.trc.op = none then
        eachHead (fun h t => unpark h (removeReason .cell h t)) { s with ccs := { s.ccs with cell := .ready, feedPause := false } }
      else s

/-- TRACK_FAULT, FEED_FAULT of the FEED_OUT node, and MOVE_TIMEOUT (R31, R16): a failed operation frees the indexer and raises
TRACK_JAM with the detail of its kind; the strip of a failed ejection takes its former state back and its slot is free again,
which the search of R15 weighs; the slot found stays the next free one until the next search (log entry 42). A fault with no
operation of its own in flight raises TRACK_JAM with detail 0. A timeout that is not due changes nothing (log entry 9). -/
def Obligations.FailedOperationsJamTheTrack : Prop :=
  ∀ s : State,
    let f : Fdc := { s.fdc with reserved := none }
    let t (o : OutState) (next : Option Nat) : State :=
      { s with fdc := { f with out := o, outNext := next }, trc := { s.trc with op := none } }
    let cleared : State :=
      if s.fdc.out = .absent then t .absent s.fdc.outNext
      else if f.freeFrom ≠ none then
        (if s.fdc.out = .full then clearAlarm .outputFull .track (t .ready f.freeFrom) else t .ready f.freeFrom)
      else if s.fdc.out = .full then t .full s.fdc.outNext else raiseAlarm .outputFull .track 0 (t .full none)
    let failed (k : OpKind) : State :=
      match k with
      | .movePb => raiseAlarm .trackJam .track 1 { s with trc := { s.trc with op := none } }
      | .moveBp => raiseAlarm .trackJam .track 2 { s with trc := { s.trc with op := none } }
      | .eject =>
        raiseAlarm .trackJam .track 3
          { cleared with trc := { cleared.trc with post := cleared.trc.post.map fun r => { r with state := r.former } } }
      | .push => s
    let jam := raiseAlarm .trackJam .track 0 s
    (∀ (src : Byte) (o : Origin) (n : Byte), s.hears src .track true →
      let kind : OpKind := match o with
        | .preheat => .movePb
        | .bond => .moveBp
      Ends (exec (.trackFault src o n) s)
        (match s.trc.op with
         | some x => if x.kind = kind ∧ x.moveNo = some n then failed kind else jam
         | none => jam)) ∧
    (∀ src : Byte, s.hears src .feedOut true →
      Ends (exec (.outputFeedFault src) s)
        (match s.trc.op with
         | some x => if x.kind = .eject then failed .eject else jam
         | none => jam)) ∧
    (s.ccs.inReset = false →
      Ends (exec .moveTimeout s)
        (match s.trc.op with
         | some x => if x.kind ≠ .push ∧ x.timeout ≤ (s.ccs.timebase - x.grantTime).toNat then failed x.kind else s
         | none => s))

/-- HEAT_SAMPLE (R35 to R37) and HEAT_SIGNAL_TIMER_EXPIRY (R36): the table of the monitor, the restart of its timer of 1000 ms,
and what entering and leaving READY do to the notices, the heads and the alarms. That the condition of HEAT_SIGNAL clears before a
sample is weighed, and that the HEAT notice is queued before HEAT_NOT_READY changes and before HEAT_SIGNAL is raised, are the
model's reading (log entry 17); a sample that leaves the monitor READY sets the counter to the settle count (log entry 36); and an
expiry of the timer that is not due changes nothing (log entry 9). -/
def Obligations.TheHeatMonitorSettlesAndTimesOut : Prop :=
  ∀ s : State,
    let p := s.ccs.params
    let h := s.trc.heat
    let became (u : State) : State :=
      if h.state ≠ .ready ∧ u.trc.heat.state = .ready then
        clearAlarm .heatNotReady .cell (eachHead (removeReason .heat) (notify (.heat true) u))
      else if h.state = .ready ∧ u.trc.heat.state ≠ .ready then
        let v := addReason .heat .b (addReason .heat .a (notify (.heat false) u))
        if s.ccs.cell = .run then raiseAlarm .heatNotReady .cell (u.trc.heat.lastTemp.getD 0) v else v
      else u
    (∀ (src : Byte) (temperature : Nat), s.hears src .heater false →
      let t := min temperature 5000
      let near (band : Nat) : Prop := p.heatTarget ≤ t + band ∧ t ≤ p.heatTarget + band
      let counted (n : Nat) : HeatState × Nat := if p.settleCount ≤ n then (.ready, p.settleCount) else (.settling, n)
      let next : HeatState × Nat :=
        match h.state with
        | .notReady => if near p.heatBand then counted 1 else (.notReady, 0)
        | .settling => if near p.heatBand then counted (h.counter + 1) else (.notReady, 0)
        | .ready => if near (p.heatBand + p.heatHysteresis) then (.ready, p.settleCount) else (.notReady, 0)
      let u := clearAlarm .heatSignal .cell s
      Ends (exec (.heatSample src temperature) s)
        (became { u with trc := { u.trc with
          heat := { state := next.1, counter := next.2, lastTemp := some t, timer := some s.ccs.timebase } } })) ∧
    (s.ccs.inReset = false →
      Ends (exec .heatSignalTimerExpiry s)
        (match h.timer with
         | some t =>
           if 1000 ≤ (s.ccs.timebase - t).toNat then
             raiseAlarm .heatSignal .cell 0 (became { s with trc := { s.trc with heat := {} } })
           else s
         | none => s))

/-! ### Requests about strips, units and wires (R14, R33, R55, R56, R74, R105, R106, R110, R111) -/

/-- ACCEPT_ID (R14) and SCRAP (R33): their checks, the release of a held strip, and the scrap of a strip in each state but BONDING and
CHECKING, which the next statement gives: the flag, the notice, the candidates cancelled (R119) and the end of a wait for the log. -/
def Obligations.HeldStripsAreAcceptedOrScrapped : Prop :=
  ∀ (s u : State) (tag : Byte) (seq : Nat),
    ((∀ r ∈ u.strips, r.seq ≠ seq) →
      Serves (.stripOpAcceptId tag seq) tag (.stripOp (.acceptId seq)) s u u .notFound ∧
      Serves (.stripOpScrap tag seq) tag (.stripOp (.scrap seq)) s u u .notFound) ∧
    ∀ p r, u.strip p = some r → r.seq = seq → (∀ q x, u.strip q = some x → x.seq = seq → q = p) →
      (r.state ≠ .idHold ∨ r.scrapped = true →
        Serves (.stripOpAcceptId tag seq) tag (.stripOp (.acceptId seq)) s u u .badState) ∧
      (r.state = .idHold → r.scrapped = false → p = .preheat →
        Serves (.stripOpAcceptId tag seq) tag (.stripOp (.acceptId seq)) s u
          (clearAlarm .idMismatch .feeder { u with trc := { u.trc with
            preheat := some { r with state := if u.ccs.params.preheatDwell ≤ r.dwell then .waitBond else .preheat } } }) .ok) ∧
      (r.scrapped = true ∨ r.state = .ejecting →
        Serves (.stripOpScrap tag seq) tag (.stripOp (.scrap seq)) s u u .badState) ∧
      (r.scrapped = false → r.state ≠ .ejecting → r.state ≠ .bonding → r.state ≠ .checking →
        let inFlight (c : Candidate) : Bool := u.plm.req.any fun q => q.seq == seq && q.unit == c.unit && q.wire == c.wire
        let l := r.candidates.map fun c => if c.record.isSome || inFlight c then c else { c with status := .cancelled }
        let t := notify (.strip seq .scrapped) (u.setStrip p (some { r with scrapped := true, candidates := l, logWait := false }))
        let t := if r.logWait then clearAlarm .pullLogFull .track t else t
        Serves (.stripOpScrap tag seq) tag (.stripOp (.scrap seq)) s u
          (if r.state = .idHold then clearAlarm .idMismatch .feeder t else t) .ok)

/-- SCRAP of a strip in BONDING (R110) and in CHECKING (R111): the flag, the notice, the candidates cancelled and the end of a
wait for the log, as for any strip; then in BONDING the PENDING units SKIPPED and the CLAIMED ones with skip pending, each NSB
decision on the strip ended by its not-done report, the claims of heads in HOLD ended and the PARKED heads IDLE; in CHECKING the
scan ENDED, a decision of the rebonding head ended, and the strip RELEASED unless a rebond claim still runs, until whose end
STATUS_READ gives the rebond head, which is the model's reading (log entry 25). Where both heads are concerned head A is taken
before head B, which is the model's choice (log entry 3). -/
def Obligations.ScrapEndsTheBondingOfAStrip : Prop :=
  ∀ (s u : State) (tag : Byte) (seq : Nat) (r : StripRecord), u.trc.bond = some r → r.seq = seq →
    (∀ q x, u.strip q = some x → x.seq = seq → q = .bond) → r.scrapped = false →
    let serves (x : State) : Prop := Serves (.stripOpScrap tag seq) tag (.stripOp (.scrap seq)) s u x .ok
    let inFlight (c : Candidate) : Bool := u.plm.req.any fun q => q.seq == seq && q.unit == c.unit && q.wire == c.wire
    let l := r.candidates.map fun c => if c.record.isSome || inFlight c then c else { c with status := .cancelled }
    let flagged : StripRecord := { r with scrapped := true, candidates := l, logWait := false }
    let t0 := notify (.strip seq .scrapped) { u with trc := { u.trc with bond := some flagged } }
    let t := if r.logWait then clearAlarm .pullLogFull .track t0 else t0
    let decides (h : Head) (t : State) : Prop := ∃ d, (t.head h).nsb = some d ∧ d.wire.seq = seq
    let missed (h : Head) (t : State) : State :=
      wireEndReport h false (decide ((t.head h).state = .hold))
        ((clearAlarm .nsol (.head h) (clearAlarm .nsop (.head h)
          (t.modHead h fun c => { c with nsb := none, hold := c.hold.put .nsb false }))).modHead h fun c =>
            { c with missed := min 65535 (c.missed + 1) })
    (r.state = .bonding →
      let left (h : Head) (t : State) : State := if (t.head h).state = .hold then skipNow h true t else t
      let idle (h : Head) (t : State) : State :=
        if (t.head h).state = .parked then t.modHead h fun c => { c with state := .idle } else t
      ∀ m : UnitMarks,
        (∀ i < 64, m.getLsbD i = (r.skip.getLsbD i || decide ((u.unit? i).map (·.state) = some .pending))) →
        let a : State :=
          { t with
            usc := { t.usc with units := t.usc.units.map fun l => l.map fun x =>
              if x.state = .pending then { x with state := .skipped }
              else if x.state = .claimed then { x with skipPending := true } else x }
            trc := { t.trc with bond := some { flagged with skip := m } } }
        ∀ b c, (decides .a a → b = missed .a a) → (¬decides .a a → b = a) → (decides .b b → c = missed .b b) → (¬decides .b b → c = b) →
          serves (idle .b (idle .a (left .b (left .a c))))) ∧
    (r.state = .checking →
      let released (t : State) : State :=
        notify (.strip seq .released) { t with trc := { t.trc with bond := t.trc.bond.map fun r => { r with state := .released } } }
      let scanned (w : Option (Nat × Nat)) : State := { t with vcu := { t.vcu with scan := some .ended, pendingWire := w } }
      (u.vcu.rebondHead = none → serves (released (scanned none))) ∧
      ∀ h, u.vcu.rebondHead = some h →
        (decides h u → serves (released (missed h (scanned u.vcu.pendingWire)))) ∧
        (¬decides h u → serves (scanned u.vcu.pendingWire)))

/-- SKIP_UNIT (R55, R56): its checks in their order, and its effect by where the strip is and what state the unit is in; a claim whose
head is in HOLD ends at once with the unit SKIPPED, by its not-done report where the head awaits an NSB decision. -/
def Obligations.SkippedUnitsLeaveTheirClaims : Prop :=
  ∀ (s u : State) (tag : Byte) (seq n : Nat),
    let serves (x : State) (c : ResultCode) : Prop := Serves (.stripOpSkipUnit tag seq n) tag (.stripOp (.skipUnit seq n)) s u x c
    ((∀ r ∈ u.strips, r.seq ≠ seq) → serves u .notFound) ∧
    (∀ p r, u.strip p = some r → r.seq = seq → (∀ q x, u.strip q = some x → x.seq = seq → q = p) →
      let units := (u.program r.program).rows * (u.program r.program).columns
      let marked (t : State) : State :=
        { t with trc := { t.trc with bond := t.trc.bond.map fun r => { r with skip := r.skip ||| 1#64 <<< n } } }
      let record (y : UnitRecord) : State := { u with usc := { u.usc with units := some (u.units.set n y) } }
      (units ≤ n → serves u .badIndex) ∧
      (n < units → r.scrapped = true ∨ r.state ∈ [.checking, .released, .pulling, .done, .ejecting] → serves u .badState) ∧
      (n < units → r.scrapped = false → r.state ∈ [.idHold, .preheat, .waitBond] →
        serves (u.setStrip p (some { r with skip := r.skip ||| 1#64 <<< n })) .ok) ∧
      (n < units → r.scrapped = false → r.state = .bonding → p = .bond → ∀ x, u.unit? n = some x →
        (x.state = .done ∨ x.state = .partial_ → serves u .badState) ∧
        (x.state = .skipped ∨ x.state = .claimed ∧ x.skipPending = true → serves u .ok) ∧
        (x.state = .pending →
          let ask (h : Head) (t : State) : State := if (t.head h).state = .parked then askUnit h t else t
          serves (evaluateChecking (ask .b (ask .a (marked (record { x with state := .skipped }))))) .ok) ∧
        (x.state = .claimed → x.skipPending = false → ∀ h, x.claimant = some h →
          let t := record { x with skipPending := true }
          serves
            (if (u.head h).state = .hold then
              if (u.head h).nsb = none then skipNow h true t
              else wireEndReport h false true
                ((clearAlarm .nsol (.head h) (clearAlarm .nsop (.head h)
                  (t.modHead h fun c => { c with nsb := none, hold := c.hold.put .nsb false }))).modHead h fun c =>
                    { c with missed := min 65535 (c.missed + 1) })
            else t) .ok))) ∧
    ∀ (h : Head) (own : Bool) (t : State),
      (t.claimOf h = none → skipNow h own t = t) ∧
      ∀ v x, t.claimOf h = some v → t.unit? v = some x →
        skipNow h own t = closeClaim h own
          { t with
            usc := { t.usc with units := some (t.units.set v
              { x with state := .skipped, skipPending := false, claimant := none, rebond := none }) }
            trc := { t.trc with bond := t.trc.bond.map fun r => { r with skip := r.skip ||| 1#64 <<< v } } }

/-- The decisions NSB_RESUME, WAIVE_WIRE and REBOND_WIRE on a wire that a head awaits (R74): what each does to the decision, the
hold, the alarm, the report and the waiver; NSB_RESUME of any other wire is refused. -/
def Obligations.NsbDecisionsEndTheHold : Prop :=
  ∀ (s u : State) (tag : Byte) (seq unit wire : Nat),
    let w : WireRef := { seq := seq, unit := unit, wire := wire }
    let awaits (h : Head) : Prop := ∃ d, (u.head h).nsb = some d ∧ d.wire = w
    let took (h : Head) (t : State) : State :=
      clearAlarm .nsol (.head h) (clearAlarm .nsop (.head h)
        (t.modHead h fun c => { c with nsb := none, hold := c.hold.put .nsb false }))
    let missed (h : Head) (t : State) : State :=
      wireEndReport h false (decide ((u.head h).state = .hold)) (t.modHead h fun c => { c with missed := min 65535 (c.missed + 1) })
    (∀ (x : UnitRecord) (v : Nat), v ∈ (x.recordWaiver wire).waived ↔ v = wire ∨ v ∈ x.waived) ∧
    ((∀ r ∈ u.strips, r.seq ≠ seq) →
      Serves (.stripOpNsbResume tag seq unit wire) tag (.stripOp (.nsbResume seq unit wire)) s u u .notFound ∧
      Serves (.stripOpWaiveWire tag seq unit wire) tag (.stripOp (.waiveWire seq unit wire)) s u u .notFound ∧
      Serves (.stripOpRebondWire tag seq unit wire) tag (.stripOp (.rebondWire seq unit wire)) s u u .notFound) ∧
    ((∃ r ∈ u.strips, r.seq = seq) → (∀ h, ¬awaits h) →
      Serves (.stripOpNsbResume tag seq unit wire) tag (.stripOp (.nsbResume seq unit wire)) s u u .badState) ∧
    ((∃ r ∈ u.strips, r.seq = seq) → ∀ h, awaits h → ¬awaits h.other →
      Serves (.stripOpNsbResume tag seq unit wire) tag (.stripOp (.nsbResume seq unit wire)) s u (missed h (took h u)) .ok ∧
      (∀ x, u.unit? unit = some x →
        Serves (.stripOpWaiveWire tag seq unit wire) tag (.stripOp (.waiveWire seq unit wire)) s u
          (let t := took h u
           missed h { t with usc := { t.usc with units := some (u.units.set unit (x.recordWaiver wire)) } }) .ok) ∧
      Serves (.stripOpRebondWire tag seq unit wire) tag (.stripOp (.rebondWire seq unit wire)) s u
        (let t := took h u
         if (t.head h).state = .hold ∧ (t.head h).hold = {} then
           match t.claimOf h with
           | some v => startWire h v t
           | none => askUnit h (t.modHead h fun c => { c with state := .idle })
         else t) .ok)

/-- WAIVE_WIRE and REBOND_WIRE as coverage decisions (R105, R106): their checks in their order, the waiver mark with the walk that a
stopped scan resumes, and the rebond claim of the chosen head. -/
def Obligations.CoverageDecisionsMoveTheScan : Prop :=
  ∀ (s u : State) (tag : Byte) (seq unit wire : Nat),
    (∃ r ∈ u.strips, r.seq = seq) → (∀ h d, (u.head h).nsb = some d → d.wire ≠ { seq := seq, unit := unit, wire := wire }) →
    let waive (x : State) (c : ResultCode) : Prop :=
      Serves (.stripOpWaiveWire tag seq unit wire) tag (.stripOp (.waiveWire seq unit wire)) s u x c
    let rebond (x : State) (c : ResultCode) : Prop :=
      Serves (.stripOpRebondWire tag seq unit wire) tag (.stripOp (.rebondWire seq unit wire)) s u x c
    ((∀ r, u.trc.bond = some r → r.seq = seq → r.state ≠ .bonding ∧ r.state ≠ .checking ∨ r.scrapped = true) →
      waive u .badState ∧ rebond u .badState) ∧
    ∀ r, u.trc.bond = some r → r.seq = seq → r.scrapped = false → r.state = .bonding ∨ r.state = .checking →
      let e := u.program r.program
      let outside : Prop := e.rows * e.columns ≤ unit ∨ e.wireCount ≤ wire
      (outside → waive u .badIndex) ∧
      (∀ x, ¬outside → u.unit? unit = some x →
        let ahead : Prop := (x.state = .pending ∨ x.state = .claimed ∧ x.rebond = none) ∧ x.resume ≤ wire
        let refused : Prop := x.state = .skipped ∨ wire ∈ x.done ∨ wire ∈ x.waived ∨ ahead ∨ x.rebond = some wire
        let t : State := { u with usc := { u.usc with units := some (u.units.set unit (x.recordWaiver wire)) } }
        (refused → waive u .badState) ∧
        (¬refused → waive
          (if u.vcu.scan = some .stopped ∧ u.vcu.pendingWire = some (unit, wire) then
            Machine.walk unit (wire + 1) { t with vcu := { t.vcu with pendingWire := none } }
           else t) .ok)) ∧
      (r.state = .bonding → rebond u .badState) ∧
      (r.state = .checking →
        (outside → rebond u .badIndex) ∧
        (¬outside → ∀ x, u.unit? unit = some x →
          let able : Prop := u.vcu.scan = some .stopped ∧ u.vcu.pendingWire = some (unit, wire) ∧ u.held r.program = false ∧
            (u.ccs.cell = .run ∨ u.ccs.cell = .drain)
          let first := x.lastHead.getD .a
          (¬able → rebond u .badState) ∧
          ((u.head .a).state ≠ .idle → (u.head .b).state ≠ .idle → rebond u .badState) ∧
          ∀ h, h = (if (u.head first).state = .idle then first else first.other) → (u.head h).state = .idle → able →
            rebond
              (startWire h unit { u with
                vcu := { u.vcu with scan := some .rebond, rebondHead := some h }
                usc := { u.usc with units := some (u.units.set unit
                  { x with state := .claimed, claimant := some h, lastHead := some h, rebond := some wire }) } }) .ok))

/-! ### The wire cycle and the regulator (R67 to R77, R84 to R101) -/

/-- TOUCHDOWN (R68, R84) and BOND_END (R69, R99, R100) at a head that is not OFF: the start of the bond, the vote, and the command it
leads to: CONTINUE or FINISH (R70), RETRY (R72), ABANDON (R73). An event with another number, or that the head does not await, changes
nothing (R76). -/
def Obligations.BondsAreVotedAndMovedOn : Prop :=
  ∀ (s : State) (src n : Byte) (h : Head) (w : WireRef) (r : StripRecord),
    s.ccs.inReset = false → s.roleAt src.toNat = .head h → (s.head h).state ≠ .off →
    let c := s.head h
    let ch := s.chan h
    let running : Prop := ch.state = .startup ∨ ch.state = .regulate
    let within (e : AwaitedEvent) (ms : BitVec 32) : Option Awaited := some { event := e, deadline := s.ccs.timebase + ms }
    (c.state ≠ .moving ∨ n ≠ c.cmdNo → Ends (exec (.touchdown src n) s) s) ∧
    (∀ reading d, c.state ≠ .bonding ∨ n ≠ c.cmdNo ∨ running → Ends (exec (.bondEnd src n reading d) s) s) ∧
    (s.trc.bond = some r → c.wire = some w → c.phase = .ball ∨ c.phase = .stitch →
      let e := s.usc.wires.getD ((s.program r.program).firstWire + w.wire) {}
      let k := if c.phase = .stitch then e.stitchRecipe else e.ballRecipe
      (c.state = .moving → n = c.cmdNo →
        let low := (s.recipe k).dlow
        Ends (exec (.touchdown src n) s)
          (sendDrive h low false
            ((s.setChan h { ch with
              state := .startup, recipe := some k, k := 0, prevSeq := none, integ := 0, dPrev := low, lim := .none, tripCount := 0,
              energy := 0, peak := low, startupCount := 0, slowStart := false, sampleGap := false, window := true,
              lastDrive := some low }).modHead h fun _ => { c with awaited := none, state := .bonding }))) ∧
      (c.state = .bonding → n = c.cmdNo → ¬running → ∀ b, ch.lastSummary = some b → ∀ (reading : Continuity) (deformation : Nat),
        let continuity : Option Verdict :=
          if e.noContinuity then none
          else match reading with
            | .stick => some .stick
            | .nonStick => some .nonStick
            | .notMeasured => none
        let energy : Verdict := if b.lowEnergy then .nonStick else .stick
        let squeeze : Verdict := if min deformation 1023 < (s.recipe b.recipe).defMin then .nonStick else .stick
        let against := (continuity.toList.count .nonStick) + [energy, squeeze].count .nonStick
        let vote : LastVote :=
          { continuity := continuity, energy := energy, deformation := squeeze, count := continuity.toList.length + 2
            result := if 2 ≤ against then .nonStick else .stick, dissent := decide (against = 1) }
        let voted : State := { s with vcu := { s.vcu with last := s.vcu.last.set h (some vote) } }
        let order (cmd : HeadCmd) (d : HeadCtx) (t : State) : State :=
          sendOwn (.head h) (.headCmd cmd (c.cmdNo + 1)) (t.modHead h fun _ => { d with cmdNo := c.cmdNo + 1 })
        let entry : VoteEntry := { summary := b, dissent := decide (against = 1) }
        let votes := voted.vcu.votes.get h
        let keep (v : VoteRecord) : State := { voted with vcu := { voted.vcu with votes := voted.vcu.votes.set h v } }
        Ends (exec (.bondEnd src n reading deformation) s)
          (if against < 2 then
            if c.phase = .ball then
              order .continue_ { c with phase := .stitch, retries := 0, state := .moving, awaited := within .touchdown 200 }
                (keep { votes with ball := some entry })
            else
              order .finish { c with state := .forming, abandoning := false, awaited := within .wireDone 100 }
                (keep { votes with stitch := some entry })
           else if c.retries < (s.recipe b.recipe).retryCount then
            order (.retry c.phase)
              { c with retries := c.retries + 1, retried := true, retriesSent := min 65535 (c.retriesSent + 1), state := .moving,
                       awaited := within .touchdown 200 }
              { voted with trc := { voted.trc with bond := some { r with wiresRetried := min 65535 (r.wiresRetried + 1) } } }
           else order .abandon { c with state := .forming, abandoning := true, awaited := within .wireDone 100 } voted)))

/-- WIRE_DONE (R71, R73), ABORTED (R76), MOTION_FAULT and HEAD_DEADLINE_EXPIRY (R75): the end of a wire, the NSB hold of an
abandoned one, and a fault with its cause: the bond ended, ABORT sent, the wire kept as the faulted wire, and HEAD_FAULT raised.
What a fault does is the same for the four causes, TRIP, SAMPLE_LOSS, TIMEOUT and MOTION, with 1 to 4 as the detail of HEAD_FAULT.
That the wire vote record is absent after a fault of any cause, as R101's table has it, is the model's reading beside R100 (log
entry 44). A deadline that has not passed changes nothing (log entry 9). -/
def Obligations.WiresEndDoneHeldOrFaulted : Prop :=
  ∀ (s : State) (h : Head),
    let c := s.head h
    let ch := s.chan h
    let fault (cause : FaultCause) (detail : Nat) : State :=
      let ended :=
        if ch.state = .startup ∨ ch.state = .regulate then
          sendDrive h 0 false (s.setChan h { ch with state := .idle, lastDrive := some 0, window := false, integ := 0 })
        else s
      let aborted := sendOwn (.head h) (.headCmd .abort c.cmdNo) ended
      raiseAlarm .headFault (.head h) detail
        { aborted.modHead h fun _ =>
            { c with awaited := none, wire := none, phase := .none, cause := some cause, state := .fault
                     faulted := if c.state = .moving ∨ c.state = .bonding ∨ c.state = .forming then c.wire else none } with
          vcu := { s.vcu with votes := s.vcu.votes.set h {} } }
    headFault h .trip s = fault .trip 1 ∧ headFault h .sampleLoss s = fault .sampleLoss 2 ∧
    headFault h .timeout s = fault .timeout 3 ∧ headFault h .motion s = fault .motion 4 ∧
    (s.ccs.inReset = false →
    (∀ (src n : Byte), s.roleAt src.toNat = .head h → c.state ≠ .off →
      (c.state ≠ .forming ∨ n ≠ c.cmdNo → Ends (exec (.wireDone src n) s) s) ∧
      (c.state = .forming → n = c.cmdNo →
        let closed : HeadCtx := { c with awaited := none, phase := .none, wire := none }
        (c.abandoning = false → Ends (exec (.wireDone src n) s)
          (wireEndReport h true true (s.modHead h fun _ => { closed with bonded := min 65535 (c.bonded + 1) }))) ∧
        ∀ w, c.abandoning = true → c.wire = some w → Ends (exec (.wireDone src n) s)
          (notify (.decision (.nsbHold h w c.phase))
            (raiseAlarm (if c.phase = .stitch then .nsol else .nsop) (.head h) (w.unit * 1000 + w.wire)
              (s.modHead h fun _ =>
                { closed with nsb := some { wire := w, phase := c.phase }, hold := { c.hold with nsb := true }, state := .hold })))) ∧
      Ends (exec (.aborted src n) s) s ∧
      Ends (exec (.motionFault src) s)
        (if c.state = .fault then raiseAlarm .headFault (.head h) 4 s else fault .motion 4)) ∧
    Ends (exec (.headDeadlineExpiry h) s)
      (match c.awaited with
       | some a =>
         let limit : Nat :=
          match a.event with
          | .touchdown => 200
          | .bondEnd => 50
          | .wireDone => 100
         if limit ≤ (s.ccs.timebase - (a.deadline - BitVec.ofNat 32 limit)).toNat then fault .timeout 3 else s
       | none => s))

/-- US_SAMPLE, worked through its fifteen steps (R85 to R92, R95): discarded, tripped, at the end of the profile, or computed,
with the drive sent and the whole channel context after it; a computed drive stays within Dlow to Dhigh and the integrator within
±Imax (R96). STARTUP_TIMEOUT (R89) and LOSS_WINDOW_EXPIRY (R93). The faults TRIP and SAMPLE_LOSS of the head are those of the
statement before this one. A STARTUP_TIMEOUT that finds its state left already changes nothing (log entry 29), and the loss window
may expire whenever it is open (log entry 14): both are the model's reading. -/
def Obligations.SamplesAreWorkedInFifteenSteps : Prop :=
  ∀ (s : State) (h : Head), s.ccs.inReset = false →
    let c := s.chan h
    let r := s.recipe (c.recipe.getD 0)
    let running : Prop := c.state = .startup ∨ c.state = .regulate
    let segments := [r.seg1, r.seg2, r.seg3, r.seg4].take r.segCount
    let length := (segments.map (·.length)).sum
    let ended (x : Channel) (st : ChannelState) (o : BondOutcome) (source : Option TripSource) : Channel :=
      { x with
        state := st, lastDrive := some 0, window := false, integ := 0
        lastSummary := some
          { recipe := c.recipe.getD 0, profileLength := length, samples := x.k, energy := x.energy, peak := x.peak,
            startupCount := x.startupCount, slowStart := x.slowStart, sampleGap := x.sampleGap,
            lowEnergy := decide (x.energy < r.emin), highEnergy := decide (r.emax < x.energy), outcome := o, tripSource := source } }
    let tripped (x : Channel) (source : TripSource) : State :=
      headFault h .trip (sendDrive h 0 false (s.setChan h (ended x .tripped .trip (some source))))
    (∀ (src seq : Byte) (feedback : BitVec 16) (mark : Bool), s.roleAt src.toNat = .head h → (s.head h).state ≠ .off →
      let sample := exec (.usSample src feedback seq mark) s
      let f := min feedback.toNat 4095
      let taken : Channel :=
        { c with
          k := c.k + 1, prevSeq := some seq, sampleGap := c.sampleGap || c.prevSeq.any fun p => decide (1 < (seq - p).toNat),
          tripCount := if r.ftrip < f then c.tripCount + 1 else 0 }
      let fed : Channel := { taken with energy := min 4294967295 (c.energy + c.dPrev * f / 1024) }
      (¬running → Ends sample s) ∧
      (running → mark = true → Ends sample (tripped c .generator)) ∧
      (running → mark = false → c.prevSeq = some seq → Ends sample s) ∧
      (running → mark = false → c.prevSeq ≠ some seq → r.ntrip ≤ taken.tripCount → Ends sample (tripped taken .feedback)) ∧
      (running → mark = false → c.prevSeq ≠ some seq → taken.tripCount < r.ntrip → c.k + 1 = length →
        Ends sample
          ((sendDrive h 0 true (s.setChan h (ended fed .idle .complete none))).modHead h fun x =>
            { x with awaited := some { event := .bondEnd, deadline := s.ccs.timebase + 50 } })) ∧
      (running → mark = false → c.prevSeq ≠ some seq → taken.tripCount < r.ntrip → c.k + 1 ≠ length →
        ∀ (j : Nat) (g : Segment), segments[j]? = some g →
        ((segments.take j).map (·.length)).sum < c.k + 1 → c.k + 1 ≤ ((segments.take j).map (·.length)).sum + g.length →
        let startup : Prop := c.state = .startup ∧ f < g.setpoint
        let ec : Int := max (-r.en) (min ((g.setpoint : Int) - f) (if startup then r.epStart else r.ep))
        let held : Prop := r.windupHold = true ∧ (c.lim = .high ∧ 0 < ec ∨ c.lim = .low ∧ ec < 0)
        let i : Int := max (-r.imax) (min r.imax (if held then c.integ else c.integ + ec * r.ki))
        let u : Int := r.baseDrive + ec * r.kp / (2 ^ r.kpShift : Nat) + i / (2 ^ r.kiShift : Nat)
        let d : Nat × LimState :=
          if r.dhigh < u then (r.dhigh, .high) else if u < r.dlow then (r.dlow, .low) else (u.toNat, .none)
        let x : Nat × LimState :=
          if startup ∧ c.dPrev + r.sstep < d.1 then (c.dPrev + r.sstep, .high)
          else if startup ∧ d.1 + r.sstep < c.dPrev then (c.dPrev - r.sstep, .low) else d
        let late : Prop := startup ∧ c.k + 1 = r.tstart
        Ends sample
          (sendDrive h x.1 false (s.setChan h { fed with
            state := if startup ∧ ¬late then .startup else .regulate
            startupCount := if startup then min 255 (c.startupCount + 1) else c.startupCount
            slowStart := c.slowStart || decide late
            integ := i, lim := x.2, peak := max c.peak x.1, lastDrive := some x.1, dPrev := x.1, window := true })) ∧
        (r.dlow ≤ r.dhigh → r.dlow ≤ c.dPrev → c.dPrev ≤ r.dhigh → r.dlow ≤ x.1 ∧ x.1 ≤ r.dhigh) ∧ -(r.imax : Int) ≤ i ∧ i ≤ r.imax)) ∧
    Ends (exec (.startupTimeout h) s)
      (if c.state = .startup ∧ 0 < c.k ∧ c.k = r.tstart then s.setChan h { c with state := .regulate, slowStart := true } else s) ∧
    Ends (exec (.lossWindowExpiry h) s)
      (if running ∧ c.window = true then
        headFault h .sampleLoss (sendDrive h 0 false (s.setChan h (ended c .idle .sampleLoss none)))
      else s)

/-! ### Pulls, records and statistics (R118 to R135) -/

/-- PULL_REQ (R120, R121), PULL_RESULT (R122) and PULL_REQUEST_TIMEOUT (R123): when a request is sent and what it carries, the
outcome of a matching result, the count of timeouts with its alarms, and the record of each. A PULL_REQ that does not stand, and a
timeout that is not due, change nothing, which is the model's choice (log entry 9). -/
def Obligations.PullsAreRequestedAndJudged : Prop :=
  ∀ s : State,
    let p := s.plm
    let finds (r : StripRecord) (c : Candidate) (q : PullRequest) : Prop :=
      s.trc.post = some r ∧ r.seq = q.seq ∧ c.unit = q.unit ∧ c.wire = q.wire ∧
      ∃ l m, r.candidates = l ++ c :: m ∧ ∀ d ∈ l, ¬(d.unit = c.unit ∧ d.wire = c.wire)
    (s.ccs.inReset = false →
      let next (r : StripRecord) (c : Candidate) : Prop :=
        c.record = none ∧ c.status = .bonded ∧
        ∃ l m, r.candidates = l ++ c :: m ∧ ∀ d ∈ l, d.record ≠ none ∨ d.status = .cancelled
      let sends (r : StripRecord) (c : Candidate) : Prop :=
        s.trc.post = some r ∧ r.state = .pulling ∧ r.scrapped = false ∧ next r c ∧ p.req = none ∧ p.log.length < 512 ∧
        (s.ccs.cell = .run ∨ s.ccs.cell = .drain) ∧ s.ccs.feedPause = false ∧ s.addrOf .pull ≠ none ∧
        ∀ e ∈ s.alc.list, isStop e.code = true → e.state ≠ .activeAcked → e.scope ≠ .track ∧ e.scope ≠ .cell
      ((∀ r c, ¬sends r c) → Ends (exec .pullReq s) s) ∧
      ∀ r c, sends r c →
        let e := s.program r.program
        let w := s.usc.wires.getD (e.firstWire + c.wire) {}
        let ox := e.originX + (c.unit / e.rows : Nat) * e.pitchX
        let oy := e.originY + (c.unit % e.rows : Nat) * e.pitchY
        let hook : Site := ⟨(ox + w.x1 + (ox + w.x2)) / 2, (oy + w.y1 + (oy + w.y2)) / 2⟩
        Ends (exec .pullReq s)
          (sendOwn .pull (.pullReq (p.pullTag + 1) hook r.seq c.unit c.wire)
            { s with plm := { p with
              pullTag := p.pullTag + 1
              req := some { tag := p.pullTag + 1, seq := r.seq, unit := c.unit, wire := c.wire, sendTime := s.ccs.timebase } } })) ∧
    (∀ (src tag : Byte) (force mode : Nat) (status : StationStatus), s.hears src .pull true →
      let result := exec (.pullResult src tag force mode status) s
      ((∀ q, p.req = some q → q.tag ≠ tag) → Ends result s) ∧
      ∀ q r c, p.req = some q → q.tag = tag → finds r c q →
        let e := p.limits.getD r.program {}
        let limit (m : Nat) : ModeLimit :=
          if e.valid then [e.m1, e.m2, e.m3, e.m4, e.m5].getD (m - 1) {}
          else if m = 1 ∨ m = 5 then { rejectAlways := true } else {}
        let f := min force 65000
        let outcome : PullOutcome :=
          match status with
          | .ok =>
            if 1 ≤ mode ∧ mode ≤ 5 then
              { force := some f, mode := some mode, status := some .ok
                verdict := if (limit mode).minForce ≤ f ∧ (limit mode).rejectAlways = false then .pass else .fail }
            else { status := some .testerFault, verdict := .noResult }
          | .noHook => { status := some .noHook, verdict := .noResult }
          | .testerFault => { status := some .testerFault, verdict := .noResult }
        Ends result
          (clearAlarm .pullStation .track
            (pullWork (recordCandidate r c outcome { s with plm := { p with req := none, timeouts := 0 } })))) ∧
    (s.ccs.inReset = false →
      ((∀ q, p.req = some q → (s.ccs.timebase - q.sendTime).toNat < 5000) → Ends (exec .pullRequestTimeout s) s) ∧
      ∀ q r c, p.req = some q → 5000 ≤ (s.ccs.timebase - q.sendTime).toNat → finds r c q →
        let n := min 255 (p.timeouts + 1)
        let t := raiseAlarm .pullTimeout .track (q.unit * 1000 + q.wire) { s with plm := { p with req := none, timeouts := n } }
        Ends (exec .pullRequestTimeout s)
          (pullWork (recordCandidate r c { verdict := .noResult } (if 3 ≤ n then raiseAlarm .pullStation .track n t else t))))

/-- The append of a pull record (R124, R126): its fields, the candidate's record number and status, and the level notices; and the
work on the strip at POST (R120): candidates NOT_BONDED recorded one after the other, the wait for a place in the log, and DONE. -/
def Obligations.RecordsJoinTheLog : Prop :=
  ∀ (s : State) (r : StripRecord), s.trc.post = some r → candidatesLawful r.candidates →
    let n := s.plm.nextRecord
    let at_ (x : StripRecord) : State := { s with trc := { s.trc with post := some x } }
    (∀ (c : Candidate) (o : PullOutcome), c ∈ r.candidates →
      let record : PullRecord :=
        { number := n, time := s.ccs.timebase, seq := r.seq, code := r.code, program := r.program, unit := c.unit, wire := c.wire,
          head := c.head, reason := c.reason, ball := c.ball, stitch := c.stitch, force := o.force, mode := o.mode,
          status := o.status, verdict := o.verdict }
      let taken (d : Candidate) : Candidate :=
        if d = c then { d with record := some n, status := if d.status = .bonded then .pulled else d.status } else d
      let t := weighRecord r.program o { at_ { r with candidates := r.candidates.map taken } with
        plm := { s.plm with log := s.plm.log ++ [record], nextRecord := (n + 1) % 65536 } }
      recordCandidate r c o s =
        if s.plm.log.length + 1 = 256 ∧ s.plm.half = false then notify (.pullLog .half) { t with plm := { t.plm with half := true } }
        else if s.plm.log.length + 1 = 512 then notify (.pullLog .full) t else t) ∧
    (let works : Prop := r.state = .pulling ∧ r.scrapped = false ∧ s.plm.req = none
     let decided (d : Candidate) : Prop := d.record ≠ none ∨ d.status = .cancelled
     (¬works → pullWork s = s) ∧
     (works → (∀ c ∈ r.candidates, decided c) → pullWork s = at_ { r with state := .done }) ∧
     (works → ∀ c l m, r.candidates = l ++ c :: m → (∀ d ∈ l, decided d) → ¬decided c →
        (512 ≤ s.plm.log.length →
          pullWork s =
            if r.logWait then s
            else raiseAlarm .pullLogFull .track r.seq (notify (.pullLog .full) (at_ { r with logWait := true }))) ∧
        (s.plm.log.length < 512 → c.status ≠ .notBonded → pullWork s = s) ∧
        (s.plm.log.length < 512 → c.status = .notBonded → pullWork s = pullWork (recordCandidate r c { verdict := .notBonded } s))))

/-- Statistics (R129, R131), the capability check (R132) and the program hold (R133): what a PASS and a FAIL record do to them,
what STATS_READ returns and STATS_RESET clears (R130), and PROGRAM_RELEASE (R135). The deviation d is the root that R131 rounds
down. That STATS_RESET ALL clears the PULL_CAPABILITY conditions from program 0 to program 7 is the model's reading (log entry
17), and so is that PROGRAM_RELEASE, once reason PROGRAM has left the heads, evaluates the strip at BOND for CHECKING (log entry
41). -/
def Obligations.ForcesAreCountedAndWeighed : Prop :=
  ∀ (s : State) (p : Nat),
    let x := s.plm.stats.getD p {}
    let e := s.plm.limits.getD p {}
    let put (z : Stats) : State := { s with plm := { s.plm with stats := s.plm.stats.set p z } }
    let deviates (z : Stats) (d : Nat) : Prop :=
      let q := (z.n * z.sumSq - z.sum * z.sum) / (z.n * (z.n - 1))
      d * d ≤ q ∧ q < (d + 1) * (d + 1)
    (∀ (o : PullOutcome) (f m : Nat),
      (o.verdict = .noResult ∨ o.verdict = .notBonded → weighRecord p o s = s) ∧
      (o.force = some f → o.mode = some m → o.verdict = .pass → weighRecord p o s = countForce p f s) ∧
      (o.force = some f → o.mode = some m → o.verdict = .fail → weighRecord p o s = weighHold p m (countForce p f s))) ∧
    (p < s.plm.stats.length → ∀ f : Nat,
      let y : Stats :=
        { x with
          n := x.n + 1, sum := x.sum + f, sumSq := x.sumSq + f * f, min := some ((x.min.map (min · f)).getD f),
          max := some ((x.max.map (max · f)).getD f) }
      let checked : Prop := e.valid = true ∧ e.capCount ≤ x.n + 1
      (x.n = 65535 → countForce p f s = put { x with saturated := true }) ∧
      (x.n ≠ 65535 → ¬checked → countForce p f s = put y) ∧
      (x.n ≠ 65535 → checked → 2 ≤ e.capCount → ∀ d, deviates y d →
        let margin : Int := (y.sum / y.n : Nat) - 3 * d
        countForce p f s =
          if margin < e.capLimit then
            if x.failing then put y
            else raiseAlarm .pullCapability (.program p) margin.toNat (put { y with failing := true })
          else if x.failing then clearAlarm .pullCapability (.program p) (put { y with failing := false }) else put y)) ∧
    (∀ (m : Nat) (r : StripRecord), 1 ≤ m → m ≤ 5 → s.trc.post = some r →
      let limit : ModeLimit :=
        if e.valid then [e.m1, e.m2, e.m3, e.m4, e.m5].getD (m - 1) {} else if m = 1 ∨ m = 5 then { rejectAlways := true } else {}
      let t : State := { s with trc := { s.trc with post := some { r with pullFails := r.pullFails + 1 } } }
      weighHold p m s =
        if (if e.valid then e.failLimit else 1) ≤ r.pullFails + 1 ∨ limit.rejectAlways = true then
          raiseAlarm .pullFail (.program p) r.seq { t with plm := { t.plm with progState := t.plm.progState.set p .held } }
        else t) ∧
    ∀ (b : State) (tag : Byte),
      (8 ≤ p → Serves (.statsRead tag p) tag (.statsRead p) b s s .badIndex ∧
        Serves (.statsReset tag (.program p)) tag (.statsReset (.program p)) b s s .badIndex ∧
        Serves (.programRelease tag p) tag (.programRelease p) b s s .badIndex) ∧
      (p < 8 →
        (∀ d, (2 ≤ x.n → deviates x d) →
          let a : Answer :=
            { result := .ok
              data := .stats
                { stats := x, mean := if x.n = 0 then none else some (x.sum / x.n), sd := if x.n < 2 then none else some d,
                  margin := if x.n < 2 then none else some ((x.sum / x.n : Nat) - 3 * (d : Int)),
                  state := s.plm.progState.getD p .running, strips := s.strips.countP fun r => r.program == p } }
          b.takes tag (.statsRead p) a s → Answers (exec (.statsRead tag p) b) tag (.statsRead p) s a) ∧
        Serves (.statsReset tag (.program p)) tag (.statsReset (.program p)) b s
          (if x.failing then clearAlarm .pullCapability (.program p) (put {}) else put {}) .ok ∧
        Serves (.programRelease tag p) tag (.programRelease p) b s
          (if s.plm.progState.getD p .running = .held then
            evaluateChecking (eachHead (removeReason .program)
              (clearAlarm .pullFail (.program p) { s with plm := { s.plm with progState := s.plm.progState.set p .running } }))
           else s)
          (if s.plm.progState.getD p .running = .held then .ok else .badState)) ∧
      Serves (.statsReset tag .all) tag (.statsReset .all) b s
        ([0, 1, 2, 3, 4, 5, 6, 7].foldl (fun (t : State) (q : Nat) =>
          let u : State := { t with plm := { t.plm with stats := t.plm.stats.set q {} } }
          if (t.plm.stats.getD q {}).failing then clearAlarm .pullCapability (.program q) u else u) s) .ok

/-- PULL_ADD (R118), PULL_READ (R125) and PULL_RELEASE (R126); STATUS_READ with the contents of its eight sections, a strip record
without its candidate list (R19, R116), and COUNTERS_CLEAR (R172). That section 3 gives the move number within the operation in
flight alone is the model's reading (log entry 46). -/
def Obligations.PullListsAndStatusAreServed : Prop :=
  ∀ (s u : State) (tag : Byte),
    (∀ seq n w : Nat,
      let serves (x : State) (c : ResultCode) : Prop := Serves (.pullAdd tag seq n w) tag (.pullAdd seq n w) s u x c
      ((∀ r ∈ u.strips, r.seq ≠ seq) → serves u .notFound) ∧
      ∀ p r, u.strip p = some r → r.seq = seq → (∀ q x, u.strip q = some x → x.seq = seq → q = p) →
        let e := u.program r.program
        let outside : Prop := e.rows * e.columns ≤ n ∨ e.wireCount ≤ w
        let refused : Prop := r.scrapped = true ∨ p = .post ∨ r.skip.getLsbD n = true
        let pair (d : Candidate) : Prop := d.unit = n ∧ d.wire = w
        let listed (l : List Candidate) : State := u.setStrip p (some { r with candidates := l })
        (outside → serves u .badIndex) ∧
        (¬outside → refused → serves u .badState) ∧
        (¬outside → ¬refused →
          (∀ l c m, r.candidates = l ++ c :: m → pair c → (∀ d ∈ l, ¬pair d) →
            serves (listed (l ++ { c with reason := .operator } :: m)) .ok) ∧
          ((∀ d ∈ r.candidates, ¬pair d) → 48 ≤ r.candidates.length → serves u .badState) ∧
          ((∀ d ∈ r.candidates, ¬pair d) → r.candidates.length < 48 →
            serves (listed (r.candidates ++
              [{ unit := n, wire := w, reason := .operator,
                 status := if p = .bond ∧ ∃ x, u.unit? n = some x ∧ w ∈ x.done then .bonded else .waiting }])) .ok))) ∧
    (∀ count : Nat,
      let a : Answer := { result := .ok, data := .pullRecords (u.plm.log.take count) }
      (count = 0 ∨ 4 < count → Serves (.pullRead tag count) tag (.pullRead count) s u u .badValue) ∧
      (1 ≤ count → count ≤ 4 → s.takes tag (.pullRead count) a u →
        Answers (exec (.pullRead tag count) s) tag (.pullRead count) u a)) ∧
    (∀ n : Nat,
      let serves (x : State) (c : ResultCode) : Prop := Serves (.pullRelease tag n) tag (.pullRelease n) s u x c
      (u.plm.log = [] → serves u .notFound) ∧
      ∀ x l d, u.plm.log = x :: l → x.number < 65536 → n < 65536 → d < 65536 → (x.number + d) % 65536 = n →
        (l.length + 1 ≤ d → serves u .notFound) ∧
        (d < l.length + 1 →
          let t : State := { u with plm := { u.plm with log := l.drop d } }
          let t := if u.plm.half = true ∧ l.length - d < 256 then
              notify (.pullLog .belowHalf) { t with plm := { t.plm with half := false } }
            else t
          ((∀ r, u.trc.post = some r → r.logWait = false) → serves t .ok) ∧
          ∀ r, u.trc.post = some r → r.logWait = true →
            serves (pullWork (clearAlarm .pullLogFull .track
              { t with trc := { t.trc with post := some { r with logWait := false } } })) .ok)) ∧
    (∀ n : Nat,
      let record (r : StripRecord) : StripRecord := { r with candidates := [], former := .done }
      let sections : List StatusReport :=
        [ .cell u.ccs.cell u.ccs.estop u.ccs.feedPause u.ccs.timebase u.ccs.cause u.lif.dropped
        , .link u.lif.uCounts u.lif.fCounts u.lif.ufQueue.length u.lif.fuQueue.length u.lif.requests.length u.lif.notices.length
        , .feed u.fdc.mag u.fdc.pendingSlot u.fdc.resume u.fdc.pointer u.nextSlot
            (u.fdc.push.map fun p => { p with magTouched := false }) u.fdc.out u.fdc.fill u.fdc.reserved
        , .track (u.trc.preheat.map record) (u.trc.bond.map record) (u.trc.post.map record) u.trc.lastEjected u.trc.op u.trc.heat
        , .head { u.head .a with abandoning := false } (u.chan .a) (u.vcu.last.get .a)
        , .head { u.head .b with abandoning := false } (u.chan .b) (u.vcu.last.get .b)
        , .scan u.vcu.scan u.vcu.pos u.vcu.pendingWire u.vcu.rebondHead
        , .pull u.plm.log.length (u.plm.log.head?.map (·.number)) u.plm.nextRecord u.plm.half u.plm.req u.plm.timeouts
            u.plm.pullTag ]
      (7 < n → Serves (.statusRead tag n) tag (.statusRead n) s u u .badIndex) ∧
      ∀ d, sections[n]? = some d →
        let a : Answer := { result := .ok, data := .status d }
        s.takes tag (.statusRead n) a u →
          Answers (exec (.statusRead tag n) s) tag (.statusRead n) (if n = 0 then { u with ccs := { u.ccs with cause := .none } } else u) a) ∧
    Serves (.countersClear tag) tag .countersClear s u
      { u with lif := { u.lif with uCounts := { crc := 0, length := 0, overrun := 0 }, fCounts := { crc := 0, length := 0, overrun := 0 },
                                   dropped := 0 } } .ok

/-! ### Keys (R155, R159, R160) -/

/-- SCREEN_KEY of a terminal (R159): discarded without an entry of the key map, NOT PERMITTED below the required level, a page
change, NO TARGET, GONE, ALARM, or the action applied as its management request would be (the table of R160), with the result's
name on the message line; the levels in their order, the operands that each action accepts (R160), and the 16 bits of a tag (R155,
11.9), with which a tag as sent and a tag as carried by a key agree. A tag that the layout does not have counts as no target (log
entry 20); an ACK_ALARM whose tag of kind ALARM has a code or scope that is not one of R138 or does not fit gets BAD_VALUE (R144)
before the entry is looked for (log entry 37); and R160's table has no action for STRIP_OP SCRAP (log entry 38): these are the
model's reading. -/
def Obligations.KeysActAsRequests : Prop :=
  let spells (g : DisplayTag) : Nat :=
    match g with
    | .none => 0
    | .alarm code scope =>
      8192 +
        16 * ([ AlarmCode.slotMismatch, .inputEmpty, .idMismatch, .feedJam, .outputFull, .trackJam, .heatSignal, .heatNotReady
              , .headFault, .nsop, .nsol, .missedWire, .pullTimeout, .pullStation, .pullFail, .pullCapability, .pullLogFull
              , .estop ].idxOf code + 1) +
        (match scope with
         | .cell => 0
         | .head .a => 1
         | .head .b => 2
         | .feeder => 3
         | .track => 4
         | .program p => 5 + p)
    | .strip q => 2 * 8192 + q.toNat
    | .unit q n => 3 * 8192 + 64 * q.toNat + n.toNat
    | .head .a => 4 * 8192
    | .head .b => 4 * 8192 + 1
    | .program p => 5 * 8192 + p.toNat
    | .slot n => 6 * 8192 + n.toNat
  let legal (g : DisplayTag) : Prop := ∀ code p, g = .alarm code (.program p) → p < 8
  (∀ g, legal g → (encodeTag g).toNat = spells g) ∧
  (∀ code, resultMessage code =
    match code with
    | .ok => "OK" | .notFound => "GONE" | .busy => "BUSY" | .badOp => "BAD_OP" | .badTable => "BAD_TABLE" | .badIndex => "BAD_INDEX"
    | .badValue => "BAD_VALUE" | .duplicate => "DUPLICATE" | .inUse => "IN_USE" | .badState => "BAD_STATE"
    | .notShown => "NOT_SHOWN" | .owned => "OWNED") ∧
  (∀ (b : BitVec 16) (g : DisplayTag), decodeTag b = some g ↔ legal g ∧ spells g = b.toNat) ∧
  (∀ l : Level, levelRank l = match l with
    | .view => 0
    | .operator => 1
    | .technician => 2) ∧
  (let operands : KeyAction → Option Nat × Bool
    | .page => (some 15, false)
    | .pageNext => (some 0, false)
    | .pauseHead | .resumeHead | .clearFault => (some 1, true)
    | .pauseCell | .resumeCell => (some 0, false)
    | .ackAlarm | .skipUnit | .nsbResume | .waiveWire | .rebondWire | .acceptId => (none, true)
    | .releaseProgram => (some 7, true)
    | .acceptSlot | .skipSlot => (some 39, true)
   ∀ a : KeyAction, fixedMax a = (operands a).1 ∧ takesTag a = (operands a).2) ∧
  ∀ (s : State) (src : Byte) (key tile : Nat) (tag : BitVec 16) (k : Term),
    s.ccs.inReset = false → s.roleAt src.toNat = .term k →
    let x := s.term k
    let c := exec (.screenKey src key tile tag) s
    let page := s.tmc.pages.getD x.page {}
    let entries := (s.tmc.keys.drop (page.keyMap * 16)).take 16
    let tells (text : String) (t : State) : State := t.modTerm k fun y => { y with message := text.toList, messagePending := true }
    let turned (p : Nat) : State := s.modTerm k fun _ =>
      { x with page := p, lastSent := [], message := [], messagePending := false, pagePending := true
               dirty := (s.pageTiles p).map fun i => (i, false) }
    (page.valid = false ∨ (∀ e ∈ entries, e.valid = true → e.key ≠ key) → Ends c s) ∧
    ∀ l e m a, page.valid = true → entries = l ++ e :: m → (∀ d ∈ l, d.valid = true → d.key ≠ key) → e.valid = true → e.key = key →
      e.action = some a →
      let required := if a = .clearFault ∨ a = .releaseProgram ∨ a = .acceptId then .technician else e.minLevel.getD .view
      let held (h : Option Head) : Prop := ∃ r ∈ s.alc.list, isStop r.code = true ∧ r.state ≠ .activeAcked ∧
        (r.scope = .cell ∨ ∃ g, h = some g ∧ r.scope = .head g)
      let done (h : Option Head) (f : State → Served) : State :=
        if (a = .resumeHead ∨ a = .resumeCell) ∧ held h then tells "ALARM" s else tells (resultMessage (f s).2.result) (f s).1
      (levelRank x.level < levelRank required → Ends c (tells "NOT PERMITTED" s)) ∧
      (levelRank required ≤ levelRank x.level →
        (a = .page → Ends c (if (s.tmc.pages.getD e.fixed {}).valid then turned e.fixed else tells "NO PAGE" s)) ∧
        (a = .pageNext →
          let valid (d : Nat) : Prop := (s.tmc.pages.getD ((x.page + d) % 16) {}).valid = true
          ((∀ d, 1 ≤ d → d ≤ 15 → ¬valid d) → Ends c (turned x.page)) ∧
          ∀ d, 1 ≤ d → d ≤ 15 → valid d → (∀ j, 1 ≤ j → j < d → ¬valid j) → Ends c (turned ((x.page + d) % 16))) ∧
        (e.source = some .fixed →
          let h : Head := if e.fixed = 0 then .a else .b
          (a = .pauseHead → Ends c (done none (onHeadPause h))) ∧
          (a = .resumeHead → Ends c (done (some h) (onHeadResume h))) ∧
          (a = .clearFault → Ends c (done none (onClearFault h))) ∧
          (a = .pauseCell → Ends c (done none onPause)) ∧
          (a = .resumeCell → Ends c (done none onResume)) ∧
          (a = .releaseProgram → Ends c (done none (onProgramRelease e.fixed))) ∧
          (a = .acceptSlot → Ends c (done none (onSlotOp .acceptSensed e.fixed))) ∧
          (a = .skipSlot → Ends c (done none (onSlotOp .skipSlot e.fixed)))) ∧
        (e.source ≠ some .fixed → a ≠ .page → a ≠ .pageNext →
          let strip (q : BitVec 7) := s.strips.find? fun y => y.seq % 128 == q.toNat
          let seq (q : BitVec 7) : Nat := ((strip q).map (·.seq)).getD 0
          let scanned (n : Nat) : Option WireRef :=
            match s.trc.bond, s.vcu.pendingWire with
            | some r, some (u, w) => if r.seq = n then some { seq := n, unit := u, wire := w } else none
            | _, _ => none
          let wired (w : Option WireRef) (f : WireRef → State → Served) (t : State) : Served :=
            match w with
            | some w => f w t
            | none => (t, { result := .badState })
          let wire (h : Head) : Option WireRef :=
            match (s.head h).nsb with
            | some d => some d.wire
            | none => (s.trc.bond.map (·.seq)).bind scanned
          let request (g : DisplayTag) : Option (Option Head × (State → Served)) :=
            match a, g with
            | .pauseHead, .head h => some (none, onHeadPause h)
            | .resumeHead, .head h => some (some h, onHeadResume h)
            | .clearFault, .head h => some (none, onClearFault h)
            | .ackAlarm, .alarm code scope => some (none, onAlarmAck (some code) (some scope))
            | .skipUnit, .unit q n => some (none, onSkipUnit (seq q) n.toNat)
            | .nsbResume, .head h => some (none, wired ((s.head h).nsb.map (·.wire)) onNsbResume)
            | .waiveWire, .head h => some (none, wired (wire h) onWaiveWire)
            | .waiveWire, .strip q => some (none, wired (scanned (seq q)) onWaiveWire)
            | .rebondWire, .head h => some (none, wired (wire h) onRebondWire)
            | .rebondWire, .strip q => some (none, wired (scanned (seq q)) onRebondWire)
            | .releaseProgram, .program p => some (none, onProgramRelease p.toNat)
            | .acceptSlot, .slot n => some (none, onSlotOp .acceptSensed n.toNat)
            | .skipSlot, .slot n => some (none, onSlotOp .skipSlot n.toNat)
            | .acceptId, .strip q => some (none, onAcceptId (seq q))
            | _, _ => none
          let found (g : DisplayTag) : Prop :=
            match g with
            | .alarm code scope => ∃ r ∈ s.alc.list, r.code = code ∧ r.scope = scope ∧ r.state ≠ .activeAcked
            | .strip q => (strip q).isSome = true
            | .unit q n => ∃ y, strip q = some y ∧ n.toNat < (s.program y.program).rows * (s.program y.program).columns
            | .none => False
            | .head _ | .program _ | .slot _ => True
          let misfit : Prop := a = .ackAlarm ∧ 8192 ≤ tag.toNat ∧ tag.toNat < 8192 + 512 ∧
            ∀ code scope, scopeFits scope code = true → spells (.alarm code scope) ≠ tag.toNat
          (tile ∉ s.pageTiles x.page → Ends c (tells "NO TARGET" s)) ∧
          (tile ∈ s.pageTiles x.page →
            (misfit → Ends c (tells "BAD_VALUE" s)) ∧
            (¬misfit → decodeTag tag = none → Ends c (tells "NO TARGET" s)) ∧
            (¬misfit → ∀ g, decodeTag tag = some g →
              (request g = none → Ends c (tells "NO TARGET" s)) ∧
              ∀ h f, request g = some (h, f) →
                (¬found g → Ends c (tells "GONE" s)) ∧ (found g → Ends c (done h f))))))

/-! ### Laws of a run -/

/-- Every step answers a next state, and keeps together: the bounds of LIF's queues (R167, R168, R169, R173) and one waiting drive
frame for each channel, Law 9 of the alarm list (R137, R142), Law 6 of the pull log (R125) with the place of a pull in flight
(R120), Law 10 of the E-stop line and the heads (R65, R175), Law 12 of the heads' nodes (R64, R164, R166), and the rules of plans
and candidate lists (R113, R116). That a newer drive frame takes the place of one still waiting is the model's choice (log entry
7). -/
def Obligations.EveryStepKeepsTheLaws : Prop :=
  ∀ s : State,
    (∃ t, step s = .next t) ∧
    (s.queuesBounded → s.oneDriveEach → s.alarmsLawful → s.logLawful → s.stopLawful → s.candidatesLawful → s.gateLawful →
      ∀ t, step s = .next t →
        t.queuesBounded ∧ t.oneDriveEach ∧ t.alarmsLawful ∧ t.logLawful ∧ t.stopLawful ∧ t.candidatesLawful ∧ t.gateLawful)

/-- The state after reset meets the laws that every step keeps. -/
def Obligations.ResetMeetsTheLaws : Prop :=
  State.reset.queuesBounded ∧ State.reset.oneDriveEach ∧ State.reset.alarmsLawful ∧ State.reset.logLawful ∧ State.reset.stopLawful ∧
  State.reset.candidatesLawful ∧ State.reset.gateLawful
end

