-- ==== Sys2Proof/Laws/State.lean ====
section
/-! SUPPORT. What each named update of the state writes and what it leaves: one lemma per field per update, true by rfl. -/

namespace Sys2Proof.Machine

variable (s : State)

/-! ### State.modHead -/

@[simp] theorem State.modHead_ccs (h : Head) (f : HeadCtx → HeadCtx) : (s.modHead h f).ccs = s.ccs := rfl
@[simp] theorem State.modHead_lif (h : Head) (f : HeadCtx → HeadCtx) : (s.modHead h f).lif = s.lif := rfl
@[simp] theorem State.modHead_fdc (h : Head) (f : HeadCtx → HeadCtx) : (s.modHead h f).fdc = s.fdc := rfl
@[simp] theorem State.modHead_trc (h : Head) (f : HeadCtx → HeadCtx) : (s.modHead h f).trc = s.trc := rfl
@[simp] theorem State.modHead_usc (h : Head) (f : HeadCtx → HeadCtx) : (s.modHead h f).usc = s.usc := rfl
@[simp] theorem State.modHead_heads (h : Head) (f : HeadCtx → HeadCtx) : (s.modHead h f).heads = s.heads.set h (f (s.heads.get h)) := rfl
@[simp] theorem State.modHead_channels (h : Head) (f : HeadCtx → HeadCtx) : (s.modHead h f).channels = s.channels := rfl
@[simp] theorem State.modHead_recipes (h : Head) (f : HeadCtx → HeadCtx) : (s.modHead h f).recipes = s.recipes := rfl
@[simp] theorem State.modHead_vcu (h : Head) (f : HeadCtx → HeadCtx) : (s.modHead h f).vcu = s.vcu := rfl
@[simp] theorem State.modHead_plm (h : Head) (f : HeadCtx → HeadCtx) : (s.modHead h f).plm = s.plm := rfl
@[simp] theorem State.modHead_alc (h : Head) (f : HeadCtx → HeadCtx) : (s.modHead h f).alc = s.alc := rfl
@[simp] theorem State.modHead_tmc (h : Head) (f : HeadCtx → HeadCtx) : (s.modHead h f).tmc = s.tmc := rfl
@[simp] theorem State.modHead_free (h : Head) (f : HeadCtx → HeadCtx) : (s.modHead h f).free = s.free := rfl
@[simp] theorem State.modHead_pending (h : Head) (f : HeadCtx → HeadCtx) : (s.modHead h f).pending = s.pending := rfl

/-! ### State.setChan -/

@[simp] theorem State.setChan_ccs (h : Head) (c : Channel) : (s.setChan h c).ccs = s.ccs := rfl
@[simp] theorem State.setChan_lif (h : Head) (c : Channel) : (s.setChan h c).lif = s.lif := rfl
@[simp] theorem State.setChan_fdc (h : Head) (c : Channel) : (s.setChan h c).fdc = s.fdc := rfl
@[simp] theorem State.setChan_trc (h : Head) (c : Channel) : (s.setChan h c).trc = s.trc := rfl
@[simp] theorem State.setChan_usc (h : Head) (c : Channel) : (s.setChan h c).usc = s.usc := rfl
@[simp] theorem State.setChan_heads (h : Head) (c : Channel) : (s.setChan h c).heads = s.heads := rfl
@[simp] theorem State.setChan_channels (h : Head) (c : Channel) : (s.setChan h c).channels = s.channels.set h c := rfl
@[simp] theorem State.setChan_recipes (h : Head) (c : Channel) : (s.setChan h c).recipes = s.recipes := rfl
@[simp] theorem State.setChan_vcu (h : Head) (c : Channel) : (s.setChan h c).vcu = s.vcu := rfl
@[simp] theorem State.setChan_plm (h : Head) (c : Channel) : (s.setChan h c).plm = s.plm := rfl
@[simp] theorem State.setChan_alc (h : Head) (c : Channel) : (s.setChan h c).alc = s.alc := rfl
@[simp] theorem State.setChan_tmc (h : Head) (c : Channel) : (s.setChan h c).tmc = s.tmc := rfl
@[simp] theorem State.setChan_free (h : Head) (c : Channel) : (s.setChan h c).free = s.free := rfl
@[simp] theorem State.setChan_pending (h : Head) (c : Channel) : (s.setChan h c).pending = s.pending := rfl

/-! ### State.modTerm -/

@[simp] theorem State.modTerm_ccs (t : Term) (f : TermState → TermState) : (s.modTerm t f).ccs = s.ccs := rfl
@[simp] theorem State.modTerm_lif (t : Term) (f : TermState → TermState) : (s.modTerm t f).lif = s.lif := rfl
@[simp] theorem State.modTerm_fdc (t : Term) (f : TermState → TermState) : (s.modTerm t f).fdc = s.fdc := rfl
@[simp] theorem State.modTerm_trc (t : Term) (f : TermState → TermState) : (s.modTerm t f).trc = s.trc := rfl
@[simp] theorem State.modTerm_usc (t : Term) (f : TermState → TermState) : (s.modTerm t f).usc = s.usc := rfl
@[simp] theorem State.modTerm_heads (t : Term) (f : TermState → TermState) : (s.modTerm t f).heads = s.heads := rfl
@[simp] theorem State.modTerm_channels (t : Term) (f : TermState → TermState) : (s.modTerm t f).channels = s.channels := rfl
@[simp] theorem State.modTerm_recipes (t : Term) (f : TermState → TermState) : (s.modTerm t f).recipes = s.recipes := rfl
@[simp] theorem State.modTerm_vcu (t : Term) (f : TermState → TermState) : (s.modTerm t f).vcu = s.vcu := rfl
@[simp] theorem State.modTerm_plm (t : Term) (f : TermState → TermState) : (s.modTerm t f).plm = s.plm := rfl
@[simp] theorem State.modTerm_alc (t : Term) (f : TermState → TermState) : (s.modTerm t f).alc = s.alc := rfl
@[simp] theorem State.modTerm_tmc (t : Term) (f : TermState → TermState) : (s.modTerm t f).tmc = { s.tmc with terms := s.tmc.terms.set t (f (s.tmc.terms.get t)) } := rfl
@[simp] theorem State.modTerm_free (t : Term) (f : TermState → TermState) : (s.modTerm t f).free = s.free := rfl
@[simp] theorem State.modTerm_pending (t : Term) (f : TermState → TermState) : (s.modTerm t f).pending = s.pending := rfl

/-! ### State.modUnit -/

@[simp] theorem State.modUnit_ccs (u : Nat) (f : UnitRecord → UnitRecord) : (s.modUnit u f).ccs = s.ccs := rfl
@[simp] theorem State.modUnit_lif (u : Nat) (f : UnitRecord → UnitRecord) : (s.modUnit u f).lif = s.lif := rfl
@[simp] theorem State.modUnit_fdc (u : Nat) (f : UnitRecord → UnitRecord) : (s.modUnit u f).fdc = s.fdc := rfl
@[simp] theorem State.modUnit_trc (u : Nat) (f : UnitRecord → UnitRecord) : (s.modUnit u f).trc = s.trc := rfl
@[simp] theorem State.modUnit_usc (u : Nat) (f : UnitRecord → UnitRecord) : (s.modUnit u f).usc = { s.usc with units := s.usc.units.map fun l => modifyAt l u f } := rfl
@[simp] theorem State.modUnit_heads (u : Nat) (f : UnitRecord → UnitRecord) : (s.modUnit u f).heads = s.heads := rfl
@[simp] theorem State.modUnit_channels (u : Nat) (f : UnitRecord → UnitRecord) : (s.modUnit u f).channels = s.channels := rfl
@[simp] theorem State.modUnit_recipes (u : Nat) (f : UnitRecord → UnitRecord) : (s.modUnit u f).recipes = s.recipes := rfl
@[simp] theorem State.modUnit_vcu (u : Nat) (f : UnitRecord → UnitRecord) : (s.modUnit u f).vcu = s.vcu := rfl
@[simp] theorem State.modUnit_plm (u : Nat) (f : UnitRecord → UnitRecord) : (s.modUnit u f).plm = s.plm := rfl
@[simp] theorem State.modUnit_alc (u : Nat) (f : UnitRecord → UnitRecord) : (s.modUnit u f).alc = s.alc := rfl
@[simp] theorem State.modUnit_tmc (u : Nat) (f : UnitRecord → UnitRecord) : (s.modUnit u f).tmc = s.tmc := rfl
@[simp] theorem State.modUnit_free (u : Nat) (f : UnitRecord → UnitRecord) : (s.modUnit u f).free = s.free := rfl
@[simp] theorem State.modUnit_pending (u : Nat) (f : UnitRecord → UnitRecord) : (s.modUnit u f).pending = s.pending := rfl

/-! ### State.modFdc -/

@[simp] theorem State.modFdc_ccs (f : Fdc → Fdc) : (s.modFdc f).ccs = s.ccs := rfl
@[simp] theorem State.modFdc_lif (f : Fdc → Fdc) : (s.modFdc f).lif = s.lif := rfl
@[simp] theorem State.modFdc_fdc (f : Fdc → Fdc) : (s.modFdc f).fdc = f s.fdc := rfl
@[simp] theorem State.modFdc_trc (f : Fdc → Fdc) : (s.modFdc f).trc = s.trc := rfl
@[simp] theorem State.modFdc_usc (f : Fdc → Fdc) : (s.modFdc f).usc = s.usc := rfl
@[simp] theorem State.modFdc_heads (f : Fdc → Fdc) : (s.modFdc f).heads = s.heads := rfl
@[simp] theorem State.modFdc_channels (f : Fdc → Fdc) : (s.modFdc f).channels = s.channels := rfl
@[simp] theorem State.modFdc_recipes (f : Fdc → Fdc) : (s.modFdc f).recipes = s.recipes := rfl
@[simp] theorem State.modFdc_vcu (f : Fdc → Fdc) : (s.modFdc f).vcu = s.vcu := rfl
@[simp] theorem State.modFdc_plm (f : Fdc → Fdc) : (s.modFdc f).plm = s.plm := rfl
@[simp] theorem State.modFdc_alc (f : Fdc → Fdc) : (s.modFdc f).alc = s.alc := rfl
@[simp] theorem State.modFdc_tmc (f : Fdc → Fdc) : (s.modFdc f).tmc = s.tmc := rfl
@[simp] theorem State.modFdc_free (f : Fdc → Fdc) : (s.modFdc f).free = s.free := rfl
@[simp] theorem State.modFdc_pending (f : Fdc → Fdc) : (s.modFdc f).pending = s.pending := rfl

/-! ### State.modTrc -/

@[simp] theorem State.modTrc_ccs (f : Trc → Trc) : (s.modTrc f).ccs = s.ccs := rfl
@[simp] theorem State.modTrc_lif (f : Trc → Trc) : (s.modTrc f).lif = s.lif := rfl
@[simp] theorem State.modTrc_fdc (f : Trc → Trc) : (s.modTrc f).fdc = s.fdc := rfl
@[simp] theorem State.modTrc_trc (f : Trc → Trc) : (s.modTrc f).trc = f s.trc := rfl
@[simp] theorem State.modTrc_usc (f : Trc → Trc) : (s.modTrc f).usc = s.usc := rfl
@[simp] theorem State.modTrc_heads (f : Trc → Trc) : (s.modTrc f).heads = s.heads := rfl
@[simp] theorem State.modTrc_channels (f : Trc → Trc) : (s.modTrc f).channels = s.channels := rfl
@[simp] theorem State.modTrc_recipes (f : Trc → Trc) : (s.modTrc f).recipes = s.recipes := rfl
@[simp] theorem State.modTrc_vcu (f : Trc → Trc) : (s.modTrc f).vcu = s.vcu := rfl
@[simp] theorem State.modTrc_plm (f : Trc → Trc) : (s.modTrc f).plm = s.plm := rfl
@[simp] theorem State.modTrc_alc (f : Trc → Trc) : (s.modTrc f).alc = s.alc := rfl
@[simp] theorem State.modTrc_tmc (f : Trc → Trc) : (s.modTrc f).tmc = s.tmc := rfl
@[simp] theorem State.modTrc_free (f : Trc → Trc) : (s.modTrc f).free = s.free := rfl
@[simp] theorem State.modTrc_pending (f : Trc → Trc) : (s.modTrc f).pending = s.pending := rfl

/-! ### State.modHeat -/

@[simp] theorem State.modHeat_ccs (f : Heat → Heat) : (s.modHeat f).ccs = s.ccs := rfl
@[simp] theorem State.modHeat_lif (f : Heat → Heat) : (s.modHeat f).lif = s.lif := rfl
@[simp] theorem State.modHeat_fdc (f : Heat → Heat) : (s.modHeat f).fdc = s.fdc := rfl
@[simp] theorem State.modHeat_trc (f : Heat → Heat) : (s.modHeat f).trc = { s.trc with heat := f s.trc.heat } := rfl
@[simp] theorem State.modHeat_usc (f : Heat → Heat) : (s.modHeat f).usc = s.usc := rfl
@[simp] theorem State.modHeat_heads (f : Heat → Heat) : (s.modHeat f).heads = s.heads := rfl
@[simp] theorem State.modHeat_channels (f : Heat → Heat) : (s.modHeat f).channels = s.channels := rfl
@[simp] theorem State.modHeat_recipes (f : Heat → Heat) : (s.modHeat f).recipes = s.recipes := rfl
@[simp] theorem State.modHeat_vcu (f : Heat → Heat) : (s.modHeat f).vcu = s.vcu := rfl
@[simp] theorem State.modHeat_plm (f : Heat → Heat) : (s.modHeat f).plm = s.plm := rfl
@[simp] theorem State.modHeat_alc (f : Heat → Heat) : (s.modHeat f).alc = s.alc := rfl
@[simp] theorem State.modHeat_tmc (f : Heat → Heat) : (s.modHeat f).tmc = s.tmc := rfl
@[simp] theorem State.modHeat_free (f : Heat → Heat) : (s.modHeat f).free = s.free := rfl
@[simp] theorem State.modHeat_pending (f : Heat → Heat) : (s.modHeat f).pending = s.pending := rfl

/-! ### State.setAlarms -/

@[simp] theorem State.setAlarms_ccs (l : List AlarmEntry) : (s.setAlarms l).ccs = s.ccs := rfl
@[simp] theorem State.setAlarms_lif (l : List AlarmEntry) : (s.setAlarms l).lif = s.lif := rfl
@[simp] theorem State.setAlarms_fdc (l : List AlarmEntry) : (s.setAlarms l).fdc = s.fdc := rfl
@[simp] theorem State.setAlarms_trc (l : List AlarmEntry) : (s.setAlarms l).trc = s.trc := rfl
@[simp] theorem State.setAlarms_usc (l : List AlarmEntry) : (s.setAlarms l).usc = s.usc := rfl
@[simp] theorem State.setAlarms_heads (l : List AlarmEntry) : (s.setAlarms l).heads = s.heads := rfl
@[simp] theorem State.setAlarms_channels (l : List AlarmEntry) : (s.setAlarms l).channels = s.channels := rfl
@[simp] theorem State.setAlarms_recipes (l : List AlarmEntry) : (s.setAlarms l).recipes = s.recipes := rfl
@[simp] theorem State.setAlarms_vcu (l : List AlarmEntry) : (s.setAlarms l).vcu = s.vcu := rfl
@[simp] theorem State.setAlarms_plm (l : List AlarmEntry) : (s.setAlarms l).plm = s.plm := rfl
@[simp] theorem State.setAlarms_alc (l : List AlarmEntry) : (s.setAlarms l).alc = { s.alc with list := l } := rfl
@[simp] theorem State.setAlarms_tmc (l : List AlarmEntry) : (s.setAlarms l).tmc = s.tmc := rfl
@[simp] theorem State.setAlarms_free (l : List AlarmEntry) : (s.setAlarms l).free = s.free := rfl
@[simp] theorem State.setAlarms_pending (l : List AlarmEntry) : (s.setAlarms l).pending = s.pending := rfl

/-! ### State.setStats -/

@[simp] theorem State.setStats_ccs (p : Nat) (x : Stats) : (s.setStats p x).ccs = s.ccs := rfl
@[simp] theorem State.setStats_lif (p : Nat) (x : Stats) : (s.setStats p x).lif = s.lif := rfl
@[simp] theorem State.setStats_fdc (p : Nat) (x : Stats) : (s.setStats p x).fdc = s.fdc := rfl
@[simp] theorem State.setStats_trc (p : Nat) (x : Stats) : (s.setStats p x).trc = s.trc := rfl
@[simp] theorem State.setStats_usc (p : Nat) (x : Stats) : (s.setStats p x).usc = s.usc := rfl
@[simp] theorem State.setStats_heads (p : Nat) (x : Stats) : (s.setStats p x).heads = s.heads := rfl
@[simp] theorem State.setStats_channels (p : Nat) (x : Stats) : (s.setStats p x).channels = s.channels := rfl
@[simp] theorem State.setStats_recipes (p : Nat) (x : Stats) : (s.setStats p x).recipes = s.recipes := rfl
@[simp] theorem State.setStats_vcu (p : Nat) (x : Stats) : (s.setStats p x).vcu = s.vcu := rfl
@[simp] theorem State.setStats_plm (p : Nat) (x : Stats) : (s.setStats p x).plm = { s.plm with stats := s.plm.stats.set p x } := rfl
@[simp] theorem State.setStats_alc (p : Nat) (x : Stats) : (s.setStats p x).alc = s.alc := rfl
@[simp] theorem State.setStats_tmc (p : Nat) (x : Stats) : (s.setStats p x).tmc = s.tmc := rfl
@[simp] theorem State.setStats_free (p : Nat) (x : Stats) : (s.setStats p x).free = s.free := rfl
@[simp] theorem State.setStats_pending (p : Nat) (x : Stats) : (s.setStats p x).pending = s.pending := rfl

/-! ### State.setProgState -/

@[simp] theorem State.setProgState_ccs (p : Nat) (x : ProgramState) : (s.setProgState p x).ccs = s.ccs := rfl
@[simp] theorem State.setProgState_lif (p : Nat) (x : ProgramState) : (s.setProgState p x).lif = s.lif := rfl
@[simp] theorem State.setProgState_fdc (p : Nat) (x : ProgramState) : (s.setProgState p x).fdc = s.fdc := rfl
@[simp] theorem State.setProgState_trc (p : Nat) (x : ProgramState) : (s.setProgState p x).trc = s.trc := rfl
@[simp] theorem State.setProgState_usc (p : Nat) (x : ProgramState) : (s.setProgState p x).usc = s.usc := rfl
@[simp] theorem State.setProgState_heads (p : Nat) (x : ProgramState) : (s.setProgState p x).heads = s.heads := rfl
@[simp] theorem State.setProgState_channels (p : Nat) (x : ProgramState) : (s.setProgState p x).channels = s.channels := rfl
@[simp] theorem State.setProgState_recipes (p : Nat) (x : ProgramState) : (s.setProgState p x).recipes = s.recipes := rfl
@[simp] theorem State.setProgState_vcu (p : Nat) (x : ProgramState) : (s.setProgState p x).vcu = s.vcu := rfl
@[simp] theorem State.setProgState_plm (p : Nat) (x : ProgramState) : (s.setProgState p x).plm = { s.plm with progState := s.plm.progState.set p x } := rfl
@[simp] theorem State.setProgState_alc (p : Nat) (x : ProgramState) : (s.setProgState p x).alc = s.alc := rfl
@[simp] theorem State.setProgState_tmc (p : Nat) (x : ProgramState) : (s.setProgState p x).tmc = s.tmc := rfl
@[simp] theorem State.setProgState_free (p : Nat) (x : ProgramState) : (s.setProgState p x).free = s.free := rfl
@[simp] theorem State.setProgState_pending (p : Nat) (x : ProgramState) : (s.setProgState p x).pending = s.pending := rfl

/-! ### State.modFCounts -/

@[simp] theorem State.modFCounts_ccs (f : PortCounts → PortCounts) : (s.modFCounts f).ccs = s.ccs := rfl
@[simp] theorem State.modFCounts_lif (f : PortCounts → PortCounts) : (s.modFCounts f).lif = { s.lif with fCounts := f s.lif.fCounts } := rfl
@[simp] theorem State.modFCounts_fdc (f : PortCounts → PortCounts) : (s.modFCounts f).fdc = s.fdc := rfl
@[simp] theorem State.modFCounts_trc (f : PortCounts → PortCounts) : (s.modFCounts f).trc = s.trc := rfl
@[simp] theorem State.modFCounts_usc (f : PortCounts → PortCounts) : (s.modFCounts f).usc = s.usc := rfl
@[simp] theorem State.modFCounts_heads (f : PortCounts → PortCounts) : (s.modFCounts f).heads = s.heads := rfl
@[simp] theorem State.modFCounts_channels (f : PortCounts → PortCounts) : (s.modFCounts f).channels = s.channels := rfl
@[simp] theorem State.modFCounts_recipes (f : PortCounts → PortCounts) : (s.modFCounts f).recipes = s.recipes := rfl
@[simp] theorem State.modFCounts_vcu (f : PortCounts → PortCounts) : (s.modFCounts f).vcu = s.vcu := rfl
@[simp] theorem State.modFCounts_plm (f : PortCounts → PortCounts) : (s.modFCounts f).plm = s.plm := rfl
@[simp] theorem State.modFCounts_alc (f : PortCounts → PortCounts) : (s.modFCounts f).alc = s.alc := rfl
@[simp] theorem State.modFCounts_tmc (f : PortCounts → PortCounts) : (s.modFCounts f).tmc = s.tmc := rfl
@[simp] theorem State.modFCounts_free (f : PortCounts → PortCounts) : (s.modFCounts f).free = s.free := rfl
@[simp] theorem State.modFCounts_pending (f : PortCounts → PortCounts) : (s.modFCounts f).pending = s.pending := rfl

/-! ### State.modUCounts -/

@[simp] theorem State.modUCounts_ccs (f : PortCounts → PortCounts) : (s.modUCounts f).ccs = s.ccs := rfl
@[simp] theorem State.modUCounts_lif (f : PortCounts → PortCounts) : (s.modUCounts f).lif = { s.lif with uCounts := f s.lif.uCounts } := rfl
@[simp] theorem State.modUCounts_fdc (f : PortCounts → PortCounts) : (s.modUCounts f).fdc = s.fdc := rfl
@[simp] theorem State.modUCounts_trc (f : PortCounts → PortCounts) : (s.modUCounts f).trc = s.trc := rfl
@[simp] theorem State.modUCounts_usc (f : PortCounts → PortCounts) : (s.modUCounts f).usc = s.usc := rfl
@[simp] theorem State.modUCounts_heads (f : PortCounts → PortCounts) : (s.modUCounts f).heads = s.heads := rfl
@[simp] theorem State.modUCounts_channels (f : PortCounts → PortCounts) : (s.modUCounts f).channels = s.channels := rfl
@[simp] theorem State.modUCounts_recipes (f : PortCounts → PortCounts) : (s.modUCounts f).recipes = s.recipes := rfl
@[simp] theorem State.modUCounts_vcu (f : PortCounts → PortCounts) : (s.modUCounts f).vcu = s.vcu := rfl
@[simp] theorem State.modUCounts_plm (f : PortCounts → PortCounts) : (s.modUCounts f).plm = s.plm := rfl
@[simp] theorem State.modUCounts_alc (f : PortCounts → PortCounts) : (s.modUCounts f).alc = s.alc := rfl
@[simp] theorem State.modUCounts_tmc (f : PortCounts → PortCounts) : (s.modUCounts f).tmc = s.tmc := rfl
@[simp] theorem State.modUCounts_free (f : PortCounts → PortCounts) : (s.modUCounts f).free = s.free := rfl
@[simp] theorem State.modUCounts_pending (f : PortCounts → PortCounts) : (s.modUCounts f).pending = s.pending := rfl

/-! ### Heads, channels, terminals -/

@[simp] theorem PerHead.get_set_self {α : Type} (p : PerHead α) (h : Head) (x : α) : (p.set h x).get h = x := by
  cases h <;> rfl

@[simp] theorem PerHead.get_set_other {α : Type} (p : PerHead α) (h : Head) (x : α) : (p.set h x).get h.other = p.get h.other := by
  cases h <;> rfl

theorem PerHead.get_set {α : Type} (p : PerHead α) (h k : Head) (x : α) :
    (p.set h x).get k = if k = h then x else p.get k := by
  cases h <;> cases k <;> rfl

@[simp] theorem PerHead.set_get {α : Type} (p : PerHead α) (h : Head) : p.set h (p.get h) = p := by
  cases h <;> rfl

@[simp] theorem PerHead.set_set {α : Type} (p : PerHead α) (h : Head) (x y : α) : (p.set h x).set h y = p.set h y := by
  cases h <;> rfl

@[simp] theorem PerTerm.get_set_self {α : Type} (p : PerTerm α) (t : Term) (x : α) : (p.set t x).get t = x := by
  cases t <;> rfl

theorem PerTerm.get_set {α : Type} (p : PerTerm α) (t k : Term) (x : α) :
    (p.set t x).get k = if k = t then x else p.get k := by
  cases t <;> cases k <;> rfl

/-- A field that the change keeps reads as before at every head. -/
theorem PerHead.get_set_map {α β : Type} (p : PerHead α) (h k : Head) (f : α → α) (g : α → β) (hg : ∀ a, g (f a) = g a) :
    g ((p.set h (f (p.get h))).get k) = g (p.get k) := by
  cases h <;> cases k <;> first | exact hg _ | rfl

/-- A field that the change keeps reads as before at every terminal. -/
theorem PerTerm.get_set_map {α β : Type} (p : PerTerm α) (t k : Term) (f : α → α) (g : α → β) (hg : ∀ a, g (f a) = g a) :
    g ((p.set t (f (p.get t))).get k) = g (p.get k) := by
  cases t <;> cases k <;> first | exact hg _ | rfl

@[simp] theorem State.head_modHead_self (h : Head) (f : HeadCtx → HeadCtx) : (s.modHead h f).head h = f (s.head h) := by
  cases h <;> rfl

@[simp] theorem State.head_modHead_other (h : Head) (f : HeadCtx → HeadCtx) : (s.modHead h f).head h.other = s.head h.other := by
  cases h <;> rfl

@[simp] theorem State.chan_setChan_self (h : Head) (c : Channel) : (s.setChan h c).chan h = c := by
  cases h <;> rfl

@[simp] theorem State.chan_setChan_other (h : Head) (c : Channel) : (s.setChan h c).chan h.other = s.chan h.other := by
  cases h <;> rfl

@[simp] theorem State.chan_modHead (h k : Head) (f : HeadCtx → HeadCtx) : (s.modHead h f).chan k = s.chan k := rfl

@[simp] theorem State.head_setChan (h k : Head) (c : Channel) : (s.setChan h c).head k = s.head k := rfl

@[simp] theorem State.term_modTerm_self (t : Term) (f : TermState → TermState) : (s.modTerm t f).term t = f (s.term t) := by
  cases t <;> rfl

/-! ### Strip records -/

@[simp] theorem State.strip_setStrip_self (p : Position) (r : Option StripRecord) : (s.setStrip p r).strip p = r := by
  cases p <;> rfl

@[simp] theorem State.strip_modStrip_self (p : Position) (f : StripRecord → StripRecord) :
    (s.modStrip p f).strip p = (s.strip p).map f := by
  cases p <;> rfl

@[simp] theorem State.setStrip_ccs (p : Position) (r : Option StripRecord) : (s.setStrip p r).ccs = s.ccs := by
  cases p <;> rfl

@[simp] theorem State.setStrip_lif (p : Position) (r : Option StripRecord) : (s.setStrip p r).lif = s.lif := by
  cases p <;> rfl

@[simp] theorem State.setStrip_fdc (p : Position) (r : Option StripRecord) : (s.setStrip p r).fdc = s.fdc := by
  cases p <;> rfl

@[simp] theorem State.setStrip_usc (p : Position) (r : Option StripRecord) : (s.setStrip p r).usc = s.usc := by
  cases p <;> rfl

@[simp] theorem State.setStrip_heads (p : Position) (r : Option StripRecord) : (s.setStrip p r).heads = s.heads := by
  cases p <;> rfl

@[simp] theorem State.setStrip_channels (p : Position) (r : Option StripRecord) : (s.setStrip p r).channels = s.channels := by
  cases p <;> rfl

@[simp] theorem State.setStrip_recipes (p : Position) (r : Option StripRecord) : (s.setStrip p r).recipes = s.recipes := by
  cases p <;> rfl

@[simp] theorem State.setStrip_vcu (p : Position) (r : Option StripRecord) : (s.setStrip p r).vcu = s.vcu := by
  cases p <;> rfl

@[simp] theorem State.setStrip_plm (p : Position) (r : Option StripRecord) : (s.setStrip p r).plm = s.plm := by
  cases p <;> rfl

@[simp] theorem State.setStrip_alc (p : Position) (r : Option StripRecord) : (s.setStrip p r).alc = s.alc := by
  cases p <;> rfl

@[simp] theorem State.setStrip_tmc (p : Position) (r : Option StripRecord) : (s.setStrip p r).tmc = s.tmc := by
  cases p <;> rfl

@[simp] theorem State.setStrip_free (p : Position) (r : Option StripRecord) : (s.setStrip p r).free = s.free := by
  cases p <;> rfl

@[simp] theorem State.setStrip_pending (p : Position) (r : Option StripRecord) : (s.setStrip p r).pending = s.pending := by
  cases p <;> rfl

@[simp] theorem State.modStrip_ccs (p : Position) (f : StripRecord → StripRecord) : (s.modStrip p f).ccs = s.ccs := by
  cases p <;> rfl

@[simp] theorem State.modStrip_lif (p : Position) (f : StripRecord → StripRecord) : (s.modStrip p f).lif = s.lif := by
  cases p <;> rfl

@[simp] theorem State.modStrip_fdc (p : Position) (f : StripRecord → StripRecord) : (s.modStrip p f).fdc = s.fdc := by
  cases p <;> rfl

@[simp] theorem State.modStrip_usc (p : Position) (f : StripRecord → StripRecord) : (s.modStrip p f).usc = s.usc := by
  cases p <;> rfl

@[simp] theorem State.modStrip_heads (p : Position) (f : StripRecord → StripRecord) : (s.modStrip p f).heads = s.heads := by
  cases p <;> rfl

@[simp] theorem State.modStrip_channels (p : Position) (f : StripRecord → StripRecord) : (s.modStrip p f).channels = s.channels := by
  cases p <;> rfl

@[simp] theorem State.modStrip_recipes (p : Position) (f : StripRecord → StripRecord) : (s.modStrip p f).recipes = s.recipes := by
  cases p <;> rfl

@[simp] theorem State.modStrip_vcu (p : Position) (f : StripRecord → StripRecord) : (s.modStrip p f).vcu = s.vcu := by
  cases p <;> rfl

@[simp] theorem State.modStrip_plm (p : Position) (f : StripRecord → StripRecord) : (s.modStrip p f).plm = s.plm := by
  cases p <;> rfl

@[simp] theorem State.modStrip_alc (p : Position) (f : StripRecord → StripRecord) : (s.modStrip p f).alc = s.alc := by
  cases p <;> rfl

@[simp] theorem State.modStrip_tmc (p : Position) (f : StripRecord → StripRecord) : (s.modStrip p f).tmc = s.tmc := by
  cases p <;> rfl

@[simp] theorem State.modStrip_free (p : Position) (f : StripRecord → StripRecord) : (s.modStrip p f).free = s.free := by
  cases p <;> rfl

@[simp] theorem State.modStrip_pending (p : Position) (f : StripRecord → StripRecord) : (s.modStrip p f).pending = s.pending := by
  cases p <;> rfl

@[simp] theorem State.modStrip_trc_op (p : Position) (f : StripRecord → StripRecord) :
    (s.modStrip p f).trc.op = s.trc.op := by
  cases p <;> rfl

@[simp] theorem State.modStrip_trc_nextSeq (p : Position) (f : StripRecord → StripRecord) :
    (s.modStrip p f).trc.nextSeq = s.trc.nextSeq := by
  cases p <;> rfl

@[simp] theorem State.modStrip_trc_moveNo (p : Position) (f : StripRecord → StripRecord) :
    (s.modStrip p f).trc.moveNo = s.trc.moveNo := by
  cases p <;> rfl

@[simp] theorem State.modStrip_trc_heat (p : Position) (f : StripRecord → StripRecord) :
    (s.modStrip p f).trc.heat = s.trc.heat := by
  cases p <;> rfl

@[simp] theorem State.modStrip_trc_lastEjected (p : Position) (f : StripRecord → StripRecord) :
    (s.modStrip p f).trc.lastEjected = s.trc.lastEjected := by
  cases p <;> rfl

end Sys2Proof.Machine
end

