-- ==== Sys2Proof/Laws/Close.lean ====
section
/-! SUPPORT. What the closing of a step does (R156, R157, R168): `finish_closes`, and after a reply `finish_replied`. -/

namespace Sys2Proof.Machine

/-! ### Keeps as a relation -/

theorem AlarmEntry.shownFrom.trans {a b c : AlarmEntry} (h : a.shownFrom b) (k : b.shownFrom c) : a.shownFrom c := by
  rcases h with rfl | rfl <;> rcases k with rfl | rfl <;> simp [AlarmEntry.shownFrom]

theorem shownFrom_trans {l m n : List AlarmEntry} (h : List.Forall₂ AlarmEntry.shownFrom l m)
    (k : List.Forall₂ AlarmEntry.shownFrom m n) : List.Forall₂ AlarmEntry.shownFrom l n := by
  induction h generalizing n with
  | nil => cases k; exact .nil
  | cons hd _ ih =>
    cases k with
    | cons kd kt => exact .cons (hd.trans kd) (ih kt)

theorem shownFrom_refl (l : List AlarmEntry) : List.Forall₂ AlarmEntry.shownFrom l l := by
  induction l with
  | nil => exact .nil
  | cons _ _ ih => exact .cons (.inl rfl) ih

theorem Keeps.refl (s : State) : Keeps s s := by
  constructor <;> first | rfl | exact shownFrom_refl _ | exact fun _ => ⟨rfl, rfl, rfl⟩ | exact ⟨[], by simp⟩

theorem Keeps.trans {a b c : State} (h : Keeps a b) (k : Keeps b c) : Keeps a c where
  ccs := k.ccs.trans h.ccs
  fdc := k.fdc.trans h.fdc
  trc := k.trc.trans h.trc
  usc := k.usc.trans h.usc
  heads := k.heads.trans h.heads
  channels := k.channels.trans h.channels
  recipes := k.recipes.trans h.recipes
  vcu := k.vcu.trans h.vcu
  plm := k.plm.trans h.plm
  free := k.free.trans h.free
  pending := k.pending.trans h.pending
  unlisted := k.unlisted.trans h.unlisted
  alarms := shownFrom_trans h.alarms k.alarms
  pages := k.pages.trans h.pages
  tiles := k.tiles.trans h.tiles
  keys := k.keys.trans h.keys
  terms t := ⟨(k.terms t).1.trans (h.terms t).1, (k.terms t).2.1.trans (h.terms t).2.1, (k.terms t).2.2.trans (h.terms t).2.2⟩
  forwarding := k.forwarding.trans h.forwarding
  kinds := k.kinds.trans h.kinds
  uCounts := k.uCounts.trans h.uCounts
  fCounts := k.fCounts.trans h.fCounts
  gathering := k.gathering.trans h.gathering
  dropped := k.dropped.trans h.dropped
  droppedMark := k.droppedMark.trans h.droppedMark
  noticeLine := k.noticeLine.trans h.noticeLine
  upLine := k.upLine.trans h.upLine
  driveLine := k.driveLine.trans h.driveLine
  downLine := k.downLine.trans h.downLine
  ownLine := by
    obtain ⟨l, hl, hs⟩ := h.ownLine
    obtain ⟨m, hm, ht⟩ := k.ownLine
    refine ⟨l ++ m, by rw [hm, hl, List.append_assoc], fun o ho => ?_⟩
    exact (List.mem_append.mp ho).elim (hs o) (ht o)

/-- `Keeps` with the replies and the requests kept too. -/
structure KeepsAll (x t : State) : Prop extends Keeps x t where
  replyLine : t.replyLine = x.replyLine
  requests : t.lif.requests = x.lif.requests

theorem KeepsAll.refl (s : State) : KeepsAll s s := { Keeps.refl s with replyLine := rfl, requests := rfl }

theorem KeepsAll.trans {a b c : State} (h : KeepsAll a b) (k : KeepsAll b c) : KeepsAll a c :=
  { h.toKeeps.trans k.toKeeps with
    replyLine := k.replyLine.trans h.replyLine
    requests := k.requests.trans h.requests }

/-! ### The operations of the closing -/

/-- A change of a terminal entry that keeps its level, page and message. -/
theorem modTerm_keeps (t : Term) (f : TermState → TermState) (s : State) (hf : ∀ x, TermState.sameFace x (f x)) :
    KeepsAll s (s.modTerm t f) := by
  refine { Keeps.refl s with
    terms := fun k => ?_, replyLine := rfl, requests := rfl }
  cases t <;> cases k <;> first | exact hf _ | exact ⟨rfl, rfl, rfl⟩

theorem showAlarm_keeps (code : AlarmCode) (scope : AlarmScope) (s : State) : KeepsAll s (showAlarm code scope s) := by
  refine { Keeps.refl s with alarms := ?_, replyLine := rfl, requests := rfl }
  show List.Forall₂ _ _ (s.alc.list.map _)
  rw [List.forall₂_map_right_iff]
  refine List.forall₂_same.mpr fun e _ => ?_
  by_cases h : e.code = code ∧ e.scope = scope
  · exact .inr (by simp [h])
  · exact .inl (by simp [h])

theorem sendOwn_screen_keeps (r : Role) (b : OwnBody) (s : State) (hb : b.isScreen = true) : KeepsAll s (sendOwn r b s) := by
  unfold sendOwn
  split
  · refine { Keeps.refl s with ownLine := ⟨_, (List.append_assoc _ _ _).symm, ?_⟩, replyLine := rfl, requests := rfl }
    intro o ho
    rw [List.mem_singleton.mp ho]
    exact hb
  · exact .refl s

theorem refreshTerm_keeps (t : Term) (s : State) : KeepsAll s (refreshTerm t s) := by
  unfold refreshTerm
  split
  · exact modTerm_keeps t _ s fun _ => ⟨rfl, rfl, rfl⟩
  · exact .refl s

theorem eachTerm_keeps (f : Term → State → State) (hf : ∀ t s, KeepsAll s (f t s)) (s : State) : KeepsAll s (eachTerm f s) :=
  (((hf .t1 s).trans (hf .t2 _)).trans (hf .t3 _)).trans (hf .t4 _)

theorem showTagged_keeps (v : Nat) (g : DisplayTag) (s : State) : KeepsAll s (showTagged v g s) := by
  unfold showTagged
  split
  · split
    · exact showAlarm_keeps _ _ s
    · exact .refl s
  all_goals exact .refl s

theorem putTile_keeps (t : Term) (i : Nat) (s : State) : KeepsAll s (putTile t i s) := by
  refine KeepsAll.trans ?_ (showTagged_keeps _ _ _)
  refine KeepsAll.trans ?_ (sendOwn_screen_keeps _ _ _ rfl)
  exact modTerm_keeps t _ s fun _ => ⟨rfl, rfl, rfl⟩

theorem makeFrame_keeps (t : Term) (s : State) : KeepsAll s (makeFrame t s) := by
  unfold makeFrame
  dsimp only
  split
  · split
    · refine KeepsAll.trans ?_ (sendOwn_screen_keeps _ _ _ rfl)
      exact modTerm_keeps t _ s fun _ => ⟨rfl, rfl, rfl⟩
    · split
      · refine KeepsAll.trans ?_ (sendOwn_screen_keeps _ _ _ rfl)
        exact modTerm_keeps t _ s fun _ => ⟨rfl, rfl, rfl⟩
      · split
        · refine KeepsAll.trans ?_ (putTile_keeps _ _ _)
          exact modTerm_keeps t _ s fun _ => ⟨rfl, rfl, rfl⟩
        · exact modTerm_keeps t _ s fun _ => ⟨rfl, rfl, rfl⟩
  · exact .refl s

/-- Taking the next frame into a free F-port transmitter leaves every line as it is. -/
theorem pickF_keeps (s : State) (h : s.lif.fTx = none) : KeepsAll s { s with lif := pickF s.lif } := by
  unfold pickF
  split
  · refine { Keeps.refl s with driveLine := ?_, ownLine := ⟨[], ?_⟩, downLine := ?_, replyLine := rfl, requests := rfl } <;>
      simp [State.driveLine, State.ownLine, State.downLine, *]
  · split
    · refine { Keeps.refl s with driveLine := ?_, ownLine := ⟨[], ?_⟩, downLine := ?_, replyLine := rfl, requests := rfl } <;>
        simp [State.driveLine, State.ownLine, State.downLine, *]
    · split
      · refine { Keeps.refl s with driveLine := ?_, ownLine := ⟨[], ?_⟩, downLine := ?_, replyLine := rfl, requests := rfl } <;>
          simp [State.driveLine, State.ownLine, State.downLine, *]
      · exact .refl s

theorem pickForwarded_keeps (s : State) (h : s.lif.uTx = none) : KeepsAll s { s with lif := pickForwarded s.lif } := by
  unfold pickForwarded
  split
  · refine { Keeps.refl s with noticeLine := ?_, upLine := ?_, replyLine := ?_, requests := rfl } <;>
      simp [State.noticeLine, State.upLine, State.replyLine, *]
  · exact .refl s

/-- Taking the next frame into a free U-port transmitter leaves every line as it is. -/
theorem pickU_keeps (s : State) (h : s.lif.uTx = none) : KeepsAll s { s with lif := pickU s.lif } := by
  unfold pickU
  split
  · split
    · exact pickForwarded_keeps s h
    · refine { Keeps.refl s with noticeLine := ?_, upLine := ?_, replyLine := ?_, requests := rfl } <;>
        simp [State.noticeLine, State.upLine, State.replyLine, *]
  · split
    · split
      · exact pickForwarded_keeps s h
      · refine { Keeps.refl s with noticeLine := ?_, upLine := ?_, replyLine := ?_, requests := rfl } <;>
          simp [State.noticeLine, State.upLine, State.replyLine, *]
    · exact pickForwarded_keeps s h

/-! ### The transmitters (R168) -/

theorem kickF_keeps (s : State) : KeepsAll s (kickF s) := by
  unfold kickF
  split
  · exact pickF_keeps s (by simp_all)
  · exact .refl s

theorem kickU_keeps (s : State) : KeepsAll s (kickU s) := by
  unfold kickU
  split
  · exact pickU_keeps s (Option.isNone_iff_eq_none.mp ‹_›)
  · exact .refl s

/-- Free transmitters send, and every line stays as it is. -/
theorem kick_keeps (s : State) : KeepsAll s (kick s) := (kickF_keeps s).trans (kickU_keeps _)

/-- What a free F-port transmitter takes touches no queue of the U-port. -/
theorem kickF_lif (s : State) :
    (kickF s).lif = { s.lif with drives := (kickF s).lif.drives, own := (kickF s).lif.own, ufQueue := (kickF s).lif.ufQueue
                                 fTx := (kickF s).lif.fTx } := by
  unfold kickF pickF
  split
  · dsimp only; split <;> (try split) <;> (try split) <;> rfl
  · rfl

/-- What the F-port transmitter takes depends on its own queues. -/
theorem pickF_fTx_congr {l m : Lif} (hd : l.drives = m.drives) (ho : l.own = m.own) (hu : l.ufQueue = m.ufQueue)
    (hf : l.fTx = m.fTx) : (pickF l).fTx = (pickF m).fTx := by
  unfold pickF
  rw [hd, ho, hu]
  split
  · rfl
  · split
    · rfl
    · split
      · rfl
      · exact hf

/-- What the U-port transmitter takes depends on its own queues. -/
theorem pickU_uTx_congr {l m : Lif} (hr : l.replies = m.replies) (hn : l.notices = m.notices) (hq : l.fuQueue = m.fuQueue)
    (hu : l.uTx = m.uTx) : (pickU l).uTx = (pickU m).uTx := by
  have hp : (pickForwarded l).uTx = (pickForwarded m).uTx := by
    unfold pickForwarded
    rw [hq]
    split
    · rfl
    · exact hu
  have hb (k : Nat) : forwardedBefore l k = forwardedBefore m k := by unfold forwardedBefore; rw [hq]
  unfold pickU
  rw [hr, hn]
  split
  · rw [hb]
    split
    · exact hp
    · rfl
  · split
    · rw [hb]
      split
      · exact hp
      · rfl
    · exact hp

/-- What a free U-port transmitter takes touches no queue of the F-port. -/
theorem kickU_lif (s : State) :
    (kickU s).lif = { s.lif with replies := (kickU s).lif.replies, notices := (kickU s).lif.notices
                                 fuQueue := (kickU s).lif.fuQueue, uTx := (kickU s).lif.uTx } := by
  unfold kickU pickU pickForwarded
  split
  · dsimp only; split <;> (try split) <;> (try split) <;> (try split) <;> rfl
  · rfl

/-- The transmitters change LIF alone. -/
theorem kick_eq (s : State) : kick s = { s with lif := (kick s).lif } := rfl

theorem pickF_ownLine (s : State) (h : s.lif.fTx = none) : ({ s with lif := pickF s.lif } : State).ownLine = s.ownLine := by
  unfold pickF
  split
  · simp [State.ownLine, *]
  · split
    · simp [State.ownLine, *]
    · split <;> simp [State.ownLine, *]

/-- The part's other own frames on their way out stay as they are. -/
theorem kick_ownLine (s : State) : (kick s).ownLine = s.ownLine := by
  have hU : (kick s).ownLine = (kickF s).ownLine := by
    unfold kick State.ownLine; rw [kickU_lif]
  rw [hU]
  unfold kickF
  split
  · exact pickF_ownLine s (by simp_all)
  · rfl

theorem pickForwarded_restartUnsent (l : Lif) (h : l.uTx = none) : (pickForwarded l).restartUnsent = l.restartUnsent := by
  unfold pickForwarded
  split
  · simp [Lif.restartUnsent, *]
  · rfl

/-- The OK reply of a RESTART is still to be sent when the U-port transmitter takes its next frame, if it was before. -/
theorem kickU_restartUnsent (s : State) : (kickU s).lif.restartUnsent = s.lif.restartUnsent := by
  unfold kickU
  split
  · rename_i h
    have h : s.lif.uTx = none := by simp_all
    have k := pickForwarded_restartUnsent _ h
    dsimp only
    unfold pickU
    split
    · split
      · exact k
      · simp [Lif.restartUnsent, *]
    · split
      · split
        · exact k
        · simp [Lif.restartUnsent, *]
      · exact k
  · rfl

theorem kickF_restartUnsent (s : State) : (kickF s).lif.restartUnsent = s.lif.restartUnsent := by
  unfold Lif.restartUnsent; rw [kickF_lif]

theorem kick_restartUnsent (s : State) : (kick s).lif.restartUnsent = s.lif.restartUnsent :=
  (kickU_restartUnsent _).trans (kickF_restartUnsent s)

/-- The F-port transmitter after a kick. -/
theorem kick_fTx (s : State) :
    (kick s).lif.fTx = if s.lif.fTx.isNone && !s.lif.restartUnsent then (pickF s.lif).fTx else s.lif.fTx := by
  have hU : (kick s).lif.fTx = (kickF s).lif.fTx := by unfold kick; rw [kickU_lif]
  rw [hU]
  unfold kickF
  split <;> rfl

/-- The U-port transmitter after a kick. -/
theorem kick_uTx (s : State) : (kick s).lif.uTx = if s.lif.uTx.isNone then (pickU s.lif).uTx else s.lif.uTx := by
  unfold kick kickU
  rw [show (kickF s).lif.uTx = s.lif.uTx by rw [kickF_lif]]
  split
  · refine pickU_uTx_congr ?_ ?_ ?_ ?_ <;> rw [kickF_lif]
  · rw [kickF_lif]

/-! ### The making of frames (R156, R157)

It reads the counts and the forwarding table of LIF, and adds to the part's own frames: the rest of LIF it leaves and does not
look at. -/

/-- The state with another link interface, but for what the making of frames reads and writes of it. -/
def State.withLink (s : State) (l : Lif) : State :=
  { s with lif := { l with forwarding := s.lif.forwarding, uCounts := s.lif.uCounts, fCounts := s.lif.fCounts, own := s.lif.own } }

theorem withLink_own (s : State) (l : Lif) : (s.withLink l).lif.own = s.lif.own := rfl
theorem withLink_tmc (s : State) (l : Lif) : (s.withLink l).tmc = s.tmc := rfl
theorem withLink_alc (s : State) (l : Lif) : (s.withLink l).alc = s.alc := rfl

theorem pickTile_withLink (s : State) (l : Lif) (x : TermState) (d : List (Nat × Bool)) :
    (s.withLink l).pickTile x d = s.pickTile x d := by
  induction d with
  | nil => rfl
  | cons m d ih =>
    unfold State.pickTile
    rw [ih]
    rfl

theorem refreshTerm_withLink (t : Term) (s : State) (l : Lif) : refreshTerm t (s.withLink l) = (refreshTerm t s).withLink l := by
  unfold refreshTerm
  rw [show (s.withLink l).inService t = s.inService t from rfl]
  split <;> rfl

theorem sendOwn_withLink (r : Role) (b : OwnBody) (s : State) (l : Lif) :
    sendOwn r b (s.withLink l) = (sendOwn r b s).withLink l := by
  unfold sendOwn
  rw [show (s.withLink l).addrOf r = s.addrOf r from rfl]
  split <;> rfl

theorem showTagged_withLink (v : Nat) (g : DisplayTag) (s : State) (l : Lif) :
    showTagged v g (s.withLink l) = (showTagged v g s).withLink l := by
  unfold showTagged
  split
  · split <;> rfl
  all_goals rfl

theorem modTerm_withLink (t : Term) (f : TermState → TermState) (s : State) (l : Lif) :
    (s.withLink l).modTerm t f = (s.modTerm t f).withLink l := rfl

theorem putTile_withLink (t : Term) (i : Nat) (s : State) (l : Lif) : putTile t i (s.withLink l) = (putTile t i s).withLink l := by
  unfold putTile
  dsimp only
  rw [← showTagged_withLink, ← sendOwn_withLink]
  rfl

theorem makeFrame_withLink (t : Term) (s : State) (l : Lif) : makeFrame t (s.withLink l) = (makeFrame t s).withLink l := by
  unfold makeFrame
  dsimp only
  rw [pickTile_withLink]
  simp only [modTerm_withLink, sendOwn_withLink, putTile_withLink]
  rw [show (s.withLink l).inService t = s.inService t from rfl, show (s.withLink l).term t = s.term t from rfl]
  split
  · split
    · rfl
    · split
      · rfl
      · split <;> rfl
  · rfl

/-- The making of frames does not look at the rest of LIF, and leaves it. -/
theorem makeFrames_withLink (s : State) (l : Lif) : makeFrames (s.withLink l) = (makeFrames s).withLink l := by
  simp only [makeFrames, refreshTiles, eachTerm, refreshTerm_withLink, makeFrame_withLink]

theorem makeFrames_keeps (s : State) : KeepsAll s (makeFrames s) :=
  (eachTerm_keeps _ refreshTerm_keeps s).trans (eachTerm_keeps _ makeFrame_keeps _)

/-- The making of frames changes the part's own frames alone of LIF. -/
theorem makeFrames_lif (s : State) : (makeFrames s).lif = { s.lif with own := (makeFrames s).lif.own } := by
  have e : s.withLink s.lif = s := rfl
  have h := makeFrames_withLink s s.lif
  rw [e] at h
  have k := (makeFrames_keeps s).toKeeps
  refine (congrArg State.lif h).trans ?_
  show ({ s.lif with forwarding := (makeFrames s).lif.forwarding, uCounts := (makeFrames s).lif.uCounts
                     fCounts := (makeFrames s).lif.fCounts, own := (makeFrames s).lif.own } : Lif) = _
  rw [k.forwarding, k.uCounts, k.fCounts]

/-! ### Finish -/

/-- What closes every step: the part is as it was, but for screen frames, shown flags and frames now being sent. -/
theorem finish_keeps (s : State) : KeepsAll s (finish s) := (makeFrames_keeps s).trans (kick_keeps _)

/-- `z` is `x`, but for replies, requests and what the U-port transmitter has taken. -/
structure Queues (x z : State) : Prop extends Keeps x z where
  link : z = x.withLink z.lif
  own : z.lif.own = x.lif.own
  drives : z.lif.drives = x.lif.drives
  ufQueue : z.lif.ufQueue = x.lif.ufQueue
  fTx : z.lif.fTx = x.lif.fTx
  unsent : x.lif.restartUnsent = true → z.lif.restartUnsent = true
  uTx : x.lif.uTx ≠ none → z.lif.uTx = x.lif.uTx

theorem Queues.refl (s : State) : Queues s s :=
  { Keeps.refl s with link := rfl, own := rfl, drives := rfl, ufQueue := rfl, fTx := rfl, unsent := id, uTx := fun _ => rfl }

theorem Queues.trans {a b c : State} (h : Queues a b) (k : Queues b c) : Queues a c :=
  { h.toKeeps.trans k.toKeeps with
    link := by
      have e := k.link
      rw [h.link] at e
      exact e
    own := k.own.trans h.own
    drives := k.drives.trans h.drives
    ufQueue := k.ufQueue.trans h.ufQueue
    fTx := k.fTx.trans h.fTx
    unsent := k.unsent ∘ h.unsent
    uTx := fun n => (k.uTx (by rw [h.uTx n]; exact n)).trans (h.uTx n) }

/-- What a free U-port transmitter takes. -/
theorem kickU_queues (s : State) : Queues s (kickU s) := by
  refine { (kickU_keeps s).toKeeps with
    link := ?_, own := ?_, drives := ?_, ufQueue := ?_, fTx := ?_, unsent := fun h => (kickU_restartUnsent s).trans h
    uTx := fun h => ?taken }
  case taken =>
    cases q : s.lif.uTx with
    | none => exact absurd q h
    | some v => simp [kickU, q]
  · show ({ s with lif := (kickU s).lif } : State) = _
    unfold State.withLink
    rw [kickU_lif]
  all_goals rw [kickU_lif]

/-- A step that leaves `z`, which is `x` but for replies, requests and what the U-port transmitter has taken, settles. -/
theorem Queues.finish_settles {x z : State} (h : Queues x z) : Settles x (finish z) := by
  have e : makeFrames z = (makeFrames x).withLink z.lif := (congrArg makeFrames h.link).trans (makeFrames_withLink x z.lif)
  have hz := makeFrames_lif z
  have hx := makeFrames_lif x
  have own : (makeFrames z).lif.own = (makeFrames x).lif.own := by rw [e, withLink_own]
  have pick : (pickF (makeFrames z).lif).fTx = (pickF (makeFrames x).lif).fTx := by
    refine pickF_fTx_congr ?_ own ?_ ?_ <;> rw [hz, hx]
    · exact h.drives
    · exact h.ufQueue
    · exact h.fTx
  have zf : (makeFrames z).lif.fTx = z.lif.fTx := by rw [hz]
  have zu : (makeFrames z).lif.uTx = z.lif.uTx := by rw [hz]
  have zr : (makeFrames z).lif.restartUnsent = z.lif.restartUnsent := by unfold Lif.restartUnsent; rw [hz]
  refine { h.toKeeps.trans (finish_keeps z).toKeeps with
    terminals := ?_, shown := ?_, screens := ?_, fHolds := ?_, uHolds := ?_, fSends := ?_ }
  · rw [finish, kick_eq, e, withLink_tmc]
  · rw [finish, kick_eq, e, withLink_alc]
  · rw [finish, kick_ownLine]
    unfold State.ownLine
    rw [own, zf, h.fTx, hx]
  · intro g
    rw [finish, kick_fTx, zf, zr, h.fTx]
    rcases g with g | g
    · cases q : x.lif.fTx with
      | none => exact absurd q g
      | some v => rfl
    · rw [h.unsent g]; simp
  · intro g
    have g' : z.lif.uTx ≠ none := by rw [h.uTx g]; exact g
    rw [finish, kick_uTx, zu, ← h.uTx g]
    cases q : z.lif.uTx with
    | none => exact absurd q g'
    | some v => rfl
  · intro g u
    rw [finish, kick_restartUnsent, zr] at u
    rw [finish, kick_fTx, zf, zr, h.fTx, g, u, pick]
    rfl

/-- What closes every step. -/
theorem finish_closes (s : State) : Closes s (finish s) := by
  refine { (Queues.refl s).finish_settles with replyLine := (finish_keeps s).replyLine, requests := (finish_keeps s).requests
                                               uSends := fun h => ?_ }
  rw [finish, kick_uTx, show (makeFrames s).lif.uTx = s.lif.uTx by rw [makeFrames_lif], h]
  refine pickU_uTx_congr ?_ ?_ ?_ ?_ <;> rw [makeFrames_lif]

/-- A command that takes effect outside reset. -/
theorem act_ends (f : State → State) (s : State) (h : s.ccs.inReset = false) : Ends (act f s) (f s) :=
  ⟨_, by simp [act, h], finish_closes _⟩

/-- The same, where the effect is known. -/
theorem act_ends_of_eq {f : State → State} {s x : State} (h : s.ccs.inReset = false) (hx : f s = x) : Ends (act f s) x :=
  hx ▸ act_ends f s h

/-! ### Replies (R168, R169) -/

/-- The state with reply frames queued (R168). -/
theorem queueReplies_queues (l : List Mrep) (s : State) : Queues s (queueReplies l s) := by
  induction l generalizing s with
  | nil => exact .refl s
  | cons m ms ih =>
    refine Queues.trans ?_ (ih _)
    refine { Keeps.refl s with
      link := rfl, own := rfl, drives := rfl, ufQueue := rfl, fTx := rfl, uTx := fun _ => rfl, unsent := fun h => ?_ }
    unfold Lif.restartUnsent at h ⊢
    simp only [List.any_append, Bool.or_eq_true] at h ⊢
    exact h.imp id .inl

@[simp] theorem queueReplies_requests (l : List Mrep) (s : State) : (queueReplies l s).lif.requests = s.lif.requests := by
  induction l generalizing s with
  | nil => rfl
  | cons m ms ih => exact ih _

/-- The frames join the reply line at its end. -/
theorem queueReplies_replyLine (l : List Mrep) (s : State) : (queueReplies l s).replyLine = s.replyLine ++ l := by
  induction l generalizing s with
  | nil => simp [queueReplies]
  | cons m ms ih => rw [queueReplies, ih]; simp [State.replyLine]

/-- What a request that is taken leads to. -/
theorem applyRequest_eq {tag : Byte} {r : Request} {f : State → Served} {s u : State} (ht : s.takeRequest tag r = some u)
    (hr : s.replyRoom (answerParts r (f u).2) = true) :
    applyRequest tag r f s = queueReplies (answerFrames tag r (f u).2) (f u).1 := by
  simp only [answerParts] at hr
  simp only [applyRequest, ht, hr, if_true, answerFrames, answerParts]

theorem takeRequest_queues {tag : Byte} {r : Request} {s u : State} (h : s.takeRequest tag r = some u) : Queues s u := by
  unfold State.takeRequest at h
  split at h
  · cases h; exact .refl s
  · split at h
    · cases h
      exact { Keeps.refl s with
        link := rfl, own := rfl, drives := rfl, ufQueue := rfl, fTx := rfl, uTx := fun _ => rfl, unsent := id }
    · cases h

theorem takeRequest_replyLine {tag : Byte} {r : Request} {s u : State} (h : s.takeRequest tag r = some u) :
    u.replyLine = s.replyLine := by
  unfold State.takeRequest at h
  split at h
  · cases h; rfl
  · split at h
    · cases h; rfl
    · cases h

theorem takeRequest_suffix {tag : Byte} {r : Request} {s u : State} (h : s.takeRequest tag r = some u) :
    u.lif.requests <:+ s.lif.requests := by
  unfold State.takeRequest at h
  split at h
  · cases h; exact List.suffix_rfl
  · rename_i heq
    split at h
    · cases h; rw [heq]; exact List.suffix_cons _ _
    · cases h

/-- A request that LIF refuses as the oldest, with room for its reply. -/
theorem applyRequest_refused {tag : Byte} {r : Request} {rest : List (Byte × Request)} {s : State} (c : ResultCode)
    (hs : s.lif.requests = (tag, r) :: rest) (hr : s.replyRoom 1 = true) :
    applyRequest tag r (refuse c) s =
      queueReplies [{ tag := tag, part := 0, last := true, op := opNumber r, answer := { result := c } }]
        { s with lif := { s.lif with requests := rest } } := by
  have ht : s.takeRequest tag r = some { s with lif := { s.lif with requests := rest } } := by
    simp [State.takeRequest, hs]
  have h1 : answerParts r { result := c } = 1 := by simp [answerParts, dataBytes, framesFor, Config.partBytes]
  rw [applyRequest_eq ht (by simpa only [refuse, h1] using hr)]
  simp only [refuse, answerFrames, h1]
  rfl

/-- LIF's own answers: what they change, the replies they add, and the requests they leave. -/
theorem answerUnowned_eq (n : Nat) (s : State) :
    Queues s (answerUnowned n s) ∧
      (answerUnowned n s).replyLine =
        s.replyLine ++ (lifReplies (min n (Config.replyRoom - s.lif.replies.length)) s.lif.requests).1 ∧
      (answerUnowned n s).lif.requests = (lifReplies (min n (Config.replyRoom - s.lif.replies.length)) s.lif.requests).2 := by
  have none_left (k : Nat) : lifReplies k [] = ([], []) := by cases k <;> rfl
  induction n generalizing s with
  | zero => rw [Nat.zero_min]; exact ⟨.refl s, (List.append_nil _).symm, rfl⟩
  | succ n ih =>
    unfold answerUnowned
    split
    · rename_i hs
      refine ⟨.refl s, ?_, ?_⟩
      · rw [hs, none_left]; exact (List.append_nil _).symm
      · rw [hs, none_left]
    · rename_i tag r rest hs
      rw [hs]
      cases hc : lifAnswer r with
      | none =>
        have hk (k : Nat) : lifReplies k ((tag, r) :: rest) = ([], (tag, r) :: rest) := by cases k <;> simp [lifReplies, hc]
        rw [hk]
        exact ⟨.refl s, (List.append_nil _).symm, hs⟩
      | some c =>
        dsimp only
        by_cases hr : s.replyRoom 1 = true
        · have hlt : s.lif.replies.length + 1 ≤ Config.replyRoom := by simpa [State.replyRoom] using hr
          rw [if_pos hr, applyRequest_refused c hs hr]
          obtain ⟨h1, h2, h3⟩ := ih (queueReplies
            [{ tag := tag, part := 0, last := true, op := opNumber r, answer := { result := c } }]
            { s with lif := { s.lif with requests := rest } })
          have hq : Queues s { s with lif := { s.lif with requests := rest } } :=
            { Keeps.refl s with
              link := rfl, own := rfl, drives := rfl, ufQueue := rfl, fTx := rfl, uTx := fun _ => rfl, unsent := id }
          have hl : (queueReplies [{ tag := tag, part := 0, last := true, op := opNumber r, answer := { result := c } }]
              { s with lif := { s.lif with requests := rest } } : State).lif.replies.length = s.lif.replies.length + 1 := by
            simp [queueReplies]
          rw [hl, queueReplies_requests] at h2 h3
          rw [queueReplies_replyLine] at h2
          have hm : min (n + 1) (Config.replyRoom - s.lif.replies.length) =
              min n (Config.replyRoom - (s.lif.replies.length + 1)) + 1 := by omega
          have hk : lifReplies (min (n + 1) (Config.replyRoom - s.lif.replies.length)) ((tag, r) :: rest) =
              ({ tag := tag, part := 0, last := true, op := opNumber r, answer := { result := c } } ::
                (lifReplies (min n (Config.replyRoom - (s.lif.replies.length + 1))) rest).1,
                (lifReplies (min n (Config.replyRoom - (s.lif.replies.length + 1))) rest).2) := by
            rw [hm]; simp only [lifReplies, hc]
          rw [hk]
          refine ⟨(hq.trans (queueReplies_queues _ _)).trans h1, ?_, h3⟩
          rw [h2, List.append_assoc]
          rfl
        · have hlt : ¬s.lif.replies.length + 1 ≤ Config.replyRoom := by simpa [State.replyRoom] using hr
          rw [if_neg hr, show min (n + 1) (Config.replyRoom - s.lif.replies.length) = 0 by omega]
          exact ⟨.refl s, (List.append_nil _).symm, hs⟩

/-- LIF's own answers are no OK reply of a RESTART. -/
theorem answerUnowned_restartUnsent (n : Nat) (s : State) :
    (answerUnowned n s).lif.restartUnsent = s.lif.restartUnsent := by
  have hq (l : List Mrep) (hl : ∀ m ∈ l, m.restartOk = false) (s : State) :
      (queueReplies l s).lif.restartUnsent = s.lif.restartUnsent := by
    induction l generalizing s with
    | nil => rfl
    | cons m ms ih =>
      rw [queueReplies, ih fun x hx => hl x (List.mem_cons_of_mem _ hx)]
      simp [Lif.restartUnsent, hl m (List.mem_cons_self ..)]
  induction n generalizing s with
  | zero => rfl
  | succ n ih =>
    unfold answerUnowned
    split
    · rfl
    · rename_i tag r _ _
      split
      · rename_i c hc
        split
        · rw [ih]
          unfold applyRequest
          split
          · rfl
          · rename_i u hu
            have e : u.lif.restartUnsent = s.lif.restartUnsent := by
              unfold State.takeRequest at hu
              split at hu
              · cases hu; rfl
              · split at hu
                · cases hu; rfl
                · cases hu
            dsimp only
            split
            · rw [← e]
              refine hq _ (fun m hm => ?_) u
              obtain ⟨i, -, rfl⟩ := List.mem_map.mp hm
              have : c ≠ .ok := by rintro rfl; cases r <;> cases hc
              simp [Mrep.restartOk, refuse, this]
            · rfl
        · rfl
      · rfl

/-- With no request of LIF's own to answer waiting, LIF answers nothing. -/
theorem answerUnowned_eq_self (n : Nat) (s : State) (h : ∀ q ∈ s.lif.requests, lifAnswer q.2 = none) :
    answerUnowned n s = s := by
  cases n with
  | zero => rfl
  | succ n =>
    unfold answerUnowned
    split
    · rfl
    · rename_i heq
      rw [h (_, _) (by rw [heq]; exact List.mem_cons_self ..)]

/-- What LIF goes on to answer after a reply, and the closing of the step. -/
theorem finish_replied {x z : State} {frames : List Mrep} (h : Queues x z) (hl : z.replyLine = x.replyLine ++ frames)
    (hn : z.lif.replies.length = x.lif.replies.length + frames.length) (hr : z.lif.requests = x.lif.requests) :
    Replied x frames (finish (answerUnowned Config.requestRoom z)) := by
  obtain ⟨h1, h2, h3⟩ := answerUnowned_eq Config.requestRoom z
  have hc := finish_keeps (answerUnowned Config.requestRoom z)
  rw [hn, hr] at h2 h3
  exact { (h.trans h1).finish_settles with replyLine := by rw [hc.replyLine, h2, hl]; rfl, requests := by rw [hc.requests, h3]; rfl }

theorem queueReplies_length (l : List Mrep) (s : State) :
    (queueReplies l s).lif.replies.length = s.lif.replies.length + l.length := by
  induction l generalizing s with
  | nil => rfl
  | cons m ms ih => rw [queueReplies, ih]; simp; omega

/-- A management command that is taken answers a next state: what the block makes of it, after its reply. -/
theorem act_serve_answers {tag : Byte} {r : Request} {f : State → Served} {s u : State}
    (h : s.takes tag r (f u).2 u) : Answers (act (serve tag r f) s) tag r (f u).1 (f u).2 := by
  obtain ⟨hr, ht, hroom⟩ := h
  refine ⟨finish (serve tag r f s), by simp [act, hr], ?_⟩
  rw [serve, applyRequest_eq ht hroom]
  exact finish_replied (queueReplies_queues _ _) (queueReplies_replyLine _ _) (queueReplies_length _ _) (queueReplies_requests _ _)

/-- A management command that cannot be taken now: it is not the oldest, or the reply list has no room for its reply. -/
theorem act_serve_waits {tag : Byte} {r : Request} {f : State → Served} {s : State} (hi : s.ccs.inReset = false)
    (h : ∀ u, ¬s.takes tag r (f u).2 u) :
    act (serve tag r f) s = .next (finish (answerUnowned Config.requestRoom s)) := by
  have e : applyRequest tag r f s = s := by
    unfold applyRequest
    split
    · rfl
    · rename_i u hu
      refine if_neg fun hroom => h u ⟨hi, hu, hroom⟩
  simp [act, hi, serve, e]

/-- The same, where the block's work is known. -/
theorem act_serve_answers_of_eq {tag : Byte} {r : Request} {f : State → Served} {s u x : State} {a : Answer}
    (h : s.takes tag r a u) (hx : f u = (x, a)) : Answers (act (serve tag r f) s) tag r x a := by
  have := act_serve_answers (f := f) (by rw [hx]; exact h)
  rwa [hx] at this

theorem takes_inReset {tag : Byte} {r : Request} {s u : State} {a : Answer} (h : s.takes tag r a u) : s.ccs.inReset = false := h.1

/-- A request that is refused or answered without data takes one frame. -/
@[simp] theorem answerParts_plain (r : Request) (c : ResultCode) (i : Nat) :
    answerParts r { result := c, index := i } = 1 := by
  simp [answerParts, dataBytes, framesFor, Config.partBytes]

/-- A request is taken whatever it is answered without data. -/
theorem takes_plain {tag : Byte} {r : Request} {c d : ResultCode} {i j : Nat} {s u : State}
    (h : s.takes tag r { result := c, index := i } u) : s.takes tag r { result := d, index := j } u :=
  ⟨h.1, h.2.1, by simpa using h.2.2⟩

/-- A request that is answered without data. -/
theorem serves_of_eq {c : Instr} {tag : Byte} {r : Request} {f : State → Served} {s u x : State} {d : ResultCode} {j : Nat}
    (he : exec c s = act (serve tag r f) s) (hx : f u = (x, { result := d, index := j })) : Serves c tag r s u x d j :=
  fun h => he ▸ act_serve_answers_of_eq (takes_plain h) hx

end Sys2Proof.Machine
end

