-- ==== Sys2Proof/Laws/Ops.lean ====
section
/-! SUPPORT. What the shared operations over notices, frames, hold sets and alarms do: one lemma that says it once for each. -/

namespace Sys2Proof.Machine

variable {s : State}

/-! ### Notices and frames (R168, R173) -/

/-- With room a notice joins the queue with the pending DROPPED mark; without, it is counted and leaves the mark. -/
theorem notify_eq (n : Notice) (s : State) :
    notify n s = { s with lif := if s.lif.notices.length < 16 then
        { s.lif with notices := s.lif.notices ++ [(s.lif.stamp, { notice := n, dropped := s.lif.droppedMark })]
                     droppedMark := false, stamp := s.lif.stamp + 1 }
      else { s.lif with dropped := satAdd 255 s.lif.dropped 1, droppedMark := true } } := by
  unfold notify Config.noticeRoom
  split <;> rfl

/-- An own frame joins the waiting frames when a node holds its role. -/
theorem sendOwn_eq (r : Role) (b : OwnBody) (s : State) :
    sendOwn r b s =
      { s with lif :=
          { s.lif with own :=
              s.lif.own ++ ((s.addrOf r).map fun a => { role := r, dst := BitVec.ofNat 8 a, body := b }).toList } } := by
  unfold sendOwn
  split <;> rename_i h <;> simp [h]

/-! ### What leaves the alarm list alone -/

@[simp] theorem notify_alc (n : Notice) (s : State) : (notify n s).alc = s.alc := by
  unfold notify; split <;> rfl

@[simp] theorem sendOwn_alc (r : Role) (b : OwnBody) (s : State) : (sendOwn r b s).alc = s.alc := by
  unfold sendOwn; split <;> rfl

@[simp] theorem sendDrive_alc (h : Head) (d : Nat) (e : Bool) (s : State) : (sendDrive h d e s).alc = s.alc := by
  unfold sendDrive; split <;> rfl

@[simp] theorem setHeadState_alc (h : Head) (st : HeadState) (s : State) : (setHeadState h st s).alc = s.alc := rfl

@[simp] theorem commandHead_alc (h : Head) (c : HeadCmd) (s : State) : (commandHead h c s).alc = s.alc := by
  simp [commandHead, sendHeadCmd]

@[simp] theorem awaitEvent_alc (h : Head) (e : AwaitedEvent) (ms : Nat) (s : State) : (awaitEvent h e ms s).alc = s.alc := rfl

@[simp] theorem clearVotes_alc (h : Head) (s : State) : (clearVotes h s).alc = s.alc := rfl

@[simp] theorem holdForProgram_alc (h : Head) (s : State) : (holdForProgram h s).alc = s.alc := rfl

@[simp] theorem addReason_alc (r : HoldReason) (h : Head) (s : State) : (addReason r h s).alc = s.alc := by
  unfold addReason; split <;> rfl

@[simp] theorem startWire_alc (h : Head) (u : Nat) (s : State) : (startWire h u s).alc = s.alc := by
  unfold startWire
  split
  · split <;> simp
  · rfl

@[simp] theorem askUnit_alc (h : Head) (s : State) : (askUnit h s).alc = s.alc := by
  unfold askUnit claimUnit
  repeat' split
  all_goals simp

@[simp] theorem leaveHold_alc (h : Head) (s : State) : (leaveHold h s).alc = s.alc := by
  unfold leaveHold enterIdle
  split <;> simp

@[simp] theorem removeReason_alc (r : HoldReason) (h : Head) (s : State) : (removeReason r h s).alc = s.alc := by
  unfold removeReason
  dsimp only
  repeat' split
  all_goals simp

theorem eachHead_alc {f : Head → State → State} (hf : ∀ h s, (f h s).alc = s.alc) (s : State) : (eachHead f s).alc = s.alc := by
  unfold eachHead
  dsimp only
  repeat' split
  all_goals simp [hf]

@[simp] theorem dropAlarmReason_alc (h : Head) (s : State) : (dropAlarmReason h s).alc = s.alc := by
  unfold dropAlarmReason
  split <;> simp

@[simp] theorem effectEnded_alc (sc : AlarmScope) (s : State) : (effectEnded sc s).alc = s.alc := by
  unfold effectEnded
  split <;> simp [eachHead_alc]

@[simp] theorem becomeEffective_alc (c : AlarmCode) (sc : AlarmScope) (s : State) : (becomeEffective c sc s).alc = s.alc := by
  unfold becomeEffective
  repeat' split
  all_goals simp

@[simp] theorem forceAlarmTiles_alc (k : Nat) (s : State) : (eachTerm (forceAlarmTiles k) s).alc = s.alc := by
  have h (t : Term) (s : State) : (forceAlarmTiles k t s).alc = s.alc := by unfold forceAlarmTiles; split <;> rfl
  simp [eachTerm, h]

/-! ### What alarms do to the list (R139 to R142, R144) -/

/-- A removal takes the entry off the list. -/
theorem removeAlarm_alc (i : Nat) (s : State) : (removeAlarm i s).alc = { s.alc with list := s.alc.list.eraseIdx i } := by
  unfold removeAlarm alarmNotice
  split
  · dsimp only
    split <;> simp
  · rename_i h
    rw [List.eraseIdx_of_length_le (List.getElem?_eq_none_iff.mp h)]

/-- The entry that a raise makes (R139, R142). -/
def newEntry (code : AlarmCode) (scope : AlarmScope) (detail : Nat) (now : Time) : AlarmEntry :=
  { code := code, scope := scope, state := if isEvent code then .cleared else .active, first := now, last := now, repeats := 0
    shown := false, detail := detail }

theorem appendAlarm_alc (c : AlarmCode) (sc : AlarmScope) (d : Nat) (s : State) :
    (appendAlarm c sc d s).alc = { s.alc with list := s.alc.list ++ [newEntry c sc d s.now] } := by
  simp [appendAlarm, alarmNotice, newEntry]

/-- The entry that a repeat leaves (R141, R142). -/
def repeatedEntry (e : AlarmEntry) (detail : Nat) (now : Time) : AlarmEntry :=
  { e with repeats := satAdd 255 e.repeats 1, last := now, detail := detail, shown := false
           state := if isEvent e.code then .cleared else .active }

theorem repeatAlarm_alc (i : Nat) (e : AlarmEntry) (d : Nat) (s : State) :
    (repeatAlarm i e d s).alc = { s.alc with list := s.alc.list.set i (repeatedEntry e d s.now) } := by
  simp only [repeatAlarm, alarmNotice, repeatedEntry]
  split <;> simp

end Sys2Proof.Machine
end

