-- ==== Sys2Proof/Laws/Work.lean ====
section
/-! SUPPORT. What the blocks' work on heads, claims, alarms and strips leaves of the state and which laws it keeps: `HeadWork` for
what can happen inside a head's step, `Work` for every block's. One lemma per function. -/

namespace Sys2Proof.Machine

/-- The part of LIF that no block but LIF touches. -/
def State.link (s : State) : Lif :=
  { s.lif with own := [], drives := [], notices := [], dropped := 0, droppedMark := false, stamp := 0 }

/-- The identity of a strip record. -/
def StripRecord.key (r : StripRecord) : Nat × Nat × Nat × Option StripCode := (r.seq, r.program, r.slot, r.code)

/-- What the work on heads, claims, units, the scan and the alarms keeps. -/
structure HeadWork (s t : State) : Prop where
  ccs : t.ccs = s.ccs
  link : t.link = s.link
  pending : t.pending = s.pending
  fdc : t.fdc = s.fdc
  plm : t.plm = s.plm
  recipes : t.recipes = s.recipes
  programs : t.usc.programs = s.usc.programs
  wires : t.usc.wires = s.usc.wires
  track : { t.trc with bond := none } = { s.trc with bond := none }
  bond : t.trc.bond.map (·.key) = s.trc.bond.map (·.key)
  cands : (∀ r ∈ s.trc.bond, candidatesLawful r.candidates) → ∀ r ∈ t.trc.bond, candidatesLawful r.candidates
  pages : t.tmc.pages = s.tmc.pages
  tiles : t.tmc.tiles = s.tmc.tiles
  keys : t.tmc.keys = s.tmc.keys
  terms : ∀ k, (s.term k).sameFace (t.term k)
  off : ∀ h, (t.head h).state = .off ↔ (s.head h).state = .off
  chans : ∀ h, (s.chan h).state = .disabled → (t.chan h).state = .disabled
  law : t.offLawful
  notices : s.lif.notices.length ≤ 16 → t.lif.notices.length ≤ 16
  drives : s.oneDriveEach → t.oneDriveEach
  alarms : s.alarmsLawful → t.alarmsLawful

theorem HeadWork.refl {s : State} (hl : s.offLawful) : HeadWork s s := by
  constructor <;> first | rfl | exact id | exact hl | exact fun _ => ⟨rfl, rfl, rfl⟩ | exact fun _ => Iff.rfl | exact fun _ => id

theorem HeadWork.trans {a b c : State} (h : HeadWork a b) (k : HeadWork b c) : HeadWork a c where
  ccs := k.ccs.trans h.ccs
  link := k.link.trans h.link
  pending := k.pending.trans h.pending
  fdc := k.fdc.trans h.fdc
  plm := k.plm.trans h.plm
  recipes := k.recipes.trans h.recipes
  programs := k.programs.trans h.programs
  wires := k.wires.trans h.wires
  track := k.track.trans h.track
  bond := k.bond.trans h.bond
  cands := k.cands ∘ h.cands
  pages := k.pages.trans h.pages
  tiles := k.tiles.trans h.tiles
  keys := k.keys.trans h.keys
  terms t := ⟨(k.terms t).1.trans (h.terms t).1, (k.terms t).2.1.trans (h.terms t).2.1, (k.terms t).2.2.trans (h.terms t).2.2⟩
  off i := (k.off i).trans (h.off i)
  chans i := k.chans i ∘ h.chans i
  law := k.law
  notices := k.notices ∘ h.notices
  drives := k.drives ∘ h.drives
  alarms := k.alarms ∘ h.alarms

/-- A head that was on is on. -/
theorem HeadWork.on {s t : State} (w : HeadWork s t) {h : Head} (ho : (s.head h).state ≠ .off) : (t.head h).state ≠ .off :=
  fun e => ho ((w.off h).mp e)

/-- Two pieces of work in a row. -/
theorem HeadWork.then {s m t : State} (w : HeadWork s m) (k : m.offLawful → HeadWork m t) : HeadWork s t := w.trans (k w.law)

/-- The same, for a head that is on. -/
theorem HeadWork.thenOn {s m t : State} {h : Head} (ho : (s.head h).state ≠ .off) (w : HeadWork s m)
    (k : m.offLawful → (m.head h).state ≠ .off → HeadWork m t) : HeadWork s t := w.trans (k w.law (w.on ho))

/-- The same, where the head need be on only when the work is its own. -/
theorem HeadWork.thenOwn {s m t : State} {h : Head} {own : Bool} (ho : own = true → (s.head h).state ≠ .off) (w : HeadWork s m)
    (k : m.offLawful → (own = true → (m.head h).state ≠ .off) → HeadWork m t) : HeadWork s t :=
  w.trans (k w.law fun e => w.on (ho e))

/-- Work that is done or not. -/
theorem HeadWork.ite {s t u : State} {c : Prop} [Decidable c] (wt : c → HeadWork s t) (wu : ¬c → HeadWork s u) :
    HeadWork s (if c then t else u) := by
  split
  · exact wt ‹_›
  · exact wu ‹_›

variable {s : State}

/-! ### Frames and notices -/

theorem notify_work (n : Notice) (hl : s.offLawful) : HeadWork s (notify n s) := by
  unfold notify
  split
  · rename_i h
    exact { HeadWork.refl hl with notices := fun _ => by simpa [Config.noticeRoom] using h }
  · exact { HeadWork.refl hl with }

theorem sendOwn_work (r : Role) (b : OwnBody) (hl : s.offLawful) : HeadWork s (sendOwn r b s) := by
  unfold sendOwn
  split
  · exact { HeadWork.refl hl with }
  · exact .refl hl

theorem sendDrive_work (h : Head) (d : Nat) (e : Bool) (hl : s.offLawful) : HeadWork s (sendDrive h d e s) := by
  unfold sendDrive
  split
  · refine { HeadWork.refl hl with drives := fun hd => ?_ }
    show List.Pairwise _ _
    rw [List.pairwise_append]
    refine ⟨hd.filter _, List.pairwise_singleton _ _, fun a ha b hb => ?_⟩
    rw [List.mem_singleton.mp hb]
    simpa using (List.mem_filter.mp ha).2
  · exact .refl hl

/-! ### Updates -/

theorem modHead_work (h : Head) (f : HeadCtx → HeadCtx) (hl : s.offLawful)
    (hf : (s.head h).state = .off ∧ (f (s.head h)).state = .off ∧ ((s.head h).awaited = none → (f (s.head h)).awaited = none) ∨
      (s.head h).state ≠ .off ∧ (f (s.head h)).state ≠ .off) : HeadWork s (s.modHead h f) := by
  refine { HeadWork.refl hl with off := fun k => ?_, law := fun k hk => ?_ }
  · by_cases e : k = h
    · subst e
      rw [State.head_modHead_self]
      rcases hf with ⟨a, b, _⟩ | ⟨a, b⟩ <;> simp [a, b]
    · have : k = h.other := by cases k <;> cases h <;> simp_all [Head.other]
      rw [this, State.head_modHead_other]
  · by_cases e : k = h
    · subst e
      rw [State.head_modHead_self] at hk ⊢
      rcases hf with ⟨a, b, c⟩ | ⟨a, b⟩
      · exact ⟨(hl k a).1, c (hl k a).2⟩
      · exact absurd hk b
    · have : k = h.other := by cases k <;> cases h <;> simp_all [Head.other]
      rw [this, State.head_modHead_other] at hk ⊢
      exact hl _ hk

/-- A change of a head that keeps its state and awaited event. -/
theorem modHead_work_same (h : Head) (f : HeadCtx → HeadCtx) (hl : s.offLawful)
    (hf : ∀ c, (f c).state = c.state ∧ (f c).awaited = c.awaited) : HeadWork s (s.modHead h f) := by
  refine modHead_work h f hl ?_
  rw [(hf _).1, (hf _).2]
  by_cases e : (s.head h).state = .off
  · exact .inl ⟨e, e, id⟩
  · exact .inr ⟨e, e⟩

/-- A change of a head that is on to a state that is not OFF. -/
theorem modHead_work_on {h : Head} {f : HeadCtx → HeadCtx} (hl : s.offLawful) (ho : (s.head h).state ≠ .off)
    (hf : ∀ c, c.state ≠ .off → (f c).state ≠ .off) : HeadWork s (s.modHead h f) :=
  modHead_work h f hl (.inr ⟨ho, hf _ ho⟩)

theorem setChan_work (h : Head) (c : Channel) (hl : s.offLawful) (hc : (s.chan h).state = .disabled → c.state = .disabled) :
    HeadWork s (s.setChan h c) := by
  have key (k : Head) : (s.chan k).state = .disabled → ((s.setChan h c).chan k).state = .disabled := by
    by_cases e : k = h
    · subst e
      rwa [State.chan_setChan_self]
    · have : k = h.other := by cases k <;> cases h <;> simp_all [Head.other]
      rw [this, State.chan_setChan_other]
      exact id
  exact { HeadWork.refl hl with chans := key, law := fun k hk => ⟨key k (hl k hk).1, (hl k hk).2⟩ }

theorem modBond_work (f : StripRecord → StripRecord) (hl : s.offLawful) (hk : ∀ r, (f r).key = r.key)
    (hc : ∀ r, candidatesLawful r.candidates → candidatesLawful (f r).candidates) : HeadWork s (s.modStrip .bond f) := by
  refine { HeadWork.refl hl with bond := ?_, cands := fun h r hr => ?_ }
  · show (s.trc.bond.map f).map _ = _
    cases s.trc.bond <;> simp [hk]
  · change r ∈ s.trc.bond.map f at hr
    obtain ⟨x, hx, rfl⟩ := Option.mem_map.mp hr
    exact hc x (h x hx)

theorem modUnit_work (u : Nat) (f : UnitRecord → UnitRecord) (hl : s.offLawful) : HeadWork s (s.modUnit u f) :=
  { HeadWork.refl hl with }

theorem modTerm_work (t : Term) (f : TermState → TermState) (hl : s.offLawful) (hf : ∀ x, TermState.sameFace x (f x)) :
    HeadWork s (s.modTerm t f) :=
  { HeadWork.refl hl with terms := (modTerm_keeps t f s hf).terms }

theorem eachHead_work {f : Head → State → State} (hf : ∀ h s, State.offLawful s → HeadWork s (f h s)) (hl : s.offLawful) :
    HeadWork s (eachHead f s) := by
  unfold eachHead
  split
  · exact (hf _ _ hl).trans (hf _ _ (hf _ _ hl).law)
  · have h0 : HeadWork s { s with free := s.free + 1 } := { HeadWork.refl hl with }
    dsimp only
    split <;> exact h0.trans ((hf _ _ h0.law).trans (hf _ _ (hf _ _ h0.law).law))

/-! ### Heads (R62, R63, R67, R49) -/

theorem setHeadState_work {h : Head} {st : HeadState} (hl : s.offLawful) (ho : (s.head h).state ≠ .off) (hst : st ≠ .off) :
    HeadWork s (setHeadState h st s) := modHead_work_on hl ho fun _ _ => hst

theorem sendHeadCmd_work (h : Head) (c : HeadCmd) (hl : s.offLawful) : HeadWork s (sendHeadCmd h c s) := sendOwn_work _ _ hl

theorem commandHead_work (h : Head) (c : HeadCmd) (hl : s.offLawful) : HeadWork s (commandHead h c s) := by
  refine .then ?_ (sendHeadCmd_work h c)
  exact modHead_work_same h _ hl fun _ => ⟨rfl, rfl⟩

theorem awaitEvent_work {h : Head} (e : AwaitedEvent) (ms : Nat) (hl : s.offLawful) (ho : (s.head h).state ≠ .off) :
    HeadWork s (awaitEvent h e ms s) := modHead_work_on hl ho fun _ => id

theorem clearVotes_work (h : Head) (hl : s.offLawful) : HeadWork s (clearVotes h s) := { HeadWork.refl hl with }

theorem addReason_work (r : HoldReason) (h : Head) (hl : s.offLawful) : HeadWork s (addReason r h s) := by
  unfold addReason
  split
  · exact .refl hl
  all_goals
    rename_i e
    exact modHead_work h _ hl (.inr ⟨by simp [e], by simp [e]⟩)

theorem holdForProgram_work {h : Head} (hl : s.offLawful) (ho : (s.head h).state ≠ .off) : HeadWork s (holdForProgram h s) :=
  modHead_work_on hl ho fun _ _ => by simp

theorem startWire_work {h : Head} (u : Nat) (hl : s.offLawful) (ho : (s.head h).state ≠ .off) : HeadWork s (startWire h u s) := by
  unfold startWire
  split
  · split
    · exact holdForProgram_work hl ho
    · dsimp only
      refine .thenOn ho ?_ (awaitEvent_work _ _)
      refine .then ?_ (commandHead_work h _)
      refine .then ?_ (clearVotes_work h)
      exact modHead_work_on hl ho fun _ _ => by simp
  · exact .refl hl

theorem claimUnit_work {h : Head} (u : Nat) (hl : s.offLawful) (ho : (s.head h).state ≠ .off) : HeadWork s (claimUnit h u s) :=
  (modUnit_work u _ hl).then fun l => startWire_work u l ho

theorem mayAsk_on {h : Head} (hm : s.mayAsk h = true) : (s.head h).state ≠ .off := by
  intro e
  simp [State.mayAsk, e] at hm

theorem askUnit_work (h : Head) (hl : s.offLawful) : HeadWork s (askUnit h s) := by
  unfold askUnit
  split
  · rename_i hm
    have ho := mayAsk_on hm
    split
    · exact holdForProgram_work hl ho
    · split
      · split
        · exact claimUnit_work _ hl ho
        · exact setHeadState_work hl ho (by simp)
      · refine setHeadState_work hl ho ?_
        split <;> simp
  · exact .refl hl

theorem enterIdle_work {h : Head} (hl : s.offLawful) (ho : (s.head h).state ≠ .off) : HeadWork s (enterIdle h s) :=
  (setHeadState_work hl ho (by simp)).then (askUnit_work h)

theorem reaskParked_work (h : Head) (hl : s.offLawful) : HeadWork s (reaskParked h s) := by
  unfold reaskParked
  split
  · exact askUnit_work h hl
  · exact .refl hl

theorem unpark_work (h : Head) (hl : s.offLawful) : HeadWork s (unpark h s) := by
  unfold unpark
  split
  · rename_i e
    exact setHeadState_work hl (by simp [e]) (by simp)
  · exact .refl hl

theorem leaveHold_work {h : Head} (hl : s.offLawful) (ho : (s.head h).state ≠ .off) : HeadWork s (leaveHold h s) := by
  unfold leaveHold
  split
  · exact startWire_work _ hl ho
  · exact enterIdle_work hl ho

theorem removeReason_work (r : HoldReason) (h : Head) (hl : s.offLawful) : HeadWork s (removeReason r h s) := by
  unfold removeReason
  split
  · dsimp only
    split
    · rename_i e
      have ho : (s.head h).state ≠ .off := by
        rw [State.head_modHead_self] at e
        have e1 : (s.head h).state = .hold := e.1
        simp [e1]
      refine .thenOn ho ?_ leaveHold_work
      exact modHead_work_same h _ hl fun _ => ⟨rfl, rfl⟩
    · exact modHead_work_same h _ hl fun _ => ⟨rfl, rfl⟩
  · exact .refl hl

theorem atBoundary_work {h : Head} (hl : s.offLawful) (ho : (s.head h).state ≠ .off) : HeadWork s (atBoundary h s) := by
  unfold atBoundary
  split
  · exact leaveHold_work hl ho
  · exact setHeadState_work hl ho (by simp)

/-! ### Alarms (chapter 9) -/

theorem eachTerm_work {f : Term → State → State} (hf : ∀ t s, State.offLawful s → HeadWork s (f t s)) (hl : s.offLawful) :
    HeadWork s (eachTerm f s) := by
  refine .then ?_ (hf .t4 _)
  refine .then ?_ (hf .t3 _)
  refine .then ?_ (hf .t2 _)
  exact hf .t1 _ hl

theorem forceAlarmTiles_work (k : Nat) (t : Term) (hl : s.offLawful) : HeadWork s (forceAlarmTiles k t s) := by
  unfold forceAlarmTiles
  split
  · exact modTerm_work t _ hl fun _ => ⟨rfl, rfl, rfl⟩
  · exact .refl hl

theorem becomeEffective_work (c : AlarmCode) (sc : AlarmScope) (hl : s.offLawful) : HeadWork s (becomeEffective c sc s) := by
  unfold becomeEffective
  split
  · split
    · exact addReason_work _ _ hl
    · exact (addReason_work _ _ hl).then (addReason_work _ _)
    all_goals exact .refl hl
  · exact .refl hl

theorem dropAlarmReason_work (h : Head) (hl : s.offLawful) : HeadWork s (dropAlarmReason h s) := by
  unfold dropAlarmReason
  split
  · exact removeReason_work _ _ hl
  · exact .refl hl

theorem effectEnded_work (sc : AlarmScope) (hl : s.offLawful) : HeadWork s (effectEnded sc s) := by
  unfold effectEnded
  split
  · exact dropAlarmReason_work _ hl
  · exact eachHead_work (fun h _ => dropAlarmReason_work h) hl
  all_goals exact .refl hl

theorem setAlarms_work (l : List AlarmEntry) (hl : s.offLawful) (hs : s.alarmsLawful → (s.setAlarms l).alarmsLawful) :
    HeadWork s (s.setAlarms l) := { HeadWork.refl hl with alarms := hs }

/-- An entry may be replaced by one of the same code and scope that is no event alarm left active. -/
theorem set_lawful {i : Nat} {e e' : AlarmEntry} (h : s.alc.list[i]? = some e) (hc : e'.code = e.code) (hs : e'.scope = e.scope)
    (he : isEvent e.code = true → e'.state = .cleared) (hl : s.alarmsLawful) :
    (s.setAlarms (s.alc.list.set i e')).alarmsLawful := by
  obtain ⟨h1, h2, h3⟩ := hl
  refine ⟨by simpa using h1, ?_, fun x hx hx' => ?_⟩
  · show (s.alc.list.set i e').Pairwise _
    rw [List.pairwise_iff_getElem] at h2 ⊢
    intro a b ha hb hab
    rw [List.getElem_set, List.getElem_set]
    have ha' : a < s.alc.list.length := by simpa using ha
    have hb' : b < s.alc.list.length := by simpa using hb
    have key := h2 a b ha' hb' hab
    split
    · subst i
      have : s.alc.list[a] = e := by rw [List.getElem?_eq_getElem ha'] at h; exact Option.some.inj h
      rw [this] at key
      split
      · omega
      · rwa [hc, hs]
    · split
      · subst i
        have : s.alc.list[b] = e := by rw [List.getElem?_eq_getElem hb'] at h; exact Option.some.inj h
        rw [this] at key
        rwa [hc, hs]
      · exact key
  · rcases List.mem_or_eq_of_mem_set hx with hm | rfl
    · exact h3 x hm hx'
    · exact he (hc ▸ hx')

theorem alarmNotice_work (e : AlarmEntry) (c : AlarmChange) (hl : s.offLawful) : HeadWork s (alarmNotice e c s) :=
  notify_work _ hl

theorem eraseIdx_lawful (i : Nat) (hl : s.alarmsLawful) : (s.setAlarms (s.alc.list.eraseIdx i)).alarmsLawful := by
  obtain ⟨h1, h2, h3⟩ := hl
  refine ⟨(List.length_eraseIdx_le ..).trans h1, h2.sublist (List.eraseIdx_sublist ..), fun x hx => ?_⟩
  exact h3 x (List.mem_of_mem_eraseIdx hx)

theorem removeAlarm_work (i : Nat) (hl : s.offLawful) : HeadWork s (removeAlarm i s) := by
  unfold removeAlarm
  split
  · rename_i e _
    have w : HeadWork s (alarmNotice e .removed (s.setAlarms (s.alc.list.eraseIdx i))) :=
      (setAlarms_work _ hl (eraseIdx_lawful i)).then (alarmNotice_work _ _)
    dsimp only
    split
    · exact w.then (effectEnded_work _)
    · exact w
  · exact .refl hl

/-- A new entry joins a list with room that has none of its code and scope. -/
theorem append_lawful {e : AlarmEntry} (hn : ∀ f ∈ s.alc.list, ¬(f.code = e.code ∧ f.scope = e.scope))
    (hr : s.alc.list.length < 32) (he : isEvent e.code = true → e.state = .cleared) (hl : s.alarmsLawful) :
    (s.setAlarms (s.alc.list ++ [e])).alarmsLawful := by
  obtain ⟨h1, h2, h3⟩ := hl
  refine ⟨by simp; omega, ?_, fun x hx => ?_⟩
  · show (s.alc.list ++ [e]).Pairwise _
    rw [List.pairwise_append]
    exact ⟨h2, List.pairwise_singleton _ _, fun a ha b hb => by rw [List.mem_singleton.mp hb]; exact hn a ha⟩
  · rcases List.mem_append.mp hx with hm | hm
    · exact h3 x hm
    · rw [List.mem_singleton.mp hm]
      exact he

theorem appendAlarm_work {r : State} (c : AlarmCode) (sc : AlarmScope) (d : Nat) (w : HeadWork r s)
    (ha : r.alarmsLawful → s.alc.list.length < 32 ∧ ∀ f ∈ s.alc.list, ¬(f.code = c ∧ f.scope = sc)) :
    HeadWork r (appendAlarm c sc d s) := by
  unfold appendAlarm
  dsimp only
  refine .then ?_ (becomeEffective_work _ _)
  refine .then ?_ (eachTerm_work fun t _ => forceAlarmTiles_work _ t)
  refine .then ?_ (alarmNotice_work _ _)
  refine { w with alarms := fun h => append_lawful (ha h).2 (ha h).1 (fun h => ?_) (w.alarms h) }
  exact if_pos h

theorem repeatAlarm_work (i : Nat) (e : AlarmEntry) (d : Nat) (hl : s.offLawful) (hi : s.alc.list[i]? = some e) :
    HeadWork s (repeatAlarm i e d s) := by
  unfold repeatAlarm
  dsimp only
  have w : HeadWork s (s.setAlarms (s.alc.list.set i (repeatedEntry e d s.now))) :=
    setAlarms_work _ hl (set_lawful hi rfl rfl fun h => if_pos h)
  split
  · refine .then ?_ (becomeEffective_work _ _)
    refine .then ?_ (eachTerm_work fun t _ => forceAlarmTiles_work _ t)
    exact w.then (alarmNotice_work _ _)
  · refine .then ?_ (eachTerm_work fun t _ => forceAlarmTiles_work _ t)
    exact w.then (alarmNotice_work _ _)

theorem findAlarm_none {c : AlarmCode} {sc : AlarmScope} (h : s.findAlarm c sc = none) :
    ∀ f ∈ s.alc.list, ¬(f.code = c ∧ f.scope = sc) := by
  intro f hf
  have := List.findIdx?_eq_none_iff.mp h f hf
  simpa using this

/-- The entry that makes room is one of the list. -/
theorem roomEntry_lt {l : List AlarmEntry} {j : Nat} (h : roomEntry l = some j) : j < l.length := by
  unfold roomEntry at h
  rcases Option.or_eq_some_iff.mp h with h | ⟨_, h⟩
  · exact (List.findIdx?_eq_some_iff_getElem.mp h).1
  · rcases Option.or_eq_some_iff.mp h with h | ⟨_, h⟩ <;> exact (List.findIdx?_eq_some_iff_getElem.mp h).1

theorem raiseAlarm_work (c : AlarmCode) (sc : AlarmScope) (d : Nat) (hl : s.offLawful) : HeadWork s (raiseAlarm c sc d s) := by
  unfold raiseAlarm
  split
  · split
    · exact repeatAlarm_work _ _ _ hl ‹_›
    · exact .refl hl
  · rename_i hn
    split
    · rename_i hr
      exact appendAlarm_work _ _ _ (.refl hl) fun _ => ⟨hr, findAlarm_none hn⟩
    · split
      · rename_i j hj
        refine appendAlarm_work _ _ _ (removeAlarm_work j hl) fun h32 => ?_
        have hj' := roomEntry_lt hj
        have h1 := h32.1
        rw [removeAlarm_alc]
        refine ⟨?_, fun f hf => findAlarm_none hn f (List.mem_of_mem_eraseIdx hf)⟩
        rw [List.length_eraseIdx_of_lt hj']
        omega
      · refine .then ?_ (notify_work _)
        exact { HeadWork.refl hl with }

theorem clearAlarm_work (c : AlarmCode) (sc : AlarmScope) (hl : s.offLawful) : HeadWork s (clearAlarm c sc s) := by
  unfold clearAlarm
  split
  · split
    · rename_i hi
      split
      · dsimp only
        refine .then ?_ (alarmNotice_work _ _)
        exact setAlarms_work _ hl (set_lawful hi rfl rfl fun _ => rfl)
      · exact removeAlarm_work _ hl
      · exact .refl hl
    · exact .refl hl
  · exact .refl hl

theorem ackEntry_work (i : Nat) (e : AlarmEntry) (hl : s.offLawful) (hi : s.alc.list[i]? = some e) :
    HeadWork s (ackEntry i e s) := by
  unfold ackEntry
  split
  · rename_i ha
    have w : HeadWork s (s.setAlarms (s.alc.list.set i { e with state := .activeAcked })) := by
      refine { HeadWork.refl hl with alarms := fun h => ?_ }
      have he : isEvent e.code = true → e.state = .cleared := h.2.2 e (List.mem_of_getElem? hi)
      exact set_lawful hi rfl rfl (fun hv => by have := he hv; simp [ha] at this) h
    dsimp only
    split
    · refine .then ?_ (effectEnded_work _)
      exact w.then (alarmNotice_work _ _)
    · exact w.then (alarmNotice_work _ _)
  · exact removeAlarm_work _ hl
  · exact .refl hl

/-! ### The coverage scan (R103 to R109) -/

theorem releaseStrip_work (hl : s.offLawful) : HeadWork s (releaseStrip s) := by
  unfold releaseStrip
  split
  · dsimp only
    refine .then ?_ (notify_work _)
    refine .then ?_ (fun l => modBond_work _ l (fun _ => rfl) fun _ => id)
    exact { HeadWork.refl hl with }
  · exact .refl hl

theorem stopScan_work (u w : Nat) (hl : s.offLawful) : HeadWork s (stopScan u w s) := by
  unfold stopScan
  dsimp only
  refine .then ?_ (notify_work _)
  refine .then ?_ (raiseAlarm_work _ _ _)
  exact { HeadWork.refl hl with }

theorem rejectUnit_work (u w n : Nat) (hl : s.offLawful) : HeadWork s (rejectUnit u w n s) := by
  unfold rejectUnit
  dsimp only
  refine .then ?_ (fun l => modBond_work _ l (fun _ => rfl) fun _ => id)
  refine .then ?_ (modUnit_work _ _)
  exact { HeadWork.refl hl with }

theorem walkFrom_work (n u w : Nat) (hl : s.offLawful) : HeadWork s (walkFrom n u w s) := by
  induction n generalizing u w s with
  | zero => exact .refl hl
  | succ n ih =>
    unfold walkFrom
    dsimp only
    split
    · exact releaseStrip_work hl
    · split
      · exact stopScan_work _ _ hl
      · refine .then ?_ (ih _ _)
        exact rejectUnit_work _ _ _ hl

theorem walk_work (u w : Nat) (hl : s.offLawful) : HeadWork s (walk u w s) := walkFrom_work _ _ _ hl

/-! ### Claims (R52 to R59) -/

theorem evaluateChecking_work (hl : s.offLawful) : HeadWork s (evaluateChecking s) := by
  unfold evaluateChecking
  split
  · split
    · refine .then ?_ (walk_work _ _)
      refine .then ?_ (unpark_work _)
      refine .then ?_ (unpark_work _)
      exact modBond_work _ hl (fun _ => rfl) fun _ => id
    · exact .refl hl
  · exact .refl hl

theorem closeClaim_work {h : Head} {own : Bool} (hl : s.offLawful) (ho : own = true → (s.head h).state ≠ .off) :
    HeadWork s (closeClaim h own s) := by
  unfold closeClaim
  split
  · rename_i e
    split
    · dsimp only
      have w : HeadWork s { s with free := s.free + 1 } := { HeadWork.refl hl with }
      split
      · refine .then ?_ evaluateChecking_work
        refine .then ?_ (reaskParked_work _)
        exact .thenOn (ho e) w atBoundary_work
      · refine .then ?_ evaluateChecking_work
        refine .thenOn (ho e) ?_ atBoundary_work
        exact w.then (reaskParked_work _)
    · refine .then ?_ evaluateChecking_work
      refine .then ?_ (reaskParked_work _)
      exact atBoundary_work hl (ho e)
  · refine .then ?_ evaluateChecking_work
    exact reaskParked_work _ hl

theorem markSkipped_work (u : Nat) (hl : s.offLawful) : HeadWork s (markSkipped u s) :=
  modBond_work _ hl (fun _ => rfl) fun _ => id

theorem skipClaimed_work (u : Nat) (hl : s.offLawful) : HeadWork s (skipClaimed u s) :=
  (modUnit_work u _ hl).then (markSkipped_work u)

theorem finishUnit_work (u n : Nat) (hl : s.offLawful) : HeadWork s (finishUnit u n s) := modUnit_work u _ hl

theorem returnUnit_work (u : Nat) (hl : s.offLawful) : HeadWork s (returnUnit u s) := modUnit_work u _ hl

/-! ### Candidate lists (R116 to R119) -/

/-- A candidate may be replaced by one of the same unit and wire. -/
theorem map_candidates_lawful {l : List Candidate} (f : Candidate → Candidate) (hf : ∀ c, (f c).unit = c.unit ∧ (f c).wire = c.wire)
    (h : candidatesLawful l) : candidatesLawful (l.map f) := by
  refine ⟨by simpa using h.1, ?_⟩
  rw [List.pairwise_map]
  exact h.2.imp fun {a b} hab => by rwa [(hf a).1, (hf a).2, (hf b).1, (hf b).2]

theorem modifyAt_candidates_lawful {l : List Candidate} (i : Nat) (f : Candidate → Candidate)
    (hf : ∀ c, (f c).unit = c.unit ∧ (f c).wire = c.wire) (h : candidatesLawful l) : candidatesLawful (modifyAt l i f) := by
  refine ⟨by simpa [modifyAt] using h.1, ?_⟩
  have h2 := h.2
  unfold modifyAt
  rw [List.pairwise_iff_getElem] at h2 ⊢
  intro a b ha hb hab
  have ha' : a < l.length := by simpa using ha
  have hb' : b < l.length := by simpa using hb
  have key := h2 a b ha' hb' hab
  rw [List.getElem_modify, List.getElem_modify]
  split <;> split <;> simpa [hf] using key

/-- A candidate of a new pair may join a list with room. -/
theorem append_candidates_lawful {l : List Candidate} {c : Candidate} (hr : l.length < 48)
    (hn : candidateIndex l c.unit c.wire = none) (h : candidatesLawful l) : candidatesLawful (l ++ [c]) := by
  refine ⟨by simp; omega, ?_⟩
  rw [List.pairwise_append]
  refine ⟨h.2, List.pairwise_singleton _ _, fun a ha b hb => ?_⟩
  rw [List.mem_singleton.mp hb]
  simpa using List.findIdx?_eq_none_iff.mp hn a ha

theorem candidateIndex_eraseIdx {l : List Candidate} {u w : Nat} (i : Nat) (h : candidateIndex l u w = none) :
    candidateIndex (l.eraseIdx i) u w = none := by
  unfold candidateIndex at *
  rw [List.findIdx?_eq_none_iff] at *
  exact fun x hx => h x (List.mem_of_mem_eraseIdx hx)

theorem insertDirected_lawful (r : StripRecord) (c : Candidate) (hn : candidateIndex r.candidates c.unit c.wire = none)
    (h : candidatesLawful r.candidates) : candidatesLawful (insertDirected r c).candidates := by
  unfold insertDirected
  split
  · exact append_candidates_lawful (by simpa [Config.candidateRoom] using ‹_›) hn h
  · split
    · rename_i i hi
      have hi' : i < r.candidates.length := by
        have := List.mem_of_find?_eq_some hi
        simpa using this
      have h48 := h.1
      refine append_candidates_lawful ?_ (candidateIndex_eraseIdx i hn)
        ⟨(List.length_eraseIdx_le ..).trans h.1, h.2.sublist (List.eraseIdx_sublist ..)⟩
      rw [List.length_eraseIdx_of_lt hi']
      omega
    · exact h

theorem insertDirected_key (r : StripRecord) (c : Candidate) : (insertDirected r c).key = r.key := by
  unfold insertDirected
  split
  · rfl
  · split <;> rfl

theorem wireMade_lawful (set : ReasonSet) (h : Head) (u w : Nat) (v : VoteRecord) (b : Bool) (r : StripRecord)
    (hr : candidatesLawful r.candidates) : candidatesLawful (wireMade set h u w v b r).candidates := by
  unfold wireMade
  split
  · exact hr
  · dsimp only
    split
    · exact modifyAt_candidates_lawful _ _ (fun _ => ⟨rfl, rfl⟩) hr
    · split
      · exact insertDirected_lawful _ _ ‹_› hr
      · exact hr

theorem wireMade_key (set : ReasonSet) (h : Head) (u w : Nat) (v : VoteRecord) (b : Bool) (r : StripRecord) :
    (wireMade set h u w v b r).key = r.key := by
  unfold wireMade
  split
  · rfl
  · dsimp only
    split
    · rfl
    · split
      · exact insertDirected_key _ _
      · rfl

/-! ### Wire end reports (R52) -/

theorem wireOutcome_work (h : Head) (u w : Nat) (d : Bool) (hl : s.offLawful) : HeadWork s (wireOutcome h u w d s) := by
  unfold wireOutcome
  split
  · dsimp only
    refine .then ?_ (clearVotes_work h)
    refine .then ?_ (fun l => modBond_work _ l (fun _ => wireMade_key ..) fun _ hr => wireMade_lawful _ _ _ _ _ _ _ hr)
    exact modUnit_work _ _ hl
  · refine .then ?_ (clearVotes_work h)
    exact modBond_work _ hl (fun _ => rfl) fun _ => id

theorem endRebond_work {h : Head} (u w : Nat) (d : Bool) {own : Bool} (hl : s.offLawful)
    (ho : own = true → (s.head h).state ≠ .off) : HeadWork s (endRebond h u w d own s) := by
  unfold endRebond
  dsimp only
  have w1 : HeadWork s (finishUnit u (s.program s.bondProgram).wireCount (wireOutcome h u w d s)) :=
    (wireOutcome_work h u w d hl).then (finishUnit_work _ _)
  have w2 : HeadWork s { finishUnit u (s.program s.bondProgram).wireCount (wireOutcome h u w d s) with
      vcu := { (finishUnit u (s.program s.bondProgram).wireCount (wireOutcome h u w d s)).vcu with
        pendingWire := none, rebondHead := none } } := { w1 with }
  have w3 := HeadWork.trans (c := if own = true then atBoundary h _ else _) w2 (by
    split
    · rename_i e
      exact atBoundary_work w2.law (w2.on (ho e))
    · exact .refl w2.law)
  split
  · refine .then ?_ (walk_work _ _)
    exact w3.then (reaskParked_work _)
  · exact w3.then (reaskParked_work _)

theorem wireEndReport_work {h : Head} (d : Bool) {own : Bool} (hl : s.offLawful)
    (ho : own = true → (s.head h).state ≠ .off) : HeadWork s (wireEndReport h d own s) := by
  unfold wireEndReport
  split
  · exact .refl hl
  · split
    · exact .refl hl
    · split
      · exact endRebond_work _ _ _ hl ho
      · dsimp only
        have w (u r : Nat) : HeadWork s ((wireOutcome h u r d s).modUnit u fun x => { x with resume := x.resume + 1 }) :=
          (wireOutcome_work _ _ _ _ hl).then (modUnit_work _ _)
        split
        · refine .thenOwn ho ?_ closeClaim_work
          exact (w _ _).then (skipClaimed_work _)
        · split
          · refine .thenOwn ho ?_ closeClaim_work
            exact (w _ _).then (finishUnit_work _ _)
          · refine .ite (fun e => .thenOn (ho e) ?_ atBoundary_work) fun _ => ?_ <;>
              exact .ite (fun _ => (w _ _).then (addReason_work _ _)) fun _ => w _ _

theorem giveUpClaim_work (h : Head) (hl : s.offLawful) : HeadWork s (giveUpClaim h s) := by
  unfold giveUpClaim
  split
  · exact .refl hl
  · split
    · exact .refl hl
    · split
      · exact endRebond_work _ _ _ hl (by simp)
      · refine .thenOwn (own := false) (h := h) (by simp) ?_ closeClaim_work
        exact .ite (fun _ => skipClaimed_work _ hl) fun _ => returnUnit_work _ hl

theorem skipNow_work {h : Head} {own : Bool} (hl : s.offLawful) (ho : own = true → (s.head h).state ≠ .off) :
    HeadWork s (skipNow h own s) := by
  unfold skipNow
  split
  · refine .thenOwn ho ?_ closeClaim_work
    exact skipClaimed_work _ hl
  · exact .refl hl

theorem createUnits_work (r : StripRecord) (hl : s.offLawful) : HeadWork s (createUnits r s) := { HeadWork.refl hl with }

theorem discardUnits_work (hl : s.offLawful) : HeadWork s (discardUnits s) := { HeadWork.refl hl with }

end Sys2Proof.Machine
end

