-- ==== Sys2Proof/Laws/Blocks.lean ====
section
/-! SUPPORT. What the work of the blocks keeps (`Work`): one lemma for each of their functions, from the head controllers (chapter
4) to the terminals (chapter 10). -/

namespace Sys2Proof.Machine

/-- What the work of any block keeps: what LIF and Cell Control hold for themselves, and the laws of a run. Only the heads'
own ENABLE takes a head out of OFF. -/
structure Work (s t : State) : Prop where
  link : t.link = s.link
  pending : t.pending = s.pending
  estop : t.ccs.estop = s.ccs.estop
  inReset : t.ccs.inReset = s.ccs.inReset
  timebase : t.ccs.timebase = s.ccs.timebase
  params : t.ccs.params = s.ccs.params
  cell : t.ccs.cell = s.ccs.cell ∨ s.ccs.cell = .drain ∧ t.ccs.cell = .ready
  off : ∀ h, (s.head h).state = .off → (t.head h).state = .off
  law : t.offLawful
  notices : s.lif.notices.length ≤ 16 → t.lif.notices.length ≤ 16
  drives : s.oneDriveEach → t.oneDriveEach
  alarms : s.alarmsLawful → t.alarmsLawful
  log : s.logLawful → t.logLawful
  cands : s.candidatesLawful → t.candidatesLawful

theorem Work.refl {s : State} (hl : s.offLawful) : Work s s := by
  constructor <;> first | rfl | exact id | exact hl | exact .inl rfl | exact fun _ => id

theorem Work.trans {a b c : State} (h : Work a b) (k : Work b c) : Work a c where
  link := k.link.trans h.link
  pending := k.pending.trans h.pending
  estop := k.estop.trans h.estop
  inReset := k.inReset.trans h.inReset
  timebase := k.timebase.trans h.timebase
  params := k.params.trans h.params
  cell := by
    rcases h.cell with e | ⟨e1, e2⟩ <;> rcases k.cell with f | ⟨f1, f2⟩
    · exact .inl (f.trans e)
    · exact .inr ⟨e ▸ f1, f2⟩
    · exact .inr ⟨e1, f.trans e2⟩
    · exact .inr ⟨e1, f2⟩
  off i := k.off i ∘ h.off i
  law := k.law
  notices := k.notices ∘ h.notices
  drives := k.drives ∘ h.drives
  alarms := k.alarms ∘ h.alarms
  log := k.log ∘ h.log
  cands := k.cands ∘ h.cands

/-- Two pieces of work in a row. -/
theorem Work.then {s m t : State} (w : Work s m) (k : m.offLawful → Work m t) : Work s t := w.trans (k w.law)

/-- Work that is done or not. -/
theorem Work.ite {s t u : State} {c : Prop} [Decidable c] (wt : c → Work s t) (wu : ¬c → Work s u) :
    Work s (if c then t else u) := by
  split
  · exact wt ‹_›
  · exact wu ‹_›

theorem mem_strips {s : State} {r : StripRecord} :
    r ∈ s.strips ↔ s.trc.preheat = some r ∨ s.trc.bond = some r ∨ s.trc.post = some r := by
  simp [State.strips]

/-- The laws of the candidate lists, where the plans stay and each strip's list stays lawful. -/
theorem cands_of {s t : State} (hp : t.plm.plans = s.plm.plans)
    (hs : (∀ r ∈ s.strips, candidatesLawful r.candidates) → ∀ r ∈ t.strips, candidatesLawful r.candidates) :
    s.candidatesLawful → t.candidatesLawful := fun h => ⟨hp ▸ h.1, hs h.2⟩

/-- The work on heads, claims and alarms is a block's work. -/
theorem HeadWork.work {s t : State} (w : HeadWork s t) : Work s t where
  link := w.link
  pending := w.pending
  estop := by rw [w.ccs]
  inReset := by rw [w.ccs]
  timebase := by rw [w.ccs]
  params := by rw [w.ccs]
  cell := .inl (by rw [w.ccs])
  off h := (w.off h).mpr
  law := w.law
  notices := w.notices
  drives := w.drives
  alarms := w.alarms
  log := by rw [State.logLawful, State.logLawful, w.plm]; exact id
  cands := by
    refine cands_of (by rw [w.plm]) fun h r hr => ?_
    have hp : t.trc.preheat = s.trc.preheat := (Trc.mk.injEq .. ▸ w.track).1
    have hq : t.trc.post = s.trc.post := (Trc.mk.injEq .. ▸ w.track).2.2.1
    rcases mem_strips.mp hr with e | e | e
    · exact h r (mem_strips.mpr (.inl (hp ▸ e)))
    · exact w.cands (fun x hx => h x (mem_strips.mpr (.inr (.inl hx)))) r e
    · exact h r (mem_strips.mpr (.inr (.inr (hq ▸ e))))

variable {s : State}

/-- A block's work is followed by work on heads, claims and alarms. -/
theorem Work.thenHead {m t : State} (w : Work s m) (k : m.offLawful → HeadWork m t) : Work s t := w.trans (k w.law).work

theorem eachHead_Work {f : Head → State → State} (hf : ∀ h s, State.offLawful s → Work s (f h s)) (hl : s.offLawful) :
    Work s (eachHead f s) := by
  have h0 : Work s { s with free := s.free + 1 } := { Work.refl hl with }
  unfold eachHead
  split
  · exact (hf _ _ hl).then (hf _ _)
  · dsimp only
    split
    · exact (h0.then (hf _ _)).then (hf _ _)
    · exact (h0.then (hf _ _)).then (hf _ _)

/-! ### Heads (chapter 4) -/

theorem stopBond_work {h : Head} {st : ChannelState} (hl : s.offLawful) (hc : (s.chan h).state = .disabled → st = .disabled) :
    HeadWork s (stopBond h st s) := by
  refine .then ?_ (sendDrive_work h 0 false)
  exact setChan_work _ _ hl hc

theorem headFault_work {h : Head} (c : FaultCause) (hl : s.offLawful) (ho : (s.head h).state ≠ .off) :
    HeadWork s (headFault h c s) := by
  unfold headFault
  dsimp only
  refine .then ?_ (raiseAlarm_work _ _ _)
  refine .then ?_ (clearVotes_work h)
  refine .thenOn (h := h) ho ?_ (fun l o => modHead_work_on l o fun _ _ => by simp [HeadCtx.toFault])
  refine .then ?_ (sendHeadCmd_work h _)
  exact .ite (fun r => stopBond_work hl fun e => by simp [Channel.running, e] at r) fun _ => .refl hl

theorem clearNsb_work (h : Head) (hl : s.offLawful) : HeadWork s (clearNsb h s) :=
  (clearAlarm_work _ _ hl).then (clearAlarm_work _ _)

theorem takeNsb_work (h : Head) (hl : s.offLawful) : HeadWork s (takeNsb h s) := by
  refine .then ?_ (clearNsb_work h)
  exact modHead_work_same h _ hl fun _ => ⟨rfl, rfl⟩

theorem reportMissed_work {h : Head} {own : Bool} (hl : s.offLawful) (ho : own = true → (s.head h).state ≠ .off) :
    HeadWork s (reportMissed h own s) := by
  refine .thenOwn ho ?_ (wireEndReport_work false)
  exact modHead_work_same h _ hl fun _ => ⟨rfl, rfl⟩

theorem endNsb_work (h : Head) (hl : s.offLawful) : HeadWork s (endNsb h s) := by
  refine .thenOwn (h := h) (fun e => ?_) (takeNsb_work h hl) reportMissed_work
  simp [of_decide_eq_true e]

/-- A change of a head to OFF, its channel being DISABLED. -/
theorem toOff_work {h : Head} (c : HeadCtx) (hl : s.offLawful) (hc : (s.chan h).state = .disabled) :
    Work s (s.modHead h c.toOff) := by
  refine { Work.refl hl with off := fun k hk => ?_, law := fun k hk => ?_ }
  · by_cases e : k = h
    · subst e
      rw [State.head_modHead_self]
      rfl
    · have : k = h.other := by cases k <;> cases h <;> simp_all [Head.other]
      rwa [this, State.head_modHead_other, ← this]
  · by_cases e : k = h
    · subst e
      rw [State.head_modHead_self]
      exact ⟨hc, rfl⟩
    · have : k = h.other := by cases k <;> cases h <;> simp_all [Head.other]
      rw [this, State.head_modHead_other] at hk ⊢
      exact hl _ hk

/-- What goes before the last change of a head that goes OFF, once its bond is stopped (R65 steps 2 to 5). -/
theorem goOff_middle (h : Head) (due working : Bool) (hl : s.offLawful) :
    HeadWork s (clearNsb h (clearAlarm .headFault (.head h) (giveUpClaim h (clearVotes h
      (if due then reportMissed h false (if working then sendHeadCmd h .abort s else s)
       else if working then sendHeadCmd h .abort s else s))))) := by
  refine .then ?_ (clearNsb_work h)
  refine .then ?_ (clearAlarm_work _ _)
  refine .then ?_ (giveUpClaim_work h)
  refine .then ?_ (clearVotes_work h)
  have w : HeadWork s (if working then sendHeadCmd h .abort s else s) :=
    .ite (fun _ => sendHeadCmd_work h _ hl) fun _ => .refl hl
  exact .ite (fun _ => .thenOwn (own := false) (h := h) (by simp) w reportMissed_work) fun _ => w

@[simp] theorem sendDrive_channels (h : Head) (d : Nat) (e : Bool) (s : State) : (sendDrive h d e s).channels = s.channels := by
  unfold sendDrive
  split <;> rfl

/-- A head goes OFF (R65). -/
theorem goOff_work (h : Head) (hl : s.offLawful) : Work s (goOff h s) := by
  unfold goOff
  refine .ite (fun _ => .refl hl) fun _ => ?_
  have w0 : HeadWork s (stopBond h .disabled s) := stopBond_work hl fun _ => rfl
  have w1 := goOff_middle h (s.head h).owesReport (s.head h).state.working w0.law
  refine (w0.trans w1).work.then fun l => toOff_work _ l (w1.chans h ?_)
  simp [State.chan, stopBond, Channel.stop, State.setChan]

theorem resumeHead_work (h : Head) (hl : s.offLawful) : HeadWork s (resumeHead h s) :=
  (removeReason_work _ _ hl).then (removeReason_work _ _)

theorem clearFault_work {h : Head} (hl : s.offLawful) (ho : (s.head h).state ≠ .off) : HeadWork s (clearFault h s) := by
  unfold clearFault
  dsimp only
  refine .thenOn (h := h) ho ?_ (fun l o => modHead_work_on l o fun _ _ => by simp)
  refine .then ?_ (clearAlarm_work _ _)
  refine .then ?_ (fun l => modHead_work_same h _ l fun _ => ⟨rfl, rfl⟩)
  have w : HeadWork s (if (s.chan h).state = .tripped then s.setChan h { s.chan h with state := .idle } else s) :=
    .ite (fun r => setChan_work _ _ hl fun e => by simp [e] at r) fun _ => .refl hl
  refine .ite (fun _ => ?_) fun _ => .ite (fun _ => ?_) fun _ => w
  · exact .thenOwn (own := false) (h := h) (by simp) w reportMissed_work
  · exact .thenOwn (own := false) (h := h) (by simp) w skipNow_work

theorem startBond_work {h : Head} (hl : s.offLawful) (ho : (s.head h).state ≠ .off) : Work s (startBond h s) := by
  unfold startBond
  dsimp only
  refine .thenHead ?_ (sendDrive_work h _ _)
  have w : HeadWork s (s.modHead h fun c => { c with awaited := none, state := .bonding }) :=
    modHead_work_on hl ho fun _ _ => by simp
  refine { w.work with law := fun k hk => ⟨?_, (w.law k hk).2⟩ }
  have e : k = h.other := by
    have := w.on ho
    cases k <;> cases h <;> first | rfl | exact absurd hk this
  rw [e, State.chan_setChan_other]
  exact (w.law _ (e ▸ hk)).1

theorem onTouchdown_work (h : Head) (n : Byte) (hl : s.offLawful) : Work s (onTouchdown h n s) := by
  unfold onTouchdown
  exact .ite (fun e => startBond_work hl (by simp [e.1])) fun _ => .refl hl

theorem onStick_work {h : Head} (e : VoteEntry) (hl : s.offLawful) (ho : (s.head h).state ≠ .off) : HeadWork s (onStick h e s) := by
  unfold onStick
  dsimp only
  have w : HeadWork s { s with vcu := { s.vcu with votes := s.vcu.votes.set h ((s.vcu.votes.get h).enter (s.head h).phase e) } } :=
    { HeadWork.refl hl with }
  split
  · refine .thenOn (h := h) ho ?_ (awaitEvent_work _ _)
    refine .then ?_ (commandHead_work h _)
    exact .thenOn ho w fun l o => modHead_work_on l o fun _ _ => by simp
  · refine .thenOn (h := h) ho ?_ (awaitEvent_work _ _)
    refine .then ?_ (commandHead_work h _)
    exact .thenOn ho w fun l o => modHead_work_on l o fun _ _ => by simp

theorem onNonStick_work {h : Head} (n : Nat) (hl : s.offLawful) (ho : (s.head h).state ≠ .off) :
    HeadWork s (onNonStick h n s) := by
  unfold onNonStick
  dsimp only
  split
  · refine .thenOn (h := h) ho ?_ (awaitEvent_work _ _)
    refine .then ?_ (commandHead_work h _)
    refine .then ?_ (fun l => modBond_work _ l (fun _ => rfl) fun _ => id)
    exact modHead_work_on hl ho fun _ _ => by simp
  · refine .thenOn (h := h) ho ?_ (awaitEvent_work _ _)
    refine .then ?_ (commandHead_work h _)
    exact modHead_work_on hl ho fun _ _ => by simp

theorem bondVoted_work {h : Head} (b : BondSummary) (c : Continuity) (d : Nat) (hl : s.offLawful) (ho : (s.head h).state ≠ .off) :
    HeadWork s (bondVoted h b c d s) := by
  unfold bondVoted
  dsimp only
  have w : HeadWork s { s with vcu := { s.vcu with last := s.vcu.last.set h (some (s.voteFor h b c d)) } } :=
    { HeadWork.refl hl with }
  split
  · refine .thenOn (h := h) ho ?_ (onStick_work _)
    exact .thenOn ho w fun l o => modHead_work_on l o fun _ => id
  · refine .thenOn (h := h) ho ?_ (onNonStick_work _)
    exact .thenOn ho w fun l o => modHead_work_on l o fun _ => id

theorem onBondEnd_work (h : Head) (n : Byte) (c : Continuity) (d : Nat) (hl : s.offLawful) : HeadWork s (onBondEnd h n c d s) := by
  unfold onBondEnd
  split
  · rename_i e
    split
    · exact bondVoted_work _ _ _ hl (by simp [e.1])
    · exact .refl hl
  · exact .refl hl

theorem wireFinished_work {h : Head} (hl : s.offLawful) (ho : (s.head h).state ≠ .off) : HeadWork s (wireFinished h s) := by
  refine .thenOwn (h := h) (fun _ => ho) ?_ (wireEndReport_work true)
  exact modHead_work_on hl ho fun _ => id

theorem nsbHold_work {h : Head} (w : WireRef) (hl : s.offLawful) (ho : (s.head h).state ≠ .off) : HeadWork s (nsbHold h w s) := by
  unfold nsbHold
  dsimp only
  refine .then ?_ (notify_work _)
  refine .then ?_ (raiseAlarm_work _ _ _)
  exact modHead_work_on hl ho fun _ _ => by simp

theorem onWireDone_work (h : Head) (n : Byte) (hl : s.offLawful) : HeadWork s (onWireDone h n s) := by
  unfold onWireDone
  dsimp only
  split
  · rename_i e
    split
    · exact nsbHold_work _ hl (by simp [e.1])
    · exact wireFinished_work hl (by simp [e.1])
  · exact .refl hl

theorem onMotionFault_work (h : Head) (hl : s.offLawful) : HeadWork s (onMotionFault h s) := by
  unfold onMotionFault
  split
  · exact .refl hl
  · exact raiseAlarm_work _ _ _ hl
  all_goals
    rename_i e
    exact headFault_work _ hl (by simp [e])

theorem onDeadline_work (h : Head) (hl : s.offLawful) : HeadWork s (onDeadline h s) := by
  unfold onDeadline
  split
  · rename_i a ha
    refine .ite (fun _ => headFault_work _ hl fun e => ?_) fun _ => .refl hl
    simp [(hl h e).2] at ha
  · exact .refl hl

/-! ### Samples (chapter 5) -/

theorem Channel.startupTimeout_state {c : Channel} (r : RecipeEntry) (h : c.state ≠ .disabled) :
    (c.startupTimeout r).state ≠ .disabled := by
  unfold Channel.startupTimeout
  split
  · simp
  · exact h

theorem onSample_work (h : Head) (raw : Nat) (q : Byte) (f : Bool) (hl : s.offLawful) : HeadWork s (onSample h raw q f s) := by
  unfold onSample
  dsimp only
  by_cases hr : (s.chan h).running = true
  · have ho : (s.head h).state ≠ .off := by
      intro e
      simp [Channel.running, (hl h e).1] at hr
    have w (c : Channel) : HeadWork s (s.setChan h c) :=
      setChan_work _ _ hl fun e => by simp [Channel.running, e] at hr
    split
    · exact w _
    · refine .thenOn ho ?_ (headFault_work _)
      exact (w _).then (sendDrive_work h _ _)
    · refine .thenOn ho ?_ (awaitEvent_work _ _)
      exact (w _).then (sendDrive_work h _ _)
    · exact (w _).then (sendDrive_work h _ _)
  · have e : (s.chan h).sample (s.recipe ((s.chan h).recipe.getD 0)) raw q f = (s.chan h, .discarded) := by
      simp [Channel.sample, hr]
    rw [e]
    exact setChan_work _ _ hl id

theorem onLossWindow_work (h : Head) (hl : s.offLawful) : HeadWork s (onLossWindow h s) := by
  unfold onLossWindow
  dsimp only
  split
  · rename_i e
    have ho : (s.head h).state ≠ .off := by
      intro e'
      simp [Channel.running, (hl h e').1] at e
    refine .thenOn ho ?_ (headFault_work _)
    refine .then ?_ (sendDrive_work h _ _)
    exact setChan_work _ _ hl fun e' => by simp [Channel.running, e'] at e
  · exact .refl hl

theorem onStartupTimeout_work (h : Head) (hl : s.offLawful) : HeadWork s (onStartupTimeout h s) := by
  unfold onStartupTimeout
  dsimp only
  refine .ite (fun _ => ?_) fun _ => .refl hl
  refine setChan_work _ _ hl fun hd => ?_
  simp [Channel.startupTimeout, hd]

/-! ### Pull tests (chapters 7 and 8) -/

/-- A change of PLM's record that keeps the plans, the log and the next number, and puts no request in flight while the log is
full. -/
theorem setPlm_work (f : Plm → Plm) (hl : s.offLawful)
    (hf : (f s.plm).plans = s.plm.plans ∧ (f s.plm).log = s.plm.log ∧ (f s.plm).nextRecord = s.plm.nextRecord)
    (hq : (f s.plm).req.isSome → s.plm.req.isSome ∨ s.plm.log.length < 512) : Work s { s with plm := f s.plm } := by
  refine { Work.refl hl with log := fun ⟨h1, h2, h3⟩ => ?_, cands := cands_of hf.1 id }
  unfold State.logLawful
  simp only [hf.2.1, hf.2.2]
  exact ⟨h1, fun h => (hq h).elim h2 id, h3⟩

/-- A change of a strip record that keeps its candidate list lawful. -/
theorem modStrip_Work (p : Position) (f : StripRecord → StripRecord) (hl : s.offLawful)
    (hf : s.candidatesLawful → ∀ r, s.strip p = some r → candidatesLawful r.candidates → candidatesLawful (f r).candidates) :
    Work s (s.modStrip p f) := by
  have key : s.candidatesLawful → (s.modStrip p f).candidatesLawful := by
    intro hc
    refine cands_of (t := s.modStrip p f) (by simp) (fun h r hr => ?_) hc
    have old (x : StripRecord) : s.strip p = some x → candidatesLawful (f x).candidates := fun e =>
      hf hc x e (h x (mem_strips.mpr (by cases p <;> simp_all [State.strip])))
    rcases mem_strips.mp hr with e | e | e <;> cases p <;>
      first
        | exact h r (mem_strips.mpr (.inl e))
        | exact h r (mem_strips.mpr (.inr (.inl e)))
        | exact h r (mem_strips.mpr (.inr (.inr e)))
        | (obtain ⟨x, hx, rfl⟩ := Option.map_eq_some_iff.mp e; exact old x hx)
  cases p <;> exact { Work.refl hl with cands := key }

/-- A change of a strip record that keeps its candidates. -/
theorem modStrip_Work_same (p : Position) (f : StripRecord → StripRecord) (hl : s.offLawful)
    (hf : ∀ r, (f r).candidates = r.candidates) : Work s (s.modStrip p f) :=
  modStrip_Work p f hl fun _ r _ h => hf r ▸ h

theorem capabilityCheck_work (p : Nat) (hl : s.offLawful) : Work s (capabilityCheck p s) := by
  unfold capabilityCheck
  dsimp only
  have w (x : Stats) : Work s (s.setStats p x) := setPlm_work (fun q => { q with stats := q.stats.set p x }) hl ⟨rfl, rfl, rfl⟩ .inl
  refine .ite (fun _ => ?_) fun _ => .refl hl
  split
  · refine .ite (fun _ => .ite (fun _ => .refl hl) fun _ => ?_) fun _ => .ite (fun _ => ?_) fun _ => .refl hl
    · exact (w _).thenHead (raiseAlarm_work _ _ _)
    · exact (w _).thenHead (clearAlarm_work _ _)
  · exact .refl hl

theorem countForce_work (p f : Nat) (hl : s.offLawful) : Work s (countForce p f s) := by
  unfold countForce
  dsimp only
  have w : Work s (s.setStats p ((s.stats p).count f)) :=
    setPlm_work (fun q => { q with stats := q.stats.set p ((s.stats p).count f) }) hl ⟨rfl, rfl, rfl⟩ .inl
  exact .ite (fun _ => w) fun _ => w.then (capabilityCheck_work p)

theorem weighHold_work (p m : Nat) (hl : s.offLawful) : Work s (weighHold p m s) := by
  unfold weighHold
  dsimp only
  have w : Work s (s.modStrip .post fun r => { r with pullFails := r.pullFails + 1 }) :=
    modStrip_Work_same _ _ hl fun _ => rfl
  refine .ite (fun _ => .thenHead ?_ (raiseAlarm_work _ _ _)) fun _ => w
  exact w.then fun l => setPlm_work (fun q => { q with progState := q.progState.set p .held }) l ⟨rfl, rfl, rfl⟩ .inl

theorem releaseProgram_work (p : Nat) (hl : s.offLawful) : Work s (releaseProgram p s) := by
  unfold releaseProgram
  refine .thenHead ?_ evaluateChecking_work
  refine .thenHead ?_ (eachHead_work fun h _ => removeReason_work _ h)
  refine .thenHead ?_ (clearAlarm_work _ _)
  exact setPlm_work (fun q => { q with progState := q.progState.set p .running }) hl ⟨rfl, rfl, rfl⟩ .inl

/-- A record of the next number joins a log with room. -/
theorem appendRecord_work {b : State} (x : PullRecord) (w : Work b s) (hx : x.number = s.plm.nextRecord)
    (hr : b.logLawful → s.plm.log.length < 512) (hq : s.plm.req = none) : Work b (appendRecord x s) := by
  refine { w with log := fun hb => ?_, cands := w.cands }
  obtain ⟨h1, _, h2, h3⟩ := w.log hb
  replace hr := hr hb
  have hlen : (s.plm.log ++ [x]).length = s.plm.log.length + 1 := by simp
  refine ⟨by show (s.plm.log ++ [x]).length ≤ 512; omega, fun h => ?_, Nat.mod_lt _ (by decide), fun i y hy => ?_⟩
  · change s.plm.req.isSome at h
    simp [hq] at h
  change (s.plm.log ++ [x])[i]? = some y at hy
  show (y.number + ((s.plm.log ++ [x]).length - i)) % 65536 = (s.plm.nextRecord + 1) % 65536 ∧ _
  rw [hlen]
  by_cases e : i < s.plm.log.length
  · rw [List.getElem?_append_left e] at hy
    have := h3 i y hy
    omega
  · obtain ⟨e', rfl⟩ : i = s.plm.log.length ∧ x = y := by
      rw [List.getElem?_append_right (Nat.not_lt.mp e)] at hy
      have := List.getElem?_eq_some_iff.mp hy
      simp at this
      exact ⟨by omega, this.2⟩
    subst e'
    omega

theorem levelNotices_work (hl : s.offLawful) : Work s (levelNotices s) := by
  unfold levelNotices
  dsimp only
  have w : Work s (if s.plm.log.length = Config.logHalf ∧ s.plm.half = false then
      notify (.pullLog .half) { s with plm := { s.plm with half := true } } else s) := by
    refine .ite (fun _ => .thenHead ?_ (notify_work _)) fun _ => .refl hl
    exact setPlm_work (fun q => { q with half := true }) hl ⟨rfl, rfl, rfl⟩ .inl
  exact .ite (fun _ => w.thenHead (notify_work _)) fun _ => w

theorem weighRecord_work (p : Nat) (o : PullOutcome) (hl : s.offLawful) : Work s (weighRecord p o s) := by
  unfold weighRecord
  split
  · exact countForce_work _ _ hl
  · exact (countForce_work _ _ hl).then (weighHold_work _ _)
  · exact .refl hl

theorem recordCandidate_work {b : State} (r : StripRecord) (c : Candidate) (o : PullOutcome) (w : Work b s)
    (hr : b.logLawful → s.plm.log.length < 512) (hq : s.plm.req = none) : Work b (recordCandidate r c o s) := by
  unfold recordCandidate
  dsimp only
  refine .then ?_ levelNotices_work
  refine .then ?_ (weighRecord_work _ _)
  refine .then ?_ (fun l => modStrip_Work _ _ l fun _ x _ hx => ?_)
  · exact appendRecord_work _ w rfl hr hq
  · dsimp only
    split
    · exact modifyAt_candidates_lawful _ _ (fun _ => ⟨rfl, rfl⟩) hx
    · exact hx

theorem enterLogWait_work (r : StripRecord) (hl : s.offLawful) : Work s (enterLogWait r s) := by
  unfold enterLogWait
  dsimp only
  refine .ite (fun _ => .refl hl) fun _ => .thenHead ?_ (raiseAlarm_work _ _ _)
  refine .thenHead ?_ (notify_work _)
  exact modStrip_Work_same _ _ hl fun _ => rfl

theorem workPost_work (n : Nat) (hl : s.offLawful) : Work s (workPost n s) := by
  induction n generalizing s with
  | zero => exact .refl hl
  | succ n ih =>
    unfold workPost
    split
    · exact .refl hl
    · refine .ite (fun e => ?_) fun _ => .refl hl
      split
      · exact modStrip_Work_same _ _ hl fun _ => rfl
      · refine .ite (fun _ => enterLogWait_work _ hl) fun hr => .ite (fun _ => ?_) fun _ => .refl hl
        exact (recordCandidate_work _ _ _ (.refl hl) (fun _ => Nat.not_le.mp hr) (Option.isNone_iff_eq_none.mp e.2.2)).then ih

theorem pullWork_work (hl : s.offLawful) : Work s (pullWork s) := workPost_work _ hl

theorem endLogWait_work (p : Position) (hl : s.offLawful) : Work s (endLogWait p s) := by
  unfold endLogWait
  refine .ite (fun _ => .thenHead ?_ (clearAlarm_work _ _)) fun _ => .refl hl
  exact modStrip_Work_same _ _ hl fun _ => rfl

theorem pullTarget_room {x : StripRecord × Candidate} (h : s.pullTarget = some x) : s.plm.log.length < 512 := by
  unfold State.pullTarget at h
  split at h
  · split at h
    · rename_i e
      have := e.2.2
      simp only [State.pullFree, Bool.and_eq_true, decide_eq_true_eq] at this
      exact this.2
    · cases h
  · cases h

theorem onPullReq_work (hl : s.offLawful) : Work s (onPullReq s) := by
  unfold onPullReq
  split
  · rename_i r c hc
    unfold sendPull
    dsimp only
    refine .thenHead ?_ (sendOwn_work _ _)
    let q : PullRequest := { tag := s.plm.pullTag + 1, seq := r.seq, unit := c.unit, wire := c.wire, sendTime := s.now }
    exact setPlm_work (fun p => { p with pullTag := s.plm.pullTag + 1, req := some q }) hl ⟨rfl, rfl, rfl⟩ fun _ => .inr (pullTarget_room hc)
  · exact .refl hl

theorem recordRequest_work {b : State} (q : PullRequest) (o : StripRecord → PullOutcome) (w : Work b s)
    (hr : b.logLawful → s.plm.log.length < 512) (hq : s.plm.req = none) : Work b (recordRequest q o s) := by
  unfold recordRequest
  split
  · refine .ite (fun _ => ?_) fun _ => w
    split
    · exact recordCandidate_work _ _ _ w hr hq
    · exact w
  · exact w

theorem onPullResult_work (tag : Byte) (f m : Nat) (st : StationStatus) (hl : s.offLawful) :
    Work s (onPullResult tag f m st s) := by
  unfold onPullResult
  split
  · rename_i q hq
    refine .ite (fun _ => ?_) fun _ => .refl hl
    dsimp only
    refine .thenHead ?_ (clearAlarm_work _ _)
    refine .then ?_ pullWork_work
    refine recordRequest_work _ _ ?_ (fun h => h.2.1 (by simp [hq])) rfl
    exact setPlm_work (fun p => { p with req := none, timeouts := 0 }) hl ⟨rfl, rfl, rfl⟩ (by simp)
  · exact .refl hl

theorem onPullTimeout_work (hl : s.offLawful) : Work s (onPullTimeout s) := by
  unfold onPullTimeout
  split
  · rename_i q hq
    refine .ite (fun _ => ?_) fun _ => .refl hl
    dsimp only
    refine .then ?_ pullWork_work
    generalize hn : satAdd 255 s.plm.timeouts 1 = n
    have w0 : Work s { s with plm := { s.plm with req := none, timeouts := n } } :=
      setPlm_work (fun p => { p with req := none, timeouts := n }) hl ⟨rfl, rfl, rfl⟩ (by simp)
    have w1 := raiseAlarm_work .pullTimeout .track (q.unit * 1000 + q.wire) w0.law
    have w2 (c : Prop) [Decidable c] := HeadWork.ite (c := c) (fun _ => w1.then (raiseAlarm_work .pullStation .track n)) fun _ => w1
    refine recordRequest_work _ _ (w0.trans (w2 _).work) (fun h => ?_) ?_
    · rw [(w2 _).plm]
      exact h.2.1 (by simp [hq])
    · rw [(w2 _).plm]
  · exact .refl hl

/-- The candidates of a lawful plan are a lawful list. -/
theorem planned_lawful {pl : PlanEntry} (e : ProgramEntry) (m : UnitMarks) (h : planLawful pl) :
    candidatesLawful (plannedCandidates pl e m) := by
  obtain ⟨h4, h8, hu, hw⟩ := h
  unfold plannedCandidates
  generalize hU : pl.units.filter _ = U
  generalize hW : pl.wires.filter _ = W
  have hU4 : U.length ≤ 4 := hU ▸ (List.length_filter_le ..).trans h4
  have hW8 : W.length ≤ 8 := hW ▸ (List.length_filter_le ..).trans h8
  have hUn : U.Nodup := hU ▸ hu.filter _
  have hWn : W.Nodup := hW ▸ hw.filter _
  refine ⟨?_, ?_⟩
  · rw [List.length_flatMap]
    have : (U.map fun u => (W.map fun w => ({ unit := u, wire := w, reason := .planned, status := .waiting } : Candidate)).length)
        = U.map fun _ => W.length := by simp
    rw [this, List.map_const', List.sum_replicate]
    simp only [smul_eq_mul]
    nlinarith
  · rw [List.pairwise_flatMap]
    refine ⟨fun u _ => ?_, ?_⟩
    · rw [List.pairwise_map]
      exact hWn.imp fun hab h => hab h.2
    · refine hUn.imp fun hab x hx y hy h => ?_
      obtain ⟨_, _, rfl⟩ := List.mem_map.mp hx
      obtain ⟨_, _, rfl⟩ := List.mem_map.mp hy
      exact hab h.1

theorem plan_lawful {l : List PlanEntry} (h : ∀ e ∈ l, planLawful e) (p : Nat) : planLawful (l.getD p {}) := by
  rw [List.getD_eq_getElem?_getD]
  cases e : l[p]? with
  | none => exact ⟨by simp, by simp, List.nodup_nil, List.nodup_nil⟩
  | some x => exact h x (List.mem_of_getElem? e)

theorem admitToPlm_work (hl : s.offLawful) : Work s (admitToPlm s) := by
  unfold admitToPlm
  split
  · rename_i r hr
    dsimp only
    have w : Work s { s with plm := { s.plm with counters := s.plm.counters.set r.program ((s.plm.counters.getD r.program 0 + 1) % 65536) } } :=
      setPlm_work (fun q => { q with counters := q.counters.set r.program ((s.plm.counters.getD r.program 0 + 1) % 65536) }) hl
        ⟨rfl, rfl, rfl⟩ .inl
    refine .ite (fun _ => w.then fun l => modStrip_Work _ _ l fun hc _ _ _ => ?_) fun _ => w
    exact planned_lawful _ _ (plan_lawful hc.1 _)
  · exact .refl hl

theorem releaseRecords_work (d : Nat) (hl : s.offLawful) : Work s (releaseRecords d s) := by
  unfold releaseRecords
  dsimp only
  have w : Work s { s with plm := { s.plm with log := s.plm.log.drop (d + 1) } } := by
    refine { Work.refl hl with log := fun ⟨h1, h2, h3, h4⟩ => ?_, cands := cands_of rfl id }
    refine ⟨by simp; omega, fun h => ?_, h3, fun i x hx => ?_⟩
    · have := h2 h
      simp
      omega
    · simp only [List.getElem?_drop] at hx
      have := h4 _ x hx
      have hlt := (List.getElem?_eq_some_iff.mp hx).1
      simp only [List.length_drop]
      rw [← this.1]
      refine ⟨?_, this.2⟩
      congr 2
      omega
  have w2 : Work s (if s.plm.half ∧ (s.plm.log.drop (d + 1)).length < Config.logHalf then
      notify (.pullLog .belowHalf)
        { s with plm := { s.plm with log := s.plm.log.drop (d + 1), half := false } }
      else { s with plm := { s.plm with log := s.plm.log.drop (d + 1) } }) := by
    refine .ite (fun _ => .thenHead ?_ (notify_work _)) fun _ => w
    exact w.then fun l => setPlm_work (fun q => { q with half := false }) l ⟨rfl, rfl, rfl⟩ .inl
  refine .ite (fun _ => .then ?_ pullWork_work) fun _ => w2
  exact w2.then (endLogWait_work _)

theorem resetStats_work (p : Nat) (hl : s.offLawful) : Work s (resetStats p s) := by
  unfold resetStats
  dsimp only
  have w : Work s (s.setStats p {}) := setPlm_work (fun q => { q with stats := q.stats.set p {} }) hl ⟨rfl, rfl, rfl⟩ .inl
  exact .ite (fun _ => w.thenHead (clearAlarm_work _ _)) fun _ => w

/-! ### Feeding (chapter 1) -/

theorem modFdc_work (f : Fdc → Fdc) (hl : s.offLawful) : Work s (s.modFdc f) := { Work.refl hl with }

/-- A change of TRC's record after which every strip's candidate list stood there before. -/
theorem modTrc_work (f : Trc → Trc) (hl : s.offLawful)
    (hf : ∀ r, ((f s.trc).preheat = some r ∨ (f s.trc).bond = some r ∨ (f s.trc).post = some r) →
      r.candidates = [] ∨ ∃ r' ∈ s.strips, r.candidates = r'.candidates ∨
        ∃ g : Candidate → Candidate, (∀ c, (g c).unit = c.unit ∧ (g c).wire = c.wire) ∧ r.candidates = r'.candidates.map g) :
    Work s (s.modTrc f) := by
  refine { Work.refl hl with cands := cands_of rfl fun h r hr => ?_ }
  rcases hf r (mem_strips.mp hr) with e | ⟨r', hm, e | ⟨g, hg, e⟩⟩
  · rw [e]
    exact ⟨by simp, .nil⟩
  · rw [e]
    exact h r' hm
  · rw [e]
    exact map_candidates_lawful g hg (h r' hm)

/-- The same, where no strip record is touched. -/
theorem modTrc_work_same (f : Trc → Trc) (hl : s.offLawful)
    (hf : (f s.trc).preheat = s.trc.preheat ∧ (f s.trc).bond = s.trc.bond ∧ (f s.trc).post = s.trc.post) : Work s (s.modTrc f) := by
  refine modTrc_work f hl fun r hr => .inr ⟨r, mem_strips.mpr ?_, .inl rfl⟩
  rwa [hf.1, hf.2.1, hf.2.2] at hr

theorem freeIndexer_work (hl : s.offLawful) : Work s (freeIndexer s) := modTrc_work_same _ hl ⟨rfl, rfl, rfl⟩

theorem dwellCheck_work (hl : s.offLawful) : Work s (dwellCheck s) := by
  unfold dwellCheck
  split
  · exact .ite (fun _ => modStrip_Work_same _ _ hl fun _ => rfl) fun _ => .refl hl
  · exact .refl hl

theorem evaluateNext_work (hl : s.offLawful) : Work s (evaluateNext s) := by
  unfold evaluateNext
  refine .ite (fun _ => .thenHead ?_ (raiseAlarm_work _ _ _)) fun _ => .refl hl
  exact modFdc_work _ hl

theorem loadCheck_work (hl : s.offLawful) : Work s (loadCheck s) := by
  unfold loadCheck
  split
  · exact (modFdc_work _ hl).then evaluateNext_work
  · unfold stopCheck
    dsimp only
    refine .thenHead ?_ (notify_work _)
    refine .thenHead ?_ (raiseAlarm_work _ _ _)
    exact modFdc_work _ hl

theorem leaveExhausted_work (m : MagState) (hl : s.offLawful) : HeadWork s (leaveExhausted m s) := by
  unfold leaveExhausted
  exact .ite (fun _ => clearAlarm_work _ _ hl) fun _ => .refl hl

theorem onMagIn_work (m : SlotMap) (hl : s.offLawful) : Work s (onMagIn m s) := by
  unfold onMagIn
  dsimp only
  refine .then ?_ loadCheck_work
  exact (modFdc_work _ hl).thenHead (leaveExhausted_work _)

theorem onMagOut_work (hl : s.offLawful) : Work s (onMagOut s) := by
  unfold onMagOut
  dsimp only
  exact (modFdc_work _ hl).thenHead (leaveExhausted_work _)

theorem startPush_work (n : Nat) (hl : s.offLawful) : Work s (startPush n s) := by
  unfold startPush
  dsimp only
  refine .thenHead ?_ (sendOwn_work _ _)
  refine .then ?_ (fun l => modTrc_work_same _ l ⟨rfl, rfl, rfl⟩)
  exact modFdc_work _ hl

theorem endPush_work (hl : s.offLawful) : Work s (endPush s) := (modFdc_work _ hl).then freeIndexer_work

theorem failPush_work (p : PushInFlight) (hl : s.offLawful) : Work s (failPush p s) := by
  unfold failPush
  dsimp only
  refine .then ?_ evaluateNext_work
  have w : Work s (raiseAlarm .feedJam .feeder p.slot (endPush s)) := (endPush_work hl).thenHead (raiseAlarm_work _ _ _)
  exact .ite (fun _ => w) fun _ => w.then (modFdc_work _)

theorem admitStrip_work (p : PushInFlight) (c : Option StripCode) (hl : s.offLawful) : Work s (admitStrip p c s) := by
  unfold admitStrip
  dsimp only
  refine .then ?_ evaluateNext_work
  refine .thenHead ?_ (clearAlarm_work _ _)
  refine .then ?_ admitToPlm_work
  refine .thenHead ?_ (notify_work _)
  have w : Work s ((endPush s).modTrc fun x =>
      { x with preheat := some (s.admission p c), nextSeq := if x.nextSeq = 65535 then 1 else x.nextSeq + 1 }) := by
    refine (endPush_work hl).then fun l => modTrc_work _ l fun r hr => ?_
    rcases hr with e | e | e
    · left
      cases e
      rfl
    · exact .inr ⟨r, mem_strips.mpr (.inr (.inl e)), .inl rfl⟩
    · exact .inr ⟨r, mem_strips.mpr (.inr (.inr e)), .inl rfl⟩
  refine .ite (fun _ => ?_) fun _ => w.then dwellCheck_work
  unfold idMismatch
  split
  · refine .thenHead ?_ (notify_work _)
    exact w.thenHead (raiseAlarm_work _ _ _)
  · exact w

theorem onStripIn_work (c : Option StripCode) (hl : s.offLawful) : Work s (onStripIn c s) := by
  unfold onStripIn
  split
  · exact admitStrip_work _ _ hl
  · exact .refl hl

theorem becomeFull_work (hl : s.offLawful) : Work s (becomeFull s) := by
  refine .thenHead ?_ (raiseAlarm_work _ _ _)
  exact modFdc_work _ hl

theorem becomeOutReady_work (hl : s.offLawful) : Work s (becomeOutReady s) := by
  unfold becomeOutReady
  dsimp only
  exact .ite (fun _ => (modFdc_work _ hl).thenHead (clearAlarm_work _ _)) fun _ => modFdc_work _ hl

theorem onOutMagIn_work (m : SlotMap) (hl : s.offLawful) : Work s (onOutMagIn m s) := by
  unfold onOutMagIn
  dsimp only
  exact .ite (fun _ => (modFdc_work _ hl).then becomeOutReady_work) fun _ => (modFdc_work _ hl).then becomeFull_work

theorem onOutMagOut_work (hl : s.offLawful) : Work s (onOutMagOut s) := by
  unfold onOutMagOut
  dsimp only
  exact .ite (fun _ => (modFdc_work _ hl).thenHead (clearAlarm_work _ _)) fun _ => modFdc_work _ hl

theorem fillSlot_work (n : Nat) (hl : s.offLawful) : Work s (fillSlot n s) := by
  unfold fillSlot
  dsimp only
  refine .ite (fun _ => modFdc_work _ hl) fun _ => .ite (fun _ => ?_) fun _ => ?_
  · exact (modFdc_work _ hl).then becomeOutReady_work
  · exact (modFdc_work _ hl).then becomeFull_work

theorem clearReservation_work (hl : s.offLawful) : Work s (clearReservation s) := by
  unfold clearReservation
  dsimp only
  refine .ite (fun _ => modFdc_work _ hl) fun _ => .ite (fun _ => ?_) fun _ => .ite (fun _ => modFdc_work _ hl) fun _ => ?_
  · exact (modFdc_work _ hl).then becomeOutReady_work
  · exact (modFdc_work _ hl).then becomeFull_work

/-! ### The track (chapter 2) -/

theorem drainToReady_work (hd : s.ccs.cell = .drain) (hl : s.offLawful) : Work s (drainToReady s) := by
  unfold drainToReady
  dsimp only
  refine .thenHead ?_ (eachHead_work fun h _ l => (removeReason_work _ h l).then (unpark_work h))
  exact { Work.refl hl with cell := .inr ⟨hd, rfl⟩ }

theorem drainCheck_work (hl : s.offLawful) : Work s (drainCheck s) := by
  unfold drainCheck
  exact .ite (fun e => drainToReady_work e.1 hl) fun _ => .refl hl

theorem grantPush_work (hl : s.offLawful) : Work s (grantPush s) := by
  unfold grantPush
  split
  · exact startPush_work _ hl
  · exact .refl hl

theorem startMove_work (k : OpKind) (o : Origin) (q : Nat) (hl : s.offLawful) : Work s (startMove k o q s) := by
  unfold startMove
  dsimp only
  refine .thenHead ?_ (sendOwn_work _ _)
  exact modTrc_work_same _ hl ⟨rfl, rfl, rfl⟩

theorem grantMovePb_work (hl : s.offLawful) : Work s (grantMovePb s) := by
  unfold grantMovePb
  split
  · exact startMove_work _ _ _ hl
  · exact .refl hl

theorem grantMoveBp_work (hl : s.offLawful) : Work s (grantMoveBp s) := by
  unfold grantMoveBp
  split
  · exact startMove_work _ _ _ hl
  · exact .refl hl

theorem grantEject_work (hl : s.offLawful) : Work s (grantEject s) := by
  unfold grantEject
  split
  · unfold startEject
    dsimp only
    refine .thenHead ?_ (sendOwn_work _ _)
    refine .then ?_ (fun l => modTrc_work_same _ l ⟨rfl, rfl, rfl⟩)
    refine .then ?_ (fun l => modStrip_Work_same .post _ l fun _ => rfl)
    exact modFdc_work _ hl
  · exact .refl hl

theorem clearJam_work (hl : s.offLawful) : HeadWork s (clearJam s) := clearAlarm_work _ _ hl

theorem completeMovePb_work (hl : s.offLawful) : Work s (completeMovePb s) := by
  unfold completeMovePb
  split
  · exact freeIndexer_work hl
  · rename_i r hr
    dsimp only
    have w : Work s (clearJam (s.modTrc fun x => { x with op := none, preheat := none, bond := some r })) := by
      refine .thenHead ?_ clearJam_work
      refine modTrc_work _ hl fun x hx => .inr ⟨x, mem_strips.mpr ?_, .inl rfl⟩
      rcases hx with e | e | e
      · cases e
      · cases e
        exact .inl hr
      · exact .inr (.inr e)
    refine .ite (fun _ => w.thenHead (notify_work _)) fun _ => ?_
    refine .thenHead ?_ (eachHead_work fun h _ => askUnit_work h)
    refine .thenHead ?_ evaluateChecking_work
    refine .thenHead ?_ (notify_work _)
    refine .thenHead ?_ (createUnits_work _)
    exact w.then fun l => modStrip_Work_same _ _ l fun _ => rfl

theorem enterPost_candidates (r : StripRecord) : r.enterPost.candidates = r.candidates := by
  unfold StripRecord.enterPost
  split <;> rfl

theorem completeMoveBp_work (hl : s.offLawful) : Work s (completeMoveBp s) := by
  unfold completeMoveBp
  split
  · exact freeIndexer_work hl
  · rename_i r hr
    dsimp only
    refine .then ?_ pullWork_work
    refine .thenHead ?_ (eachHead_work fun h _ => removeReason_work _ h)
    refine .thenHead ?_ discardUnits_work
    refine .thenHead ?_ clearJam_work
    refine modTrc_work _ hl fun x hx => .inr ?_
    rcases hx with e | e | e
    · exact ⟨x, mem_strips.mpr (.inl e), .inl rfl⟩
    · cases e
    · cases e
      refine ⟨r, mem_strips.mpr (.inr (.inl hr)), .inr ⟨_, fun c => ?_, (enterPost_candidates _).trans rfl⟩⟩
      split <;> exact ⟨rfl, rfl⟩

theorem onMoveDone_work (o : Origin) (n : Byte) (hl : s.offLawful) : Work s (onMoveDone o n s) := by
  unfold onMoveDone
  refine .ite (fun _ => ?_) fun _ => .refl hl
  split
  · exact completeMovePb_work hl
  · exact completeMoveBp_work hl

theorem completeEject_work (n : Nat) (hl : s.offLawful) : Work s (completeEject n s) := by
  unfold completeEject
  split
  · exact freeIndexer_work hl
  · dsimp only
    refine .then ?_ drainCheck_work
    refine .thenHead ?_ (notify_work _)
    refine .then ?_ (fun l => modTrc_work _ l fun x hx => .inr ⟨x, mem_strips.mpr ?_, .inl rfl⟩)
    · refine .thenHead ?_ clearJam_work
      exact (freeIndexer_work hl).then (fillSlot_work _)
    · rcases hx with e | e | e
      · exact .inl e
      · exact .inr (.inl e)
      · cases e

theorem onEjected_work (n : Nat) (hl : s.offLawful) : Work s (onEjected n s) := by
  unfold onEjected
  exact .ite (fun _ => completeEject_work _ hl) fun _ => .refl hl

theorem failOp_work (k : OpKind) (hl : s.offLawful) : Work s (failOp k s) := by
  unfold failOp
  dsimp only
  refine .thenHead ?_ (raiseAlarm_work _ _ _)
  refine .ite (fun _ => .then ?_ fun l => modStrip_Work_same _ _ l fun _ => rfl) fun _ => freeIndexer_work hl
  exact (freeIndexer_work hl).then clearReservation_work

theorem onTrackFault_work (o : Origin) (n : Byte) (hl : s.offLawful) : Work s (onTrackFault o n s) := by
  unfold onTrackFault
  exact .ite (fun _ => failOp_work _ hl) fun _ => (raiseAlarm_work _ _ _ hl).work

theorem onOutFeedFault_work (hl : s.offLawful) : Work s (onOutFeedFault s) := by
  unfold onOutFeedFault
  exact .ite (fun _ => failOp_work _ hl) fun _ => (raiseAlarm_work _ _ _ hl).work

theorem onMoveTimeout_work (hl : s.offLawful) : Work s (onMoveTimeout s) := by
  unfold onMoveTimeout
  split
  · exact .ite (fun _ => failOp_work _ hl) fun _ => .refl hl
  · exact .refl hl

theorem onFeedFault_work (hl : s.offLawful) : Work s (onFeedFault s) := by
  unfold onFeedFault
  split
  · exact (failPush_work _ hl).then drainCheck_work
  · exact (raiseAlarm_work _ _ _ hl).work

theorem onPushTimeout_work (hl : s.offLawful) : Work s (onPushTimeout s) := by
  unfold onPushTimeout
  split
  · exact .ite (fun _ => (failPush_work _ hl).then drainCheck_work) fun _ => .refl hl
  · exact .refl hl

theorem modHeat_work (f : Heat → Heat) (hl : s.offLawful) : Work s (s.modHeat f) := modTrc_work_same _ hl ⟨rfl, rfl, rfl⟩

theorem heatChange_work (b : HeatState) (hl : s.offLawful) : HeadWork s (heatChange b s) := by
  unfold heatChange
  refine .ite (fun _ => ?_) fun _ => .ite (fun _ => ?_) fun _ => .refl hl
  · refine .then ?_ (clearAlarm_work _ _)
    refine .then ?_ (eachHead_work fun h _ => removeReason_work _ h)
    exact notify_work _ hl
  · unfold heatLost
    dsimp only
    have w := (((notify_work (.heat false) hl).then (addReason_work .heat .a)).then (addReason_work .heat .b))
    exact .ite (fun _ => w.then (raiseAlarm_work _ _ _)) fun _ => w

theorem onHeatSample_work (t : Nat) (hl : s.offLawful) : Work s (onHeatSample t s) := by
  unfold onHeatSample
  dsimp only
  refine .thenHead ?_ (heatChange_work _)
  exact (clearAlarm_work _ _ hl).work.then (modHeat_work _)

theorem onHeatTimer_work (hl : s.offLawful) : Work s (onHeatTimer s) := by
  unfold onHeatTimer
  dsimp only
  refine .ite (fun _ => .thenHead ?_ (raiseAlarm_work _ _ _)) fun _ => .refl hl
  exact (modHeat_work _ hl).thenHead (heatChange_work _)

theorem resetHeat_work (hl : s.offLawful) : Work s (resetHeat s) := by
  unfold resetHeat
  dsimp only
  have w : Work s (clearAlarm .heatNotReady .cell (clearAlarm .heatSignal .cell (s.modHeat fun _ => {}))) :=
    ((modHeat_work _ hl).thenHead (clearAlarm_work _ _)).thenHead (clearAlarm_work _ _)
  exact .ite (fun _ => w.thenHead (notify_work _)) fun _ => w

/-! ### Requests about strips (R14, R33, R55, R74, R105, R106, R118) -/

/-- A check that leads to one of two answers. -/
theorem Work.served {a b : Served} {c : Prop} [Decidable c] (wa : c → Work s a.1) (wb : ¬c → Work s b.1) :
    Work s (if c then a else b).1 := by
  split
  · exact wa ‹_›
  · exact wb ‹_›

theorem onAcceptId_work (q : Nat) (hl : s.offLawful) : Work s (onAcceptId q s).1 := by
  unfold onAcceptId
  split
  · exact .refl hl
  · refine .served (fun _ => .thenHead ?_ (clearAlarm_work _ _)) fun _ => .refl hl
    refine .then ?_ dwellCheck_work
    exact modStrip_Work_same _ _ hl fun _ => rfl

theorem scrapBonding_work (q : Nat) (hl : s.offLawful) : Work s (scrapBonding q s) := by
  unfold scrapBonding
  dsimp only [List.foldl]
  have w0 : Work s (skipAll s) := by
    unfold skipAll
    dsimp only
    refine .then ?_ (fun l => modStrip_Work_same _ _ l fun _ => rfl)
    exact { Work.refl hl with }
  refine .thenHead ?_ (unpark_work _)
  refine .thenHead ?_ (unpark_work _)
  have hold (h : Head) (u : State) (l : u.offLawful) : HeadWork u (if (u.head h).state = .hold then skipNow h true u else u) :=
    .ite (fun e => skipNow_work l fun _ => by simp [e]) fun _ => .refl l
  have nsb (h : Head) (u : State) (l : u.offLawful) : HeadWork u (if u.awaitsNsb h q then endNsb h u else u) :=
    .ite (fun _ => endNsb_work h l) fun _ => .refl l
  refine .thenHead ?_ (hold .b _)
  refine .thenHead ?_ (hold .a _)
  refine .thenHead ?_ (nsb .b _)
  exact w0.thenHead (nsb .a _)

theorem releaseScrapped_work (q : Nat) (hl : s.offLawful) : Work s (releaseScrapped q s) := by
  unfold releaseScrapped
  refine .thenHead ?_ (notify_work _)
  exact modStrip_Work_same _ _ hl fun _ => rfl

theorem scrapChecking_work (q : Nat) (hl : s.offLawful) : Work s (scrapChecking q s) := by
  unfold scrapChecking
  dsimp only
  have w : Work s { s with vcu := { s.vcu with scan := some .ended
                                               pendingWire := if s.vcu.rebondHead.isSome then s.vcu.pendingWire else none } } :=
    { Work.refl hl with }
  split
  · exact w.then (releaseScrapped_work _)
  · exact .ite (fun _ => (w.thenHead (endNsb_work _)).then (releaseScrapped_work _)) fun _ => w

theorem scrapStrip_work (p : Position) (r : StripRecord) (hl : s.offLawful) : Work s (scrapStrip p r s) := by
  unfold scrapStrip
  dsimp only
  have w (i : Option (Nat × Nat)) : Work s (endLogWait p
      ((notify (.strip r.seq .scrapped) (s.modStrip p fun r => { r with scrapped := true })).modStrip p (cancelCandidates i))) := by
    refine .then ?_ (endLogWait_work p)
    refine .then ?_ (fun l => modStrip_Work _ _ l fun _ x _ hx => map_candidates_lawful _ (fun c => ?_) hx)
    · refine .thenHead ?_ (notify_work _)
      exact modStrip_Work_same _ _ hl fun _ => rfl
    · split <;> exact ⟨rfl, rfl⟩
  split
  · exact (w _).thenHead (clearAlarm_work _ _)
  · exact (w _).then (scrapBonding_work _)
  · exact (w _).then (scrapChecking_work _)
  all_goals exact w _

theorem onScrap_work (q : Nat) (hl : s.offLawful) : Work s (onScrap q s).1 := by
  unfold onScrap
  split
  · exact .refl hl
  · exact .served (fun _ => .refl hl) fun _ => scrapStrip_work _ _ hl

theorem skipBonding_work (u : Nat) (hl : s.offLawful) : Work s (skipBonding u s).1 := by
  unfold skipBonding
  split
  · exact .refl hl
  · split
    · refine HeadWork.work ?_
      refine .then ?_ evaluateChecking_work
      refine .then ?_ (reaskParked_work _)
      refine .then ?_ (reaskParked_work _)
      refine .then ?_ (markSkipped_work _)
      exact modUnit_work _ _ hl
    · refine .served (fun _ => .refl hl) fun _ => ?_
      split
      · rename_i h _
        refine HeadWork.work ?_
        show HeadWork s (skipClaim u h s)
        unfold skipClaim
        have w : HeadWork s (s.modUnit u fun x => { x with skipPending := true }) := modUnit_work _ _ hl
        refine .ite (fun e => .ite (fun _ => w.then (endNsb_work _)) fun _ => ?_) fun _ => w
        exact .thenOwn (fun _ => by simp [e]) w skipNow_work
      · exact (modUnit_work _ _ hl).work
    all_goals exact .refl hl

theorem onSkipUnit_work (q u : Nat) (hl : s.offLawful) : Work s (onSkipUnit q u s).1 := by
  unfold onSkipUnit
  split
  · exact .refl hl
  · refine .served (fun _ => .refl hl) fun _ => .served (fun _ => .refl hl) fun _ => ?_
    split
    all_goals first
      | exact skipBonding_work _ hl
      | exact modStrip_Work_same _ _ hl fun _ => rfl
      | exact .refl hl

theorem onNsbResume_work (w : WireRef) (hl : s.offLawful) : Work s (onNsbResume w s).1 := by
  unfold onNsbResume
  split
  · exact .refl hl
  · split
    · exact (endNsb_work _ hl).work
    · exact .refl hl

theorem onWaiveWire_work (w : WireRef) (hl : s.offLawful) : Work s (onWaiveWire w s).1 := by
  unfold onWaiveWire
  split
  · exact .refl hl
  · split
    · rename_i h _
      refine HeadWork.work ?_
      show HeadWork s (waiveNsb h w s)
      unfold waiveNsb
      refine .thenOwn (h := h) (fun e => by simp [of_decide_eq_true e]) ?_ reportMissed_work
      exact (takeNsb_work h hl).then (modUnit_work _ _)
    · split
      · exact .refl hl
      · refine HeadWork.work ?_
        show HeadWork s (waiveCoverage w s)
        unfold waiveCoverage
        refine .ite (fun _ => .then ?_ (walk_work _ _)) fun _ => modUnit_work _ _ hl
        exact { modUnit_work _ _ hl with }

theorem rebondChoice_on {h : Head} {last : Option Head} (e : s.rebondChoice last = some h) : (s.head h).state ≠ .off := by
  unfold State.rebondChoice at e
  dsimp only at e
  split at e
  · rename_i i
    cases e
    simp [i]
  · split at e
    · rename_i i
      cases e
      simp [i]
    · cases e

theorem rebondCheck_on {w : WireRef} {h : Head} (e : s.rebondCheck w = .ok h) : (s.head h).state ≠ .off := by
  unfold State.rebondCheck at e
  split at e
  · cases e
  · dsimp only at e
    repeat (split at e; · cases e)
    split at e
    · cases e
      exact rebondChoice_on ‹_›
    · cases e

theorem onRebondWire_work (w : WireRef) (hl : s.offLawful) : Work s (onRebondWire w s).1 := by
  unfold onRebondWire
  split
  · exact .refl hl
  · split
    · rename_i h _
      refine HeadWork.work ?_
      show HeadWork s (rebondNsb h s)
      unfold rebondNsb
      refine .ite (fun e => ?_) fun _ => takeNsb_work h hl
      have w := takeNsb_work h hl
      exact w.trans (leaveHold_work w.law (by simp [e.1]))
    · split
      · rename_i h e
        refine HeadWork.work ?_
        show HeadWork s (rebondCoverage h w s)
        unfold rebondCoverage
        dsimp only
        refine .thenOn (rebondCheck_on e) ?_ (startWire_work _)
        refine .then ?_ (modUnit_work _ _)
        exact { HeadWork.refl hl with }
      · exact .refl hl

theorem onPullAdd_work (q u w : Nat) (hl : s.offLawful) : Work s (onPullAdd q u w s).1 := by
  unfold onPullAdd
  split
  · exact .refl hl
  · dsimp only
    rename_i p r hf
    refine .served (fun _ => .refl hl) fun _ => .served (fun _ => .refl hl) fun _ => .served (fun _ => .refl hl) fun _ =>
      .served (fun _ => .refl hl) fun _ => ?_
    have hp : s.strip p = some r := by
      unfold State.findStrip at hf
      have := List.exists_of_findSome?_eq_some hf
      obtain ⟨p', _, h⟩ := this
      split at h
      · split at h
        · cases h
          assumption
        · cases h
      · cases h
    split
    · exact modStrip_Work _ _ hl fun _ _ _ h => modifyAt_candidates_lawful _ _ (fun _ => ⟨rfl, rfl⟩) h
    · rename_i hn
      refine .served (fun _ => .refl hl) fun hr => modStrip_Work _ _ hl fun _ x hx h => ?_
      cases hp.symm.trans hx
      exact append_candidates_lawful (Nat.not_le.mp hr) hn h

/-! ### The other requests that terminals make too (R160) -/

theorem onSlotOp_work (d : SlotOp) (n : Nat) (hl : s.offLawful) : Work s (onSlotOp d n s).1 := by
  unfold onSlotOp
  refine .served (fun _ => .refl hl) fun _ => .served (fun _ => .refl hl) fun _ => .served (fun _ => .refl hl) fun _ => ?_
  show Work s (loadCheck _)
  refine .then ?_ loadCheck_work
  refine .then ?_ (modFdc_work _)
  split
  · exact .refl hl
  · exact modFdc_work _ hl

theorem onProgramRelease_work (p : Nat) (hl : s.offLawful) : Work s (onProgramRelease p s).1 := by
  unfold onProgramRelease
  exact .served (fun _ => .refl hl) fun _ => .served (fun _ => releaseProgram_work p hl) fun _ => .refl hl

theorem onPause_work (hl : s.offLawful) : Work s (onPause s).1 := by
  unfold onPause
  refine .served (fun _ => ?_) fun _ => .refl hl
  refine .thenHead ?_ (addReason_work _ _)
  refine .thenHead ?_ (addReason_work _ _)
  exact { Work.refl hl with }

theorem onResume_work (hl : s.offLawful) : Work s (onResume s).1 := by
  unfold onResume
  refine .served (fun _ => ?_) fun _ => .refl hl
  refine .thenHead ?_ (eachHead_work fun h _ => removeReason_work _ h)
  exact { Work.refl hl with }

theorem onHeadPause_work (h : Head) (hl : s.offLawful) : Work s (onHeadPause h s).1 := by
  unfold onHeadPause
  exact .served (fun _ => .refl hl) fun _ => (addReason_work _ _ hl).work

theorem onHeadResume_work (h : Head) (hl : s.offLawful) : Work s (onHeadResume h s).1 := by
  unfold onHeadResume
  exact .served (fun _ => .refl hl) fun _ => (resumeHead_work h hl).work

theorem onClearFault_work (h : Head) (hl : s.offLawful) : Work s (onClearFault h s).1 := by
  unfold onClearFault
  exact .served (fun e => (clearFault_work hl (by simp [e])).work) fun _ => .refl hl

theorem onAlarmAck_work (c : Option AlarmCode) (sc : Option AlarmScope) (hl : s.offLawful) : Work s (onAlarmAck c sc s).1 := by
  unfold onAlarmAck
  split
  · refine .served (fun _ => ?_) fun _ => .refl hl
    unfold ackListed
    split
    · exact .refl hl
    · split
      · exact .refl hl
      · exact .served (fun _ => .refl hl) fun _ => .served (fun _ => (ackEntry_work _ _ hl ‹_›).work) fun _ => .refl hl
  · exact .refl hl

/-! ### Terminals (chapter 10) -/

theorem modTerm_Work (t : Term) (f : TermState → TermState) (hl : s.offLawful) : Work s (s.modTerm t f) :=
  { Work.refl hl with }

theorem applyFixed_work (a : KeyAction) (n : Nat) (hl : s.offLawful) : Work s (applyFixed a n s).1 := by
  unfold applyFixed
  split
  · exact onHeadPause_work _ hl
  · exact onHeadResume_work _ hl
  · exact onClearFault_work _ hl
  · exact onPause_work hl
  · exact onResume_work hl
  · exact onProgramRelease_work _ hl
  · exact onSlotOp_work _ _ hl
  · exact onSlotOp_work _ _ hl
  all_goals exact .refl hl

theorem withWire_work (w : Option WireRef) {f : WireRef → State → Served}
    (hf : ∀ w s, State.offLawful s → Work s (f w s).1) (hl : s.offLawful) : Work s (withWire w f s).1 := by
  unfold withWire
  split
  · exact hf _ _ hl
  · exact .refl hl

theorem applyTagged_work (a : KeyAction) (t : DisplayTag) (hl : s.offLawful) : Work s (applyTagged a t s).1 := by
  unfold applyTagged
  split
  · exact onHeadPause_work _ hl
  · exact onHeadResume_work _ hl
  · exact onClearFault_work _ hl
  · exact onAlarmAck_work _ _ hl
  · exact onSkipUnit_work _ _ hl
  · exact withWire_work _ (fun w _ => onNsbResume_work w) hl
  · exact withWire_work _ (fun w _ => onWaiveWire_work w) hl
  · exact withWire_work _ (fun w _ => onWaiveWire_work w) hl
  · exact withWire_work _ (fun w _ => onRebondWire_work w) hl
  · exact withWire_work _ (fun w _ => onRebondWire_work w) hl
  · exact onProgramRelease_work _ hl
  · exact onSlotOp_work _ _ hl
  · exact onSlotOp_work _ _ hl
  · exact onAcceptId_work _ hl
  all_goals exact .refl hl

theorem applyKey_work (t : Term) (a : KeyAction) (o : KeyOperand) (hl : s.offLawful) : Work s (applyKey t a o s) := by
  unfold applyKey
  refine .ite (fun _ => modTerm_Work _ _ hl) fun _ => ?_
  dsimp only
  refine .then ?_ (modTerm_Work _ _)
  split
  · exact applyFixed_work _ _ hl
  · exact applyTagged_work _ _ hl

theorem permittedKey_work (t : Term) (a : KeyAction) (e : KeyEntry) (i : Nat) (g : BitVec 16) (hl : s.offLawful) :
    Work s (permittedKey t a e i g s) := by
  unfold permittedKey
  split
  · exact .ite (fun _ => modTerm_Work _ _ hl) fun _ => modTerm_Work _ _ hl
  · exact modTerm_Work _ _ hl
  · split
    · exact applyKey_work _ _ _ hl
    · refine .ite (fun _ => modTerm_Work _ _ hl) fun _ => .ite (fun _ => modTerm_Work _ _ hl) fun _ => ?_
      split
      · exact modTerm_Work _ _ hl
      · exact .ite (fun _ => .ite (fun _ => applyKey_work _ _ _ hl) fun _ => modTerm_Work _ _ hl) fun _ => modTerm_Work _ _ hl

theorem onScreenKey_work (t : Term) (k i : Nat) (g : BitVec 16) (hl : s.offLawful) : Work s (onScreenKey t k i g s) := by
  unfold onScreenKey
  split
  · exact .refl hl
  · split
    · exact .refl hl
    · exact .ite (fun _ => modTerm_Work _ _ hl) fun _ => permittedKey_work _ _ _ _ _ hl

/-! ### Frames of field nodes (R165) -/

/-- A consumed frame, whatever block takes it. -/
theorem deliver_work (r : Role) (f : LinkFrame) (hl : s.offLawful) : Work s (deliver r f s) := by
  unfold deliver
  split
  · unfold deliverHead
    refine .ite (fun _ => ?_) fun _ => ?_
    · unfold onSamplePayload
      split
      · exact (onSample_work _ _ _ _ hl).work
      · exact .refl hl
    · split
      · refine .ite (fun _ => ?_) fun _ => .refl hl
        unfold onHeadEvt
        split
        · exact onTouchdown_work _ _ hl
        · exact (onBondEnd_work _ _ _ _ hl).work
        · exact (onWireDone_work _ _ hl).work
        · exact .refl hl
        · exact (onMotionFault_work _ hl).work
      · exact .refl hl
  · split
    · refine .ite (fun _ => ?_) fun _ => .refl hl
      unfold onFeedEvt
      split
      · exact onMagIn_work _ hl
      · exact onMagOut_work hl
      · exact onStripIn_work _ hl
      · exact onFeedFault_work hl
      · exact .refl hl
    · exact .refl hl
  · split
    · refine .ite (fun _ => ?_) fun _ => .refl hl
      unfold onOutFeedEvt
      split
      · exact onOutMagIn_work _ hl
      · exact onOutMagOut_work hl
      · exact .refl hl
      · exact onOutFeedFault_work hl
      · exact onEjected_work _ hl
    · exact .refl hl
  · split
    · refine .ite (fun _ => ?_) fun _ => .refl hl
      unfold onTrackEvt
      split
      · exact onMoveDone_work _ _ hl
      · exact onTrackFault_work _ _ hl
    · exact .refl hl
  · split
    · exact .ite (fun _ => onHeatSample_work _ hl) fun _ => .refl hl
    · exact .refl hl
  · split
    · exact .ite (fun _ => onPullResult_work _ _ _ _ hl) fun _ => .refl hl
    · exact .refl hl
  · split
    · exact .ite (fun _ => onScreenKey_work _ _ _ _ hl) fun _ => .refl hl
    · exact .refl hl
  all_goals exact .refl hl

end Sys2Proof.Machine
end

