-- ==== Sys2Proof/Laws/Dispatch.lean ====
section
/-! SUPPORT. Each command is dispatched to its meaning. -/

namespace Sys2Proof.Machine

@[simp] theorem exec_fullReset (cause : FullCause) (s : State) :
    exec (.fullReset cause) s = execFullReset cause s := rfl

@[simp] theorem exec_estopAssert (s : State) :
    exec .estopAssert s = execEstopAssert s := rfl

@[simp] theorem exec_estopRelease (s : State) :
    exec .estopRelease s = execEstopRelease s := rfl

@[simp] theorem exec_millisecondTick (s : State) :
    exec .millisecondTick s = execMillisecondTick s := rfl

@[simp] theorem exec_dwellComplete (s : State) :
    exec .dwellComplete s = execDwellComplete s := rfl

@[simp] theorem exec_fPortFrame (f : RxFrame) (s : State) :
    exec (.fPortFrame f) s = execFPortFrame f s := rfl

@[simp] theorem exec_uPortFrame (f : RxFrame) (s : State) :
    exec (.uPortFrame f) s = execUPortFrame f s := rfl

@[simp] theorem exec_fPortFrameSent (s : State) :
    exec .fPortFrameSent s = execFPortFrameSent s := rfl

@[simp] theorem exec_uPortFrameSent (s : State) :
    exec .uPortFrameSent s = execUPortFrameSent s := rfl

@[simp] theorem exec_tileIntervalExpiry (t : Term) (s : State) :
    exec (.tileIntervalExpiry t) s = execTileIntervalExpiry t s := rfl

@[simp] theorem exec_mreq (f : MreqFrame) (s : State) :
    exec (.mreq f) s = execMreq f s := rfl

@[simp] theorem exec_tableWriteForwarding (tag : Byte) (first count : Nat) (entries : List ForwardingWrite) (s : State) :
    exec (.tableWriteForwarding tag first count entries) s = execTableWriteForwarding tag first count entries s := rfl

@[simp] theorem exec_tableWriteKind (tag : Byte) (first count : Nat) (entries : List (Option KindAction)) (s : State) :
    exec (.tableWriteKind tag first count entries) s = execTableWriteKind tag first count entries s := rfl

@[simp] theorem exec_tableWriteCellParameter (tag : Byte) (first count : Nat) (entries : List ParamValue) (s : State) :
    exec (.tableWriteCellParameter tag first count entries) s = execTableWriteCellParameter tag first count entries s := rfl

@[simp] theorem exec_tableWriteLot (tag : Byte) (first count : Nat) (entries : List LotWrite) (s : State) :
    exec (.tableWriteLot tag first count entries) s = execTableWriteLot tag first count entries s := rfl

@[simp] theorem exec_tableWriteProgram (tag : Byte) (first count : Nat) (entries : List ProgramEntry) (s : State) :
    exec (.tableWriteProgram tag first count entries) s = execTableWriteProgram tag first count entries s := rfl

@[simp] theorem exec_tableWriteWire (tag : Byte) (first count : Nat) (entries : List WireEntry) (s : State) :
    exec (.tableWriteWire tag first count entries) s = execTableWriteWire tag first count entries s := rfl

@[simp] theorem exec_tableWriteRecipe (tag : Byte) (first count : Nat) (entries : List RecipeEntry) (s : State) :
    exec (.tableWriteRecipe tag first count entries) s = execTableWriteRecipe tag first count entries s := rfl

@[simp] theorem exec_tableWritePlan (tag : Byte) (first count : Nat) (entries : List PlanEntry) (s : State) :
    exec (.tableWritePlan tag first count entries) s = execTableWritePlan tag first count entries s := rfl

@[simp] theorem exec_tableWriteLimits (tag : Byte) (first count : Nat) (entries : List LimitsEntry) (s : State) :
    exec (.tableWriteLimits tag first count entries) s = execTableWriteLimits tag first count entries s := rfl

@[simp] theorem exec_tableWriteTerminal (tag : Byte) (first count : Nat) (entries : List (Option Level)) (s : State) :
    exec (.tableWriteTerminal tag first count entries) s = execTableWriteTerminal tag first count entries s := rfl

@[simp] theorem exec_tableWritePage (tag : Byte) (first count : Nat) (entries : List PageEntry) (s : State) :
    exec (.tableWritePage tag first count entries) s = execTableWritePage tag first count entries s := rfl

@[simp] theorem exec_tableWriteTile (tag : Byte) (first count : Nat) (entries : List TileEntry) (s : State) :
    exec (.tableWriteTile tag first count entries) s = execTableWriteTile tag first count entries s := rfl

@[simp] theorem exec_tableWriteKeyMap (tag : Byte) (first count : Nat) (entries : List KeyEntry) (s : State) :
    exec (.tableWriteKeyMap tag first count entries) s = execTableWriteKeyMap tag first count entries s := rfl

@[simp] theorem exec_tableWriteUnit (tag : Byte) (first count : Nat) (s : State) :
    exec (.tableWriteUnit tag first count) s = execTableWriteUnit tag first count s := rfl

@[simp] theorem exec_tableWriteCandidate (tag : Byte) (first count : Nat) (s : State) :
    exec (.tableWriteCandidate tag first count) s = execTableWriteCandidate tag first count s := rfl

@[simp] theorem exec_tableReadForwarding (tag : Byte) (first count : Nat) (s : State) :
    exec (.tableReadForwarding tag first count) s = execTableReadForwarding tag first count s := rfl

@[simp] theorem exec_tableReadKind (tag : Byte) (first count : Nat) (s : State) :
    exec (.tableReadKind tag first count) s = execTableReadKind tag first count s := rfl

@[simp] theorem exec_tableReadCellParameter (tag : Byte) (first count : Nat) (s : State) :
    exec (.tableReadCellParameter tag first count) s = execTableReadCellParameter tag first count s := rfl

@[simp] theorem exec_tableReadLot (tag : Byte) (first count : Nat) (s : State) :
    exec (.tableReadLot tag first count) s = execTableReadLot tag first count s := rfl

@[simp] theorem exec_tableReadProgram (tag : Byte) (first count : Nat) (s : State) :
    exec (.tableReadProgram tag first count) s = execTableReadProgram tag first count s := rfl

@[simp] theorem exec_tableReadWire (tag : Byte) (first count : Nat) (s : State) :
    exec (.tableReadWire tag first count) s = execTableReadWire tag first count s := rfl

@[simp] theorem exec_tableReadRecipe (tag : Byte) (first count : Nat) (s : State) :
    exec (.tableReadRecipe tag first count) s = execTableReadRecipe tag first count s := rfl

@[simp] theorem exec_tableReadUnit (tag : Byte) (first count : Nat) (s : State) :
    exec (.tableReadUnit tag first count) s = execTableReadUnit tag first count s := rfl

@[simp] theorem exec_tableReadCandidate (tag : Byte) (position : Position) (first count : Nat) (s : State) :
    exec (.tableReadCandidate tag position first count) s = execTableReadCandidate tag position first count s := rfl

@[simp] theorem exec_tableReadPlan (tag : Byte) (first count : Nat) (s : State) :
    exec (.tableReadPlan tag first count) s = execTableReadPlan tag first count s := rfl

@[simp] theorem exec_tableReadLimits (tag : Byte) (first count : Nat) (s : State) :
    exec (.tableReadLimits tag first count) s = execTableReadLimits tag first count s := rfl

@[simp] theorem exec_tableReadTerminal (tag : Byte) (first count : Nat) (s : State) :
    exec (.tableReadTerminal tag first count) s = execTableReadTerminal tag first count s := rfl

@[simp] theorem exec_tableReadPage (tag : Byte) (first count : Nat) (s : State) :
    exec (.tableReadPage tag first count) s = execTableReadPage tag first count s := rfl

@[simp] theorem exec_tableReadTile (tag : Byte) (first count : Nat) (s : State) :
    exec (.tableReadTile tag first count) s = execTableReadTile tag first count s := rfl

@[simp] theorem exec_tableReadKeyMap (tag : Byte) (first count : Nat) (s : State) :
    exec (.tableReadKeyMap tag first count) s = execTableReadKeyMap tag first count s := rfl

@[simp] theorem exec_cellCmdArm (tag : Byte) (s : State) :
    exec (.cellCmdArm tag) s = execCellCmdArm tag s := rfl

@[simp] theorem exec_cellCmdStart (tag : Byte) (s : State) :
    exec (.cellCmdStart tag) s = execCellCmdStart tag s := rfl

@[simp] theorem exec_cellCmdDrain (tag : Byte) (s : State) :
    exec (.cellCmdDrain tag) s = execCellCmdDrain tag s := rfl

@[simp] theorem exec_cellCmdPause (tag : Byte) (s : State) :
    exec (.cellCmdPause tag) s = execCellCmdPause tag s := rfl

@[simp] theorem exec_cellCmdResume (tag : Byte) (s : State) :
    exec (.cellCmdResume tag) s = execCellCmdResume tag s := rfl

@[simp] theorem exec_cellCmdStop (tag : Byte) (s : State) :
    exec (.cellCmdStop tag) s = execCellCmdStop tag s := rfl

@[simp] theorem exec_headOpEnable (tag : Byte) (h : Option Head) (s : State) :
    exec (.headOpEnable tag h) s = execHeadOpEnable tag h s := rfl

@[simp] theorem exec_headOpDisable (tag : Byte) (h : Option Head) (s : State) :
    exec (.headOpDisable tag h) s = execHeadOpDisable tag h s := rfl

@[simp] theorem exec_headOpPause (tag : Byte) (h : Option Head) (s : State) :
    exec (.headOpPause tag h) s = execHeadOpPause tag h s := rfl

@[simp] theorem exec_headOpResume (tag : Byte) (h : Option Head) (s : State) :
    exec (.headOpResume tag h) s = execHeadOpResume tag h s := rfl

@[simp] theorem exec_headOpClearFault (tag : Byte) (h : Option Head) (s : State) :
    exec (.headOpClearFault tag h) s = execHeadOpClearFault tag h s := rfl

@[simp] theorem exec_stripOpAcceptId (tag : Byte) (seq : Nat) (s : State) :
    exec (.stripOpAcceptId tag seq) s = execStripOpAcceptId tag seq s := rfl

@[simp] theorem exec_stripOpScrap (tag : Byte) (seq : Nat) (s : State) :
    exec (.stripOpScrap tag seq) s = execStripOpScrap tag seq s := rfl

@[simp] theorem exec_stripOpSkipUnit (tag : Byte) (seq unit : Nat) (s : State) :
    exec (.stripOpSkipUnit tag seq unit) s = execStripOpSkipUnit tag seq unit s := rfl

@[simp] theorem exec_stripOpNsbResume (tag : Byte) (seq unit wire : Nat) (s : State) :
    exec (.stripOpNsbResume tag seq unit wire) s = execStripOpNsbResume tag seq unit wire s := rfl

@[simp] theorem exec_stripOpRebondWire (tag : Byte) (seq unit wire : Nat) (s : State) :
    exec (.stripOpRebondWire tag seq unit wire) s = execStripOpRebondWire tag seq unit wire s := rfl

@[simp] theorem exec_stripOpWaiveWire (tag : Byte) (seq unit wire : Nat) (s : State) :
    exec (.stripOpWaiveWire tag seq unit wire) s = execStripOpWaiveWire tag seq unit wire s := rfl

@[simp] theorem exec_slotOpAcceptSensed (tag : Byte) (slot : Nat) (s : State) :
    exec (.slotOpAcceptSensed tag slot) s = execSlotOpAcceptSensed tag slot s := rfl

@[simp] theorem exec_slotOpSkipSlot (tag : Byte) (slot : Nat) (s : State) :
    exec (.slotOpSkipSlot tag slot) s = execSlotOpSkipSlot tag slot s := rfl

@[simp] theorem exec_programRelease (tag : Byte) (p : Nat) (s : State) :
    exec (.programRelease tag p) s = execProgramRelease tag p s := rfl

@[simp] theorem exec_pullAdd (tag : Byte) (seq unit wire : Nat) (s : State) :
    exec (.pullAdd tag seq unit wire) s = execPullAdd tag seq unit wire s := rfl

@[simp] theorem exec_pullRead (tag : Byte) (count : Nat) (s : State) :
    exec (.pullRead tag count) s = execPullRead tag count s := rfl

@[simp] theorem exec_pullRelease (tag : Byte) (n : Nat) (s : State) :
    exec (.pullRelease tag n) s = execPullRelease tag n s := rfl

@[simp] theorem exec_statsRead (tag : Byte) (p : Nat) (s : State) :
    exec (.statsRead tag p) s = execStatsRead tag p s := rfl

@[simp] theorem exec_statsReset (tag : Byte) (sel : StatsSel) (s : State) :
    exec (.statsReset tag sel) s = execStatsReset tag sel s := rfl

@[simp] theorem exec_alarmRead (tag : Byte) (first count : Nat) (s : State) :
    exec (.alarmRead tag first count) s = execAlarmRead tag first count s := rfl

@[simp] theorem exec_alarmAck (tag : Byte) (code : Option AlarmCode) (scope : Option AlarmScope) (s : State) :
    exec (.alarmAck tag code scope) s = execAlarmAck tag code scope s := rfl

@[simp] theorem exec_statusRead (tag : Byte) (section_ : Nat) (s : State) :
    exec (.statusRead tag section_) s = execStatusRead tag section_ s := rfl

@[simp] theorem exec_countersClear (tag : Byte) (s : State) :
    exec (.countersClear tag) s = execCountersClear tag s := rfl

@[simp] theorem exec_restart (tag : Byte) (s : State) :
    exec (.restart tag) s = execRestart tag s := rfl

@[simp] theorem exec_magIn (src : Byte) (sensed : SlotMap) (s : State) :
    exec (.magIn src sensed) s = execMagIn src sensed s := rfl

@[simp] theorem exec_magOut (src : Byte) (s : State) :
    exec (.magOut src) s = execMagOut src s := rfl

@[simp] theorem exec_stripIn (src : Byte) (code : Option StripCode) (s : State) :
    exec (.stripIn src code) s = execStripIn src code s := rfl

@[simp] theorem exec_feedFault (src : Byte) (s : State) :
    exec (.feedFault src) s = execFeedFault src s := rfl

@[simp] theorem exec_pushTimeout (s : State) :
    exec .pushTimeout s = execPushTimeout s := rfl

@[simp] theorem exec_outputMagIn (src : Byte) (sensed : SlotMap) (s : State) :
    exec (.outputMagIn src sensed) s = execOutputMagIn src sensed s := rfl

@[simp] theorem exec_outputMagOut (src : Byte) (s : State) :
    exec (.outputMagOut src) s = execOutputMagOut src s := rfl

@[simp] theorem exec_pushGrant (s : State) :
    exec .pushGrant s = execPushGrant s := rfl

@[simp] theorem exec_movePbGrant (s : State) :
    exec .movePbGrant s = execMovePbGrant s := rfl

@[simp] theorem exec_moveBpGrant (s : State) :
    exec .moveBpGrant s = execMoveBpGrant s := rfl

@[simp] theorem exec_ejectGrant (s : State) :
    exec .ejectGrant s = execEjectGrant s := rfl

@[simp] theorem exec_moveDone (src : Byte) (origin : Origin) (n : Byte) (s : State) :
    exec (.moveDone src origin n) s = execMoveDone src origin n s := rfl

@[simp] theorem exec_trackFault (src : Byte) (origin : Origin) (n : Byte) (s : State) :
    exec (.trackFault src origin n) s = execTrackFault src origin n s := rfl

@[simp] theorem exec_moveTimeout (s : State) :
    exec .moveTimeout s = execMoveTimeout s := rfl

@[simp] theorem exec_ejected (src : Byte) (slot : Nat) (s : State) :
    exec (.ejected src slot) s = execEjected src slot s := rfl

@[simp] theorem exec_outputFeedFault (src : Byte) (s : State) :
    exec (.outputFeedFault src) s = execOutputFeedFault src s := rfl

@[simp] theorem exec_heatSample (src : Byte) (temperature : Nat) (s : State) :
    exec (.heatSample src temperature) s = execHeatSample src temperature s := rfl

@[simp] theorem exec_heatSignalTimerExpiry (s : State) :
    exec .heatSignalTimerExpiry s = execHeatSignalTimerExpiry s := rfl

@[simp] theorem exec_touchdown (src : Byte) (n : Byte) (s : State) :
    exec (.touchdown src n) s = execTouchdown src n s := rfl

@[simp] theorem exec_usSample (src : Byte) (feedback : BitVec 16) (seq : Byte) (generatorFault : Bool) (s : State) :
    exec (.usSample src feedback seq generatorFault) s = execUsSample src feedback seq generatorFault s := rfl

@[simp] theorem exec_startupTimeout (h : Head) (s : State) :
    exec (.startupTimeout h) s = execStartupTimeout h s := rfl

@[simp] theorem exec_lossWindowExpiry (h : Head) (s : State) :
    exec (.lossWindowExpiry h) s = execLossWindowExpiry h s := rfl

@[simp] theorem exec_bondEnd (src : Byte) (n : Byte) (continuity : Continuity) (deformation : Nat) (s : State) :
    exec (.bondEnd src n continuity deformation) s = execBondEnd src n continuity deformation s := rfl

@[simp] theorem exec_wireDone (src : Byte) (n : Byte) (s : State) :
    exec (.wireDone src n) s = execWireDone src n s := rfl

@[simp] theorem exec_aborted (src : Byte) (n : Byte) (s : State) :
    exec (.aborted src n) s = execAborted src n s := rfl

@[simp] theorem exec_motionFault (src : Byte) (s : State) :
    exec (.motionFault src) s = execMotionFault src s := rfl

@[simp] theorem exec_headDeadlineExpiry (h : Head) (s : State) :
    exec (.headDeadlineExpiry h) s = execHeadDeadlineExpiry h s := rfl

@[simp] theorem exec_pullReq (s : State) :
    exec .pullReq s = execPullReq s := rfl

@[simp] theorem exec_pullResult (src : Byte) (tag : Byte) (force mode : Nat) (status : StationStatus) (s : State) :
    exec (.pullResult src tag force mode status) s = execPullResult src tag force mode status s := rfl

@[simp] theorem exec_pullRequestTimeout (s : State) :
    exec .pullRequestTimeout s = execPullRequestTimeout s := rfl

@[simp] theorem exec_screenKey (src : Byte) (key tile : Nat) (tag : BitVec 16) (s : State) :
    exec (.screenKey src key tile tag) s = execScreenKey src key tile tag s := rfl

@[simp] theorem exec_resetLineAsserted (s : State) :
    exec .resetLineAsserted s = execResetLineAsserted s := rfl

end Sys2Proof.Machine
end

