-- ==== Sys2Proof/WellFormed.lean ====
section
/-! DEFINITION. Which commands can come to the part at all: the widths of what a frame, a request or a node's message can carry
(11.9). The meanings answer ill-formed commands too; a table write with a field outside its range is well-formed, since the
part itself refuses it. -/

namespace Sys2Proof

/-- A node address (R164). -/
def addressFits (a : Byte) : Bool := decide (a.toNat ≤ 63)

/-- A number that two bytes carry (11.9). -/
def twoBytes (n : Nat) : Bool := decide (n ≤ 65535)

/-- A number that one byte carries (11.9). -/
def oneByte (n : Nat) : Bool := decide (n ≤ 255)

/-- A first index and a count of a table operation: the largest table has 1536 entries (R41, R170). -/
def indexFits (first count : Nat) : Bool := twoBytes first && twoBytes count

/-- A strip code as it stands on a strip: at most 16 characters of one byte each (R1). -/
def codeWellFormed (c : StripCode) : Bool := decide (c.length ≤ 16)

/-- A strip, unit and wire as a request names them. -/
def wireNameFits (seq unit wire : Nat) : Bool := twoBytes seq && oneByte unit && twoBytes wire

/-- What a HEAD_EVT can say (R69). -/
def HeadEvt.wellFormed : HeadEvt → Bool
  | .bondEnd _ _ deformation => twoBytes deformation
  | .touchdown _ | .wireDone _ | .aborted _ | .motionFault => true

/-- What a FEED_EVT can say (R4, R12, R30). -/
def FeedEvt.wellFormed : FeedEvt → Bool
  | .stripIn (some c) => codeWellFormed c
  | .ejected slot => oneByte slot
  | .stripIn none | .magIn _ | .magOut | .feedFault => true

/-- What STRIP_OP can name. -/
def StripOp.wellFormed : StripOp → Bool
  | .acceptId seq | .scrap seq => twoBytes seq
  | .skipUnit seq unit => twoBytes seq && oneByte unit
  | .nsbResume seq unit wire | .rebondWire seq unit wire | .waiveWire seq unit wire => wireNameFits seq unit wire

/-- The first index and the count of a TABLE_WRITE. -/
def TableWrite.wellFormed : TableWrite → Bool
  | .forwarding first count _ | .kind first count _ | .cellParameter first count _ | .lot first count _
  | .program first count _ | .wire first count _ | .recipe first count _ | .plan first count _ | .limits first count _
  | .terminal first count _ | .page first count _ | .tile first count _ | .keyMap first count _ | .unit first count
  | .candidate first count => indexFits first count

/-- What a request can carry. A read of the candidate table, and of no other, names a position (R116). -/
def Request.wellFormed : Request → Bool
  | .tableWrite w => w.wellFormed
  | .tableRead t p first count => indexFits first count && decide (p.isSome = decide (t = .candidate))
  | .cellCmd _ | .headOp _ _ | .alarmAck _ _ | .countersClear | .restart => true
  | .stripOp o => o.wellFormed
  | .slotOp _ slot => oneByte slot
  | .programRelease p => oneByte p
  | .pullAdd seq unit wire => wireNameFits seq unit wire
  | .pullRead count => oneByte count
  | .pullRelease n => twoBytes n
  | .statsRead p => oneByte p
  | .statsReset (.program p) => oneByte p
  | .statsReset .all => true
  | .alarmRead first count => oneByte first && oneByte count
  | .statusRead n => oneByte n
  | .unknownOperation n => decide (17 < n.toNat) || decide (n = 0)
  | .unknownTable op => decide (op = 1) || decide (op = 2)
  | .malformed _ => true

/-- What a payload says (11.9). -/
def Says.wellFormed : Says → Bool
  | .nothing => true
  | .headEvt e => e.wellFormed
  | .feedEvt e => e.wellFormed
  | .trackEvt _ => true
  | .heatSample t => twoBytes t
  | .pullResult _ force mode _ => twoBytes force && oneByte mode
  | .screenKey key tile _ => oneByte key && oneByte tile
  | .request r => r.wellFormed

/-- The request that a complete gathering of one frame spells begins with its operation number (11.9). -/
def operationFits (content : List Byte) (r : Request) : Bool := decide (content.head? = some (Machine.opNumber r))

/-- A frame at a port: a payload that its length byte could count. -/
def RxFrame.wellFormed (f : RxFrame) : Bool := decide (f.payload.length ≤ 255) && f.reads.wellFormed

/-- An MREQ frame (R169): a part number of three bits, at most 58 content bytes, a request only where the frame can complete
one. -/
def MreqFrame.wellFormed (f : MreqFrame) : Bool :=
  decide (f.part < Config.partsAtMost) && decide (f.content.length ≤ Config.partBytes) &&
  match f.reads with
  | none => true
  | some r => f.last && r.wellFormed && (decide (0 < f.part) || operationFits f.content r)

/-- The command can come to the part. -/
def Instr.wellFormed : Instr → Bool
  | .fullReset _ | .estopAssert | .estopRelease | .millisecondTick | .dwellComplete | .fPortFrameSent | .uPortFrameSent
  | .tileIntervalExpiry _ | .resetLineAsserted => true
  | .fPortFrame f | .uPortFrame f => f.wellFormed
  | .mreq f => f.wellFormed
  | .tableWriteForwarding _ first count _ | .tableWriteKind _ first count _ | .tableWriteCellParameter _ first count _
  | .tableWriteLot _ first count _ | .tableWriteProgram _ first count _ | .tableWriteWire _ first count _
  | .tableWriteRecipe _ first count _ | .tableWritePlan _ first count _ | .tableWriteLimits _ first count _
  | .tableWriteTerminal _ first count _ | .tableWritePage _ first count _ | .tableWriteTile _ first count _
  | .tableWriteKeyMap _ first count _ | .tableWriteUnit _ first count | .tableWriteCandidate _ first count
  | .tableReadForwarding _ first count | .tableReadKind _ first count | .tableReadCellParameter _ first count
  | .tableReadLot _ first count | .tableReadProgram _ first count | .tableReadWire _ first count
  | .tableReadRecipe _ first count | .tableReadUnit _ first count | .tableReadCandidate _ _ first count
  | .tableReadPlan _ first count | .tableReadLimits _ first count | .tableReadTerminal _ first count
  | .tableReadPage _ first count | .tableReadTile _ first count | .tableReadKeyMap _ first count => indexFits first count
  | .cellCmdArm _ | .cellCmdStart _ | .cellCmdDrain _ | .cellCmdPause _ | .cellCmdResume _ | .cellCmdStop _ => true
  | .headOpEnable _ _ | .headOpDisable _ _ | .headOpPause _ _ | .headOpResume _ _ | .headOpClearFault _ _ => true
  | .stripOpAcceptId _ seq | .stripOpScrap _ seq => twoBytes seq
  | .stripOpSkipUnit _ seq unit => twoBytes seq && oneByte unit
  | .stripOpNsbResume _ seq unit wire | .stripOpRebondWire _ seq unit wire | .stripOpWaiveWire _ seq unit wire =>
    wireNameFits seq unit wire
  | .slotOpAcceptSensed _ slot | .slotOpSkipSlot _ slot => oneByte slot
  | .programRelease _ p => oneByte p
  | .pullAdd _ seq unit wire => wireNameFits seq unit wire
  | .pullRead _ count => oneByte count
  | .pullRelease _ n => twoBytes n
  | .statsRead _ p => oneByte p
  | .statsReset _ (.program p) => oneByte p
  | .statsReset _ .all => true
  | .alarmRead _ first count => oneByte first && oneByte count
  | .alarmAck _ _ _ => true
  | .statusRead _ n => oneByte n
  | .countersClear _ | .restart _ => true
  | .magIn src _ | .magOut src | .feedFault src | .outputMagIn src _ | .outputMagOut src | .outputFeedFault src
  | .motionFault src => addressFits src
  | .stripIn src code => addressFits src && code.all codeWellFormed
  | .pushTimeout | .pushGrant | .movePbGrant | .moveBpGrant | .ejectGrant | .moveTimeout | .heatSignalTimerExpiry
  | .pullReq | .pullRequestTimeout => true
  | .startupTimeout _ | .lossWindowExpiry _ | .headDeadlineExpiry _ => true
  | .moveDone src _ _ | .trackFault src _ _ => addressFits src
  | .ejected src slot => addressFits src && oneByte slot
  | .heatSample src t => addressFits src && twoBytes t
  | .touchdown src _ | .wireDone src _ | .aborted src _ => addressFits src
  | .usSample src _ _ _ => addressFits src
  | .bondEnd src _ _ deformation => addressFits src && twoBytes deformation
  | .pullResult src _ force mode _ => addressFits src && twoBytes force && oneByte mode
  | .screenKey src key tile _ => addressFits src && oneByte key && oneByte tile

end Sys2Proof
end

