-- ==== Sys2Proof/Tests/Slice0.lean ====
section
/-! SUPPORT. Tests: the manual's worked examples, the well-formedness checks, and for each statement of the certificates concrete
states and operands that meet its hypotheses. -/

namespace Sys2Proof.Tests

open Sys2Proof Sys2Proof.Machine

/-! ### Worked examples of the manual -/

/-- 3.11: unit 13, wire 37 of program 2. -/
def coordinates : State :=
  { usc := { programs := [{}, {}, { valid := true, firstWire := 1, wireCount := 220, rows := 2, columns := 8, pitchX := 9500
                                    pitchY := 14000, originX := -60000, originY := 12000, guard := 1 }]
             wires := List.replicate 38 {} ++ [{ valid := true, x1 := 1250, y1 := -3400, x2 := -4100, y2 := 5200 }] } }

theorem test_coordinates_of_3_11 :
    coordinates.site1 2 13 37 = ⟨-1750, 22600⟩ ∧ coordinates.site2 2 13 37 = ⟨-7100, 31200⟩ := by decide

/-- R121: the hook point of the same wire; the halving rounds towards minus infinity. -/
theorem test_hook_point : coordinates.hook 2 13 37 = ⟨-4425, 26900⟩ ∧ (-3 + 0 : Int) / 2 = -2 := by decide

/-- 5.10: the ball recipe. -/
def recipe510 : RecipeEntry :=
  { valid := true, segCount := 1, seg1 := ⟨700, 400⟩, baseDrive := 200, kp := 384, kpShift := 8, ki := 96, kiShift := 10
    epStart := 60, ep := 200, en := 200, imax := 100000, dlow := 40, dhigh := 900, sstep := 40, tstart := 20, ftrip := 3800
    ntrip := 3, windupHold := true, emax := 4294967295, bondForce := 1 }

/-- The channel after samples with these feedbacks and sequence bytes. -/
def after (r : RecipeEntry) (l : List (Nat × Byte)) : Channel :=
  l.foldl (fun c x => (c.sample r x.1 x.2 false).1) (({ state := .idle } : Channel).start 4 r)

theorem test_startup_of_5_10 :
    let c := after recipe510 [(150, 1), (330, 2), (520, 3)]
    (c.state, c.energy, c.integ, c.lastDrive, c.lim, c.startupCount) = (.startup, 90, 5760, some 160, .high, 3) := by decide +kernel

theorem test_regulate_of_5_10 :
    let c := after recipe510 [(150, 1), (330, 2), (520, 3), (710, 4), (690, 5)]
    (c.state, c.k, c.prevSeq, c.integ, c.dPrev, c.lim) = (.regulate, 5, some 5, 5760, 220, .none) ∧
    (c.tripCount, c.energy, c.peak, c.startupCount, c.slowStart, c.sampleGap) = (0, 327, 220, 3, false, false) := by decide +kernel

/-- 5.11: the stitch recipe of two segments. -/
def recipe511 : RecipeEntry :=
  { valid := true, segCount := 2, seg1 := ⟨900, 4⟩, seg2 := ⟨500, 4⟩, baseDrive := 300, kp := 256, kpShift := 8, ki := 1000
    kiShift := 8, epStart := 100, ep := 150, en := 120, imax := 20000, dlow := 100, dhigh := 700, sstep := 50, tstart := 3
    ftrip := 4000, ntrip := 2, emin := 800, emax := 1050, bondForce := 1 }

theorem test_segment_change_of_5_11 :
    let c := after recipe511 [(400, 20), (600, 21), (700, 22), (700, 22), (820, 23), (950, 25)]
    (c.state, c.k, c.energy, c.integ, c.lastDrive, c.sampleGap, c.slowStart) = (.regulate, 5, 886, -20000, some 101, true, true) := by
  decide +kernel

theorem test_summary_of_5_11 :
    let c := after recipe511
      [(400, 20), (600, 21), (700, 22), (700, 22), (820, 23), (950, 25), (640, 26), (510, 27), (495, 28)]
    (c.state, c.integ, c.lastDrive) = (.idle, 0, some 0) ∧
    c.lastSummary = some { recipe := 4, profileLength := 8, samples := 8, energy := 1100, peak := 458, startupCount := 3
                           slowStart := true, sampleGap := true, lowEnergy := false, highEnergy := true, outcome := .complete
                           tripSource := none } := by decide +kernel

/-- 6.9: the seven votes. -/
theorem test_votes_of_6_9 :
    let vote (noContinuity : Bool) (c : Continuity) (low : Bool) (d : Nat) : Nat × Verdict × Bool :=
      let v := voteOn (continuityVerdict noContinuity c) (if low then .nonStick else .stick)
        (deformationVerdict { defMin := 60 } d)
      (v.count, v.result, v.dissent)
    [ vote false .stick false 75, vote false .nonStick false 75, vote false .nonStick true 75, vote false .stick true 52
    , vote false .notMeasured true 75, vote true .stick true 40, vote true .nonStick false 1200 ] =
    [ (3, .stick, false), (3, .stick, true), (3, .nonStick, false), (3, .nonStick, false), (2, .stick, true), (2, .nonStick, false)
    , (2, .stick, false) ] := by decide +kernel

/-- 8.5: program 3 has capability minimum count 4 and limit 530. -/
def capable : State :=
  { plm := { limits := List.replicate 3 {} ++ [{ valid := true, m2 := ⟨500, false⟩, m3 := ⟨500, false⟩, m4 := ⟨500, false⟩
                                                 failLimit := 1, capCount := 4, capLimit := 530 }] } }

theorem test_statistics_of_8_5 :
    let s := countForce 3 575 (countForce 3 640 (countForce 3 598 (countForce 3 612 capable)))
    s.plm.stats.getD 3 {} =
      { n := 4, sum := 2425, sumSq := 1472373, min := some 575, max := some 640, saturated := false, failing := true } ∧
    s.alc.list.map (fun e => (e.code, e.detail)) = [(.pullCapability, 525)] := by decide +kernel

theorem test_capability_passes_again_in_8_5 :
    let s := countForce 3 605 (countForce 3 575 (countForce 3 640 (countForce 3 598 (countForce 3 612 capable))))
    (s.plm.stats.getD 3 {}).failing = false ∧ s.alc.list.map (·.state) = [.cleared] := by decide +kernel

/-- 2.9: target 2000, band 30, hysteresis 10, settle count 3. -/
theorem test_heat_settling_of_2_9 :
    let p : Params := { heatTarget := 2000, heatBand := 30, heatHysteresis := 10, settleCount := 3 }
    let heat (l : List Nat) : Heat := l.foldl (fun h t => weighHeat p t h) {}
    [[1950], [1950, 1975, 1990], [1975, 1990, 2035], [2010, 2020, 2028], [2010, 2020, 2028, 2036], [2010, 2020, 2028, 2041]].map
      (fun l => ((heat l).state, (heat l).counter)) =
    [(.notReady, 0), (.settling, 2), (.notReady, 0), (.ready, 3), (.ready, 3), (.notReady, 0)] := by decide

/-- R154: the texts of its table. -/
theorem test_texts_of_R154 :
    (formatValue (.decimal 1) 6 (.number 2035), formatValue (.decimal 0) 6 (.number (-4425)), formatValue (.decimal 2) 5 (.number 5),
      formatValue (.decimal 2) 4 (.number (-5)), formatValue (.decimal 0) 4 (.number 65000), formatValue .name 5 .notValid) =
    (" 203.5".toList, " -4425".toList, " 0.05".toList, "****".toList, "****".toList, "-----".toList) := by decide +kernel

theorem test_names_of_R154 :
    (fitLeft 8 (magName .exhausted), fitLeft 6 (heatName .settling)) = ("EXHAUST ".toList, "******".toList) ∧
    formatValue .name 12 (({ alc := { list := [{ code := .headFault, scope := .head .a, state := .active, first := 0, last := 0
                                                 repeats := 0, shown := false, detail := 0 }] } } : State).alarmValue 0).1 =
      "HEADFLT ACT ".toList := by decide

/-- The check value of the CRC of R162 (polynomial 0x1021, initial value 0xFFFF, no final inversion) over "123456789". -/
theorem test_crc_check_value : crc16 [0x31, 0x32, 0x33, 0x34, 0x35, 0x36, 0x37, 0x38, 0x39] = 0x29B1#16 := by decide +kernel

/-- 1.7: the lot table and the magazine of the example. -/
def magazine : State :=
  let slot (o : Occupancy) (d : Bool) (p : Option Nat) (c : Option StripCode) : LotEntry :=
    { expected := o, dontCare := d, program := p, skip := 0, code := c }
  { ccs := { cell := .run }
    fdc := { lot := List.replicate 4 (slot .occupied false (some 2) none) ++
                    [ slot .occupied false (some 2) (some [0x4B, 0x37, 0x2D, 0x30, 0x30, 0x34, 0x34])
                    , slot .occupied false (some 2) none, slot .empty true none none ] ++ List.replicate 33 {} } }

/-- Slots 0, 1, 2, 4, 5, 6 and 9 are occupied. -/
def loaded : State := onMagIn 0x277#40 magazine

theorem test_load_check_of_1_7_stops_at_slot_3 :
    (loaded.fdc.mag, loaded.fdc.pendingSlot, loaded.fdc.resume) = (.scanning, some 3, 4) ∧
    (loaded.fdc.marks.zipIdx.filter (·.1.masked)).map (·.2) = [3, 6] ∧
    loaded.alc.list.map (fun e => (e.code, e.detail, e.state)) = [(.slotMismatch, 3, .cleared)] := by decide +kernel

theorem test_load_check_of_1_7_ends_ready :
    let t := (onSlotOp .acceptSensed 3 loaded).1
    let u := (onSlotOp .skipSlot 9 t).1
    (t.fdc.pendingSlot, t.fdc.resume, t.alc.list.map fun e => (e.repeats, e.detail)) = (some 9, 10, [(1, 9)]) ∧
    (u.fdc.mag, u.fdc.pointer, u.nextSlot) = (.ready, some 0, some 0) := by decide +kernel

/-! ### Well-formedness -/

theorem test_address_over_63_is_refused : addressFits 63 = true ∧ addressFits 64 = false := by decide
theorem test_two_bytes_carry_65535 : twoBytes 65535 = true ∧ twoBytes 65536 = false := by decide
theorem test_one_byte_carries_255 : oneByte 255 = true ∧ oneByte 256 = false := by decide
theorem test_index_of_three_bytes_is_refused : indexFits 1535 1 = true ∧ indexFits 65536 1 = false ∧ indexFits 0 65536 = false := by
  decide
theorem test_code_of_17_characters_is_refused :
    codeWellFormed (List.replicate 16 0x41) = true ∧ codeWellFormed (List.replicate 17 0x41) = false := by decide
theorem test_wire_name_is_checked :
    wireNameFits 65535 255 65535 = true ∧ wireNameFits 65536 0 0 = false ∧ wireNameFits 1 256 0 = false ∧
    wireNameFits 1 0 65536 = false := by decide
theorem test_head_event_is_checked : (HeadEvt.bondEnd 1 .stick 65536).wellFormed = false := by decide
theorem test_feed_event_is_checked :
    (FeedEvt.stripIn (some (List.replicate 17 0x41))).wellFormed = false ∧ (FeedEvt.ejected 256).wellFormed = false := by decide
theorem test_strip_operation_is_checked :
    (StripOp.acceptId 65536).wellFormed = false ∧ (StripOp.skipUnit 1 256).wellFormed = false ∧
    (StripOp.waiveWire 1 0 65536).wellFormed = false := by decide
theorem test_table_write_is_checked : (TableWrite.kind 65536 1 []).wellFormed = false := by decide
theorem test_request_is_checked :
    (Request.tableRead .candidate none 0 1).wellFormed = false ∧ (Request.tableRead .lot (some .bond) 0 1).wellFormed = false ∧
    (Request.statusRead 256).wellFormed = false ∧ (Request.pullRelease 65536).wellFormed = false ∧
    (Request.unknownOperation 17).wellFormed = false ∧ (Request.unknownOperation 18).wellFormed = true ∧
    (Request.unknownTable 3).wellFormed = false := by decide
theorem test_what_a_payload_says_is_checked :
    (Says.heatSample 65536).wellFormed = false ∧ (Says.pullResult 0 0 256 .ok).wellFormed = false ∧
    (Says.screenKey 256 0 0).wellFormed = false := by decide
theorem test_operation_number_must_lead_the_content :
    operationFits [17] .restart = true ∧ operationFits [16] .restart = false ∧ operationFits [] .restart = false := by decide
theorem test_frame_is_checked :
    ({ dst := 1, src := 2, kind := 1, length := 0, payload := List.replicate 256 0, crc := 0, reads := .nothing } : RxFrame).wellFormed =
      false := by decide +kernel
theorem test_mreq_is_checked :
    let f : MreqFrame := { tag := 1, part := 0, last := true, content := [17], reads := some .restart }
    f.wellFormed = true ∧ { f with part := 8 }.wellFormed = false ∧ { f with content := List.replicate 59 17 }.wellFormed = false ∧
    { f with last := false }.wellFormed = false ∧ { f with content := [16] }.wellFormed = false := by decide
theorem test_command_is_checked :
    (Instr.restart 255).wellFormed = true ∧ (Instr.magOut 64).wellFormed = false ∧ (Instr.ejected 5 256).wellFormed = false ∧
    (Instr.tableWriteLot 0 65536 1 []).wellFormed = false ∧ (Instr.statsRead 0 256).wellFormed = false := by decide

/-! ### States that meet the hypotheses of the statements

Each theorem `test_meets_<Name>` shows, clause by clause, states and operands that meet the hypotheses of the statement of that
name. -/

/-- Head A's node at address 2, head B's at 3, then FEED_IN, FEED_OUT, TRACK, HEATER, PULL, TERM1 and an OTHER at 10. -/
def nodes : List ForwardingEntry :=
  List.replicate 2 ({ valid := false } : ForwardingEntry) ++ [Role.head .a, .head .b, .feedIn, .feedOut, .track, .heater, .pull, .term .t1, .other].map
    (fun r => ({ role := r, valid := true } : ForwardingEntry)) ++ List.replicate 53 { valid := false }

/-- Two wires, the second of other recipes. -/
def wires2 : List WireEntry :=
  [{ valid := true, x2 := 9 }, { valid := true, y2 := 9, ballRecipe := 1, stitchRecipe := 1 }]

/-- Program 0 has two units, one to a column, of two wires. -/
def program0 : ProgramEntry :=
  { valid := true, firstWire := 0, wireCount := 2, rows := 1, columns := 2, pitchX := 100, pitchY := 100 }

/-- A cell in RUN with every node in place; kind 0x40 is dropped. -/
def line : State :=
  { ccs := { cell := .run }
    lif := { forwarding := nodes, kinds := .drop :: List.replicate 191 .pass }
    usc := { programs := [program0, {}, {}, {}, {}, {}, {}, {}], wires := wires2 }
    recipes := [recipe510, recipe511] }

/-- Strip 160 of program 0. -/
def strip160 (state : StripState) : StripRecord := { seq := 160, code := none, slot := 0, program := 0, state := state, skip := 0 }

/-- The strip at BOND, with the records of its two units. -/
def atBond (r : StripRecord) (a b : UnitRecord) : State :=
  { line with trc := { bond := some r }, usc := { line.usc with units := some [a, b] }, vcu := { scan := some .notStarted } }

/-- Program 0 HELD. -/
def holding (s : State) : State := { s with plm := { s.plm with progState := s.plm.progState.set 0 .held } }

/-- A request can be taken as it comes while none waits and no reply does. -/
theorem takes_idle {s : State} {tag : Byte} {r : Request} {a : Answer} (h : s.ccs.inReset = false) (hq : s.lif.requests = [])
    (hr : s.lif.replies = []) (hp : answerParts r a ≤ 8) : s.takes tag r a s := by
  refine ⟨h, by simp [State.takeRequest, hq], ?_⟩
  simp [State.replyRoom, hr, Config.replyRoom, hp]

theorem test_any_plain_answer_can_be_taken (tag : Byte) (r : Request) (c : ResultCode) : line.takes tag r { result := c } line :=
  takes_idle rfl rfl rfl (show framesFor (3 + 0) ≤ 8 by decide)

/-- The oldest of two requests is taken. -/
theorem test_oldest_request_can_be_taken (r : Request) :
    ({ line with lif := { line.lif with requests := [(7, r), (8, .restart)] } } : State).takes 7 r { result := .ok }
      { line with lif := { line.lif with requests := [(8, .restart)] } } :=
  ⟨rfl, by simp [State.takeRequest], show decide (0 + framesFor (3 + 0) ≤ 8) = true by decide⟩

theorem test_meets_StepRunsTheFrontCommand : State.reset.pending = [] := rfl

theorem test_meets_ResetLineHoldsThePart :
    ({ line with ccs := { line.ccs with inReset := true } } : State).ccs.inReset = true ∧
    ((∀ k, Instr.restart 0 ≠ .fullReset k) ∧ Instr.restart 0 ≠ .resetLineAsserted ∧ Instr.restart 0 ≠ .estopAssert ∧
      Instr.restart 0 ≠ .estopRelease) := by
  refine ⟨rfl, ?_, ?_, ?_, ?_⟩ <;> simp

/-- Eight replies wait. -/
def answered : State :=
  let reply : Mrep := { tag := 0, part := 0, last := true, op := 0, answer := { result := .ok } }
  { line with lif := { line.lif with replies := List.replicate 8 (0, reply) } }

theorem test_meets_RestartKeepsTheSettings :
    line.ccs.inReset = false ∧ line.takeRequest 0 .restart = some line ∧ line.lif.replies.length < 8 ∧
    answered.ccs.inReset = false ∧ 8 ≤ answered.lif.replies.length ∧
    ({ line with lif := { line.lif with requests := [(7, .restart)] } } : State).takeRequest 0 .restart = none :=
  ⟨rfl, rfl, by decide, rfl, by decide, rfl⟩

theorem test_meets_CellCommandsFollowTheTable (c : CellCmd) : line.takes 0 (.cellCmd c) { result := .ok } line :=
  test_any_plain_answer_can_be_taken 0 _ .ok

theorem test_meets_HeadOperationsFollowTheirTables (o : HeadOp) (h : Option Head) :
    line.takes 0 (.headOp o h) { result := .ok } line := test_any_plain_answer_can_be_taken 0 _ .ok

theorem test_meets_EnteringStoppedStopsEverything :
    line.offLawful ∧ State.reset.offLawful ∧ line.alarmsLawful ∧
    (let e : AlarmEntry :=
      { code := .feedJam, scope := .feeder, state := .active, first := 0, last := 0, repeats := 0, shown := false, detail := 0 }
     ({ line with alc := { list := [e] } } : State).offLawful ∧ ({ line with alc := { list := [e] } } : State).alarmsLawful) := by
  refine ⟨?_, ?_, ⟨by decide, List.Pairwise.nil, by decide⟩, ?_, by decide, List.pairwise_singleton _ _, by decide⟩
  all_goals intro h; cases h <;> decide +kernel

theorem test_meets_EstopLineStopsTheCell : line.ccs.inReset = false := rfl

/-! #### Claims -/

/-- Both units PENDING, head A IDLE. -/
def asking : State :=
  { atBond (strip160 .bonding) { state := .pending } { state := .pending } with heads := ⟨{ state := .idle }, { state := .parked }⟩ }

/-- Unit 0 is done, unit 1 is claimed by head A on its last wire. -/
def claiming (x : UnitRecord) : State :=
  { atBond (strip160 .bonding) { state := .done, done := [0, 1] } x with heads := ⟨{ state := .forming }, { state := .idle }⟩ }

/-- What holds of both holds of whatever stands at an index of a list of two. -/
theorem of_two {α : Type} {a b : α} {p : Nat → α → Prop} (ha : p 0 a) (hb : p 1 b) : ∀ v y, [a, b][v]? = some y → p v y := by
  intro v y h
  match v, h with
  | 0, h => cases h; exact ha
  | 1, h => cases h; exact hb

theorem test_meets_HeadsClaimTheirCandidates :
    (asking.head .a).state = .idle ∧ (asking.head .b).state = .parked ∧ (∀ h, asking.claimOf h = none) ∧ asking.ccs.cell = .run ∧
    asking.trc.bond = some (strip160 .bonding) ∧ asking.held 0 = false ∧ (holding asking).held 0 = true ∧
    (∀ x ∈ (claiming { state := .skipped }).units, x.state ≠ .pending) ∧ (claiming { state := .skipped }).claimOf .b = none ∧
    asking.unit? 0 = some { state := .pending } ∧ asking.unit? 1 = some { state := .pending } ∧
    (∀ v y, asking.unit? v = some y → y.state = .pending → 0 ≤ v) ∧ (∀ v y, asking.unit? v = some y → y.state = .pending → v ≤ 1) := by
  refine ⟨rfl, rfl, ?_, rfl, rfl, by decide +kernel, by decide +kernel, by decide, by decide, rfl, rfl, fun _ _ _ _ => Nat.zero_le _, ?_⟩
  · intro h; cases h <;> decide
  · exact of_two (fun _ => by decide) fun _ => by decide

theorem test_meets_StartingAWireSendsWireGo :
    let s := claiming { state := .claimed, claimant := some .a }
    s.trc.bond = some (strip160 .bonding) ∧ s.unit? 1 = some { state := .claimed, claimant := some .a } ∧ s.held 0 = false ∧
    (holding s).held 0 = true := by
  refine ⟨rfl, rfl, ?_, ?_⟩ <;> decide +kernel

/-- Head A rebonds wire 1 of unit 1. -/
def rebonding : State :=
  let s := claiming { state := .claimed, claimant := some .a, rebond := some 1, resume := 2, done := [0] }
  { s with vcu := { scan := some .rebond, pos := some (1, 1), pendingWire := some (1, 1), rebondHead := some .a }
           trc := { s.trc with bond := some (strip160 .checking) } }

/-- The state that gives up its claim, as the statement about going OFF writes it for head A. -/
def reported (s : State) : State :=
  let c := s.head .a
  let stopped := sendDrive .a 0 false (s.setChan .a { s.chan .a with state := .disabled, lastDrive := some 0, window := false, integ := 0 })
  let working : Prop := c.state = .moving ∨ c.state = .bonding ∨ c.state = .forming
  let aborted := if working then sendOwn (.head .a) (.headCmd .abort c.cmdNo) stopped else stopped
  let t :=
    if working ∨ c.state = .fault ∧ c.faulted ≠ none ∨ c.nsb ≠ none then
      wireEndReport .a false false (aborted.modHead .a fun c => { c with missed := min 65535 (c.missed + 1) })
    else aborted
  { t with vcu := { t.vcu with votes := t.vcu.votes.set .a {} } }

/-- Head A in HOLD. -/
def paused (s : State) : State := { s with heads := ⟨{ state := .hold, hold := { operator := true } }, s.heads.b⟩ }

theorem test_meets_GoingOffEndsTheHeadsWork :
    (line.head .a).state = .off ∧ (asking.head .a).state ≠ .off ∧ asking.offLawful ∧ asking.alarmsLawful ∧
    (asking.head .a).state.working = false ∧ (asking.head .a).faulted = none ∧ (asking.head .a).nsb = none ∧
    asking.claimOf .a = none ∧ (∀ code, asking.unlists code (.head .a)) ∧
    (reported asking).claimOf .a = none ∧
    (let x : UnitRecord := { state := .claimed, claimant := some .a }
     let heads (c : HeadCtx) : State := { claiming x with heads := ⟨c, { state := .idle }⟩ }
     let w : WireRef := ⟨160, 1, 0⟩
     ∀ c ∈ [ ({ state := .forming, wire := some w } : HeadCtx), { state := .fault, faulted := some w }
           , { state := .hold, hold := { nsb := true }, nsb := some { wire := w, phase := .ball } } ],
       (reported (heads c)).claimOf .a = some 1 ∧ (reported (heads c)).unit? 1 = some { x with resume := 1 }) ∧
    (let x : UnitRecord := { state := .claimed, claimant := some .a, skipPending := true }
     (reported (paused (claiming x))).claimOf .a = some 1 ∧ (reported (paused (claiming x))).unit? 1 = some x ∧
       (reported (claiming x)).claimOf .a = none) ∧
    ((reported (paused rebonding)).claimOf .a = some 1 ∧
      (reported (paused rebonding)).unit? 1 = some { state := .claimed, claimant := some .a, rebond := some 1, resume := 2, done := [0] }) := by
  refine ⟨rfl, by decide, ?_, ⟨by decide, List.Pairwise.nil, by decide⟩, rfl, rfl, rfl, by decide, (fun _ _ he => by cases he), by decide +kernel,
    by decide +kernel, by decide +kernel, by decide +kernel⟩
  intro h; cases h <;> decide

/-- A planned candidate, not recorded, of unit `n`. -/
def planned (n : Nat) : Candidate := { unit := n, wire := 0, reason := .planned, status := .waiting }

/-- A directed candidate of unit `n`. -/
def directed (n : Nat) : Candidate := { unit := n, wire := 0, reason := .dissent, status := .bonded }

theorem test_meets_WireEndReportsStepTheUnit_for_candidates :
    let pair (c : Candidate) : Prop := c.unit = 0 ∧ c.wire = 0
    let open_ (c : Candidate) : Prop := c.reason = .planned ∧ c.record = none
    let full := (List.range 47).map fun n => directed (n + 1)
    ([planned 1, planned 0] = [planned 1] ++ planned 0 :: [] ∧ pair (planned 0) ∧ ∀ d ∈ [planned 1], ¬pair d) ∧
    ((∀ d ∈ full, ¬pair d) ∧ full.length < 48) ∧
    ((∀ d ∈ full ++ [planned 48], ¬pair d) ∧ 48 ≤ (full ++ [planned 48]).length ∧ open_ (planned 48)) ∧
    ((∀ d ∈ full ++ [directed 48], ¬pair d) ∧ 48 ≤ (full ++ [directed 48]).length ∧ ∀ d ∈ full ++ [directed 48], ¬open_ d) := by
  decide +kernel

theorem test_meets_WireEndReportsStepTheUnit :
    let x (resume : Nat) (skip : Bool) : UnitRecord := { state := .claimed, claimant := some .a, resume := resume, skipPending := skip }
    let s (resume : Nat) (skip : Bool) := claiming (x resume skip)
    (∀ resume < 2, ∀ skip, (s resume skip).claimOf .a = some 1 ∧ (s resume skip).unit? 1 = some (x resume skip) ∧
      (x resume skip).rebond = none) ∧
    (s 0 false).trc.bond = some (strip160 .bonding) ∧ ((s 0 false).program 0).wireCount = 2 := by
  decide +kernel

theorem test_meets_RebondClaimsResumeTheScan :
    rebonding.claimOf .a = some 1 ∧
    rebonding.unit? 1 = some { state := .claimed, claimant := some .a, rebond := some 1, resume := 2, done := [0] } ∧
    rebonding.trc.bond = some (strip160 .checking) ∧ rebonding.vcu.scan = some .rebond ∧ (rebonding.head .b).state ≠ .parked ∧
    (rebonding.head .a).hold = {} ∧ ((paused rebonding).head .a).hold ≠ {} ∧
    (let s : State := { rebonding with heads := ⟨{ state := .forming }, { state := .parked }⟩
                                       vcu := { rebonding.vcu with scan := some .ended } }
     s.claimOf .a = some 1 ∧ (s.head .b).state = .parked ∧ s.vcu.scan ≠ some .rebond) := by
  decide +kernel

theorem test_meets_ClaimsEndWithAnEvaluation :
    (asking.head .b).state = .parked ∧ (asking.head .a).hold = {} ∧ (rebonding.head .b).state ≠ .parked ∧
    ((asking.modHead .a fun c => { c with hold := { operator := true } }).head .a).hold ≠ {} ∧
    (let s := claiming { state := .partial_ }
     s.trc.bond = some (strip160 .bonding) ∧ s.usc.units = some [{ state := .done, done := [0, 1] }, { state := .partial_ }] ∧
     s.plm.progState.getD 0 .running ≠ .held ∧ (holding s).plm.progState.getD 0 .running = .held ∧
     ∀ x ∈ s.units, x.state ≠ .pending ∧ x.state ≠ .claimed) ∧
    (asking.usc.units = some [{ state := .pending }, { state := .pending }] ∧ ∃ x ∈ asking.units, x.state = .pending) := by
  decide +kernel

/-- Strip 160 in CHECKING, with wire 1 of unit 1 missed. -/
def checking (policy : MissedPolicy) : State :=
  let s := atBond (strip160 .checking) { state := .done, done := [0, 1] } { state := .partial_, resume := 2, done := [0] }
  { s with ccs := { s.ccs with params := { policy := policy } }, heads := ⟨{ state := .idle }, { state := .idle }⟩ }

/-- Wire `k` of unit `v` fails a walk over two wires to the unit, as the statements about the walk say. -/
def failing (s : State) (u w v k : Nat) : Prop :=
  (u < v ∨ v = u ∧ w ≤ k) ∧ k < 2 ∧ ∃ x, s.unit? v = some x ∧ x.state ≠ .skipped ∧ k ∉ x.done ∧ k ∉ x.waived

theorem test_meets_TheScanStopsAtTheFirstMiss :
    (checking .ask).trc.bond = some (strip160 .checking) ∧ (checking .ask).ccs.params.policy = .ask ∧
    failing (checking .ask) 0 0 1 1 ∧ (∀ v k, failing (checking .ask) 0 0 v k → 0 < v ∧ v = 1 ∧ k = 1) ∧
    ∀ v k, ¬failing (checking .ask) 1 2 v k := by
  have only : ∀ u w v k, failing (checking .ask) u w v k → v = 1 ∧ k = 1 := by
    rintro u w v k ⟨-, hk, x, hx, -, hd, -⟩
    refine of_two (p := fun v x => k ∉ x.done → v = 1 ∧ k = 1) ?_ ?_ v x hx hd
    · intro n; exact absurd (show k ∈ [0, 1] by simp; omega) n
    · intro n; exact ⟨rfl, by simp at n; omega⟩
  refine ⟨rfl, rfl, ⟨.inl (by decide), by decide, _, rfl, by decide, by decide, by decide⟩, fun v k h => ?_, fun v k h => ?_⟩
  · obtain ⟨rfl, rfl⟩ := only _ _ _ _ h; decide
  · obtain ⟨rfl, rfl⟩ := only _ _ _ _ h
    have := h.1; omega

theorem test_meets_RejectUnitWalksToTheEnd :
    (checking .rejectUnit).ccs.params.policy = .rejectUnit ∧ (checking .rejectUnit).trc.bond = some (strip160 .checking) ∧
    (checking .rejectUnit).unit? 0 = some { state := .done, done := [0, 1] } ∧
    (checking .rejectUnit).unit? 1 = some { state := .partial_, resume := 2, done := [0] } ∧
    (∃ k < 2, k ∉ [0]) ∧ ∀ k < 2, k ∈ [0, 1] := by
  decide +kernel

/-! #### Alarms -/

/-- An alarm entry of raised time 0. -/
def entry (code : AlarmCode) (scope : AlarmScope) (state : AlarmState) (shown : Bool := false) : AlarmEntry :=
  { code := code, scope := scope, state := state, first := 0, last := 0, repeats := 0, shown := shown, detail := 0 }

/-- These alarms are listed. -/
def listing (l : List AlarmEntry) : State := { line with alc := { list := l } }

/-- Alarms of so many programs from 8 on stand for other listed alarms: no law keeps them from filling a list. -/
def others (n : Nat) (state : AlarmState) (code : AlarmCode := .pullFail) : List AlarmEntry :=
  (List.range n).map fun i => entry code (.program (i + 8)) state

theorem test_meets_NoticesQueueOrAreCounted :
    let s (n : Nat) : State := { line with lif := { line.lif with notices := List.replicate n (0, ⟨.heat true, false⟩) } }
    (s 15).lif.notices.length < 16 ∧ 16 ≤ (s 16).lif.notices.length := by
  decide +kernel

/-- The search for a listed alarm finds none. -/
theorem unlists_of {s : State} {code : AlarmCode} {scope : AlarmScope}
    (h : (s.alc.list.all fun e => !(decide (e.code = code) && decide (e.scope = scope))) = true) : s.unlists code scope := by
  intro e he k
  have := List.all_eq_true.mp h e he
  simp [k.1, k.2] at this

/-- The first of the list is the alarm. -/
theorem lists_first {s : State} {e : AlarmEntry} (h : s.alc.list[0]? = some e) : s.lists e.code e.scope 0 e :=
  ⟨h, rfl, rfl, fun _ _ hj => absurd hj (Nat.not_lt_zero _)⟩

theorem test_meets_RaisesListTheirAlarm :
    (listing [entry .estop .cell .activeAcked]).lists .estop .cell 0 (entry .estop .cell .activeAcked) ∧
    (listing (others 31 .active)).unlists .estop .cell ∧ (others 31 .active).length < 32 ∧
    (∀ l ∈ [others 31 .active ++ [entry .feedJam .feeder .cleared], others 31 .active ++ [entry .inputEmpty .feeder .active],
        others 31 .active ++ [entry .feedJam .feeder .activeAcked], others 32 .active],
      (listing l).unlists .estop .cell ∧ 32 ≤ l.length) ∧
    (let l := others 31 .active ++ [entry .feedJam .feeder .cleared]
     (l[31]?.map (·.state)) = some .cleared ∧ ∀ f ∈ l.take 31, f.state ≠ .cleared) ∧
    (let l := others 31 .active ++ [entry .inputEmpty .feeder .active]
     (∀ f ∈ l, f.state ≠ .cleared) ∧ (l[31]?.map fun f => isStop f.code) = some false ∧ ∀ f ∈ l.take 31, isStop f.code = true) ∧
    (let l := others 31 .active ++ [entry .feedJam .feeder .activeAcked]
     (∀ f ∈ l, f.state ≠ .cleared ∧ isStop f.code = true) ∧ (l[31]?.map (·.state)) = some .activeAcked ∧
      ∀ f ∈ l.take 31, f.state ≠ .activeAcked) ∧
    ∀ e ∈ others 32 .active, e.state = .active ∧ isStop e.code = true := by
  refine ⟨lists_first rfl, unlists_of (by decide +kernel), by decide +kernel, ?_, by decide +kernel, by decide +kernel,
    by decide +kernel, by decide +kernel⟩
  intro l hl
  simp only [List.mem_cons, List.not_mem_nil, or_false] at hl
  rcases hl with rfl | rfl | rfl | rfl <;> exact ⟨unlists_of (by decide +kernel), by decide +kernel⟩

theorem test_meets_ConditionClearsFollowTheTable :
    line.unlists .estop .cell ∧ (∀ st, (listing [entry .estop .cell st]).lists .estop .cell 0 (entry .estop .cell st)) ∧
    isEvent .missedWire = true ∧ scopeFits .track .missedWire = true ∧
    (let s := listing [entry .missedWire .track .cleared true]
     s.lists .missedWire .track 0 (entry .missedWire .track .cleared true) ∧
      s.ccs.inReset = false ∧ s.lif.requests = [] ∧ s.lif.replies = []) ∧
    (listing (others 31 .active)).unlists .missedWire .track ∧ (others 31 .active).length < 32 ∧
    (∀ l ∈ [others 31 .active ++ [entry .inputEmpty .feeder .active], others 32 .active],
      (listing l).unlists .missedWire .track ∧ 32 ≤ l.length) ∧
    (∃ d ∈ others 31 .active ++ [entry .inputEmpty .feeder .active], d.state ≠ .active ∨ isStop d.code = false) ∧
    ∀ d ∈ others 32 .active, d.state = .active ∧ isStop d.code = true := by
  refine ⟨unlists_of rfl, fun _ => lists_first rfl, rfl, rfl, ⟨lists_first rfl, rfl, rfl, rfl⟩, unlists_of (by decide +kernel),
    by decide +kernel, ?_, ⟨_, List.mem_append_right _ (List.mem_singleton_self _), .inr rfl⟩, by decide +kernel⟩
  intro l hl
  simp only [List.mem_cons, List.not_mem_nil, or_false] at hl
  rcases hl with rfl | rfl <;> exact ⟨unlists_of (by decide +kernel), by decide +kernel⟩

theorem test_meets_AcknowledgmentsFollowTheTable :
    (∀ s ∈ [line, listing [entry .nsop (.head .a) .active true]], s.ccs.inReset = false ∧ s.lif.requests = [] ∧ s.lif.replies = []) ∧
    scopeFits .cell .nsop = false ∧ scopeFits (.head .a) .nsop = true ∧ line.unlists .nsop (.head .a) ∧
    ∀ st b, (listing [entry .nsop (.head .a) st b]).lists .nsop (.head .a) 0 (entry .nsop (.head .a) st b) := by
  refine ⟨?_, rfl, rfl, unlists_of rfl, fun _ _ => lists_first rfl⟩
  intro s hs
  simp only [List.mem_cons, List.not_mem_nil, or_false] at hs
  rcases hs with rfl | rfl <;> exact ⟨rfl, rfl, rfl⟩

/-- The free sizes of log entry 4 leave room for their replies. -/
theorem own_data_fits (r : Request) (op : Byte) (n k : Nat) {d : ReplyData}
    (h : dataBytes (opNumber r) (sizeArg r) d = (Config.replyDataBytes op n k).val) : answerParts r { result := .ok, data := d } ≤ 8 := by
  have := (Config.replyDataBytes op n k).isLt
  simp only [answerParts, h, framesFor, Config.partBytes]
  omega

theorem test_meets_AlarmReadsShowTheirEntries :
    (∀ count, line.takes 0 (.alarmRead 31 count) { result := .ok, data := .alarms 0 0 [] } line) ∧ (32 ≤ 32 ∧ 31 < 32) ∧
    (1 ≤ 1 ∧ 4 ≤ 4 ∧ 4 < 5) :=
  ⟨fun count => takes_idle rfl rfl rfl (own_data_fits (.alarmRead 31 count) 13 31 0 rfl), by decide, by decide⟩

/-! #### Time and frames -/

theorem test_meets_TicksCountTimeAndDwell :
    let s : State := { line with ccs := { line.ccs with timebase := 4294967295 } }
    s.ccs.inReset = false ∧ s.ccs.timebase = 4294967295 := ⟨rfl, rfl⟩

/-- A frame with its CRC. -/
def frame (dst src kind : Byte) (payload : List Byte) (reads : Says := .nothing) : RxFrame :=
  { dst := dst, src := src, kind := kind, length := BitVec.ofNat 8 payload.length, payload := payload
    crc := crc16 (frameBody dst src kind payload), reads := reads }

/-- The frame passes both receive checks. -/
def sound (f : RxFrame) : Prop :=
  ¬(60 < f.length.toNat ∨ f.payload.length < f.length.toNat) ∧
  crc16 ([f.dst, f.src, f.kind, f.length] ++ f.payload.take f.length.toNat) = f.crc

theorem test_meets_FieldFramesAreCheckedThenRouted :
    (60 < (frame 1 9 0x2A (List.replicate 61 0)).length.toNat ∧
      ¬60 < (frame 1 9 0x2A (List.replicate 60 0)).length.toNat) ∧
    (let f := { frame 1 9 0x2A [7] with payload := [] }; f.payload.length < f.length.toNat) ∧
    (let f := { frame 1 9 0x2A [] with crc := 0 }; ¬f.payload.length < f.length.toNat ∧ ¬sound f) ∧
    (sound (frame 1 9 0x40 []) ∧ line.kindAction 0x40 = .drop) ∧
    (let f := frame 1 9 0x2A [] (.screenKey 1 2 0)
     sound f ∧ line.kindAction 0x2A = .pass ∧ isOwnKind 0x2A = true ∧ line.roleAt 9 = .term .t1 ∧
       eventOf (.term .t1) f = some (.screenKey 9 1 2 0) ∧ eventOf (.term .t1) (frame 1 9 0x2A []) = none) ∧
    (sound (frame 0 10 0x41 []) ∧ line.roleAt 10 = .other ∧ line.kindAction 0x41 = .pass ∧ isOwnKind 0x41 = false) := by
  unfold sound
  decide +kernel

theorem test_meets_HostFramesAreCheckedThenGated :
    (sound (frame 3 0 0x40 []) ∧ line.kindAction 0x40 = .drop) ∧
    (sound (frame 1 0 0x41 []) ∧ line.kindAction 0x41 = .pass ∧ (0x41 : Byte) ≠ 0x01) ∧
    (sound (frame 1 0 0x01 [7]) ∧ [(7 : Byte)].length < 2) ∧
    (sound (frame 1 0 0x01 [7, 0x80]) ∧ (frame 1 0 0x01 [7, 0x80]).payload.take 2 = 7 :: 0x80 :: []) ∧
    (sound (frame 4 0 0x18 []) ∧ line.kindAction 0x18 = .pass ∧ line.roleAt 4 = .feedIn ∧ line.owned .feedIn = true) ∧
    (sound (frame 63 0 0x1A []) ∧ line.addrOf .track ≠ none ∧ line.owned .track = true) ∧
    (sound (frame 2 0 0x10 []) ∧ line.roleAt 2 = .head .a ∧ line.owned (.head .a) = false) := by
  unfold sound
  decide +kernel

/-- A forwarded frame. -/
def passed : LinkFrame := { dst := 10, src := 0, kind := 0x41, payload := [], reads := .nothing }

theorem test_meets_TransmittersTakeTheirNextFrame :
    let drive : DriveFrame := { head := .a, dst := 2, drive := 0, endMark := false }
    let own : OwnFrame := { role := .feedIn, dst := 4, body := .feedPush 0 }
    let reply : Mrep := { tag := 0, part := 0, last := true, op := 0, answer := { result := .ok } }
    let s : State := { line with lif := { line.lif with
      drives := [drive], own := [own], ufQueue := [passed], fuQueue := [(1, passed)], replies := [(0, reply)] } }
    s.ccs.inReset = false ∧ s.lif.drives = [drive] ∧ s.lif.own = [own] ∧ s.lif.ufQueue = [passed] ∧ s.lif.fuQueue = [(1, passed)] ∧
    s.lif.replies = [(0, reply)] ∧ line.lif.drives = [] ∧ line.lif.own = [] ∧ line.lif.replies = [] ∧ line.lif.fuQueue = [] ∧
    State.reset.lif.replies = [] ∧
    ({ line with lif := { line.lif with notices := [(0, ⟨.started .power, false⟩)] } } : State).lif.notices = [(0, ⟨.started .power, false⟩)] ∧
    line.lif.notices = [] ∧ s.lif.uTx = none ∧ (∀ r ∈ s.lif.replies, r.2.op ≠ 17) := by
  refine ⟨rfl, rfl, rfl, rfl, rfl, rfl, rfl, rfl, rfl, rfl, rfl, rfl, rfl, rfl, by decide⟩

/-- The OK reply of a RESTART is being sent, and the drive 0 and ABORT frames of head A wait. -/
def restarting : State :=
  { line with lif := { line.lif with
    uTx := some (.reply { tag := 0, part := 0, last := true, op := 17, answer := { result := .ok } })
    drives := [{ head := .a, dst := 2, drive := 0, endMark := false }]
    own := [{ role := .head .a, dst := 2, body := .headCmd .abort 7 }] } }

/-- A SCREEN_PAGE is being sent to TERM1, and no other frame of its waits. -/
theorem test_meets_TransmittersTakeTheirNextFrame_for_restarts_and_terminals :
    (restarting.ccs.inReset = false ∧ restarting.lif.fTx = none ∧ restarting.lif.replies = [] ∧
      ∃ m : Mrep, restarting.lif.uTx = some (.reply m) ∧ m.op = 17 ∧ m.answer.result = .ok) ∧
    ({ restarting with lif := { restarting.lif with drives := [] } } : State).lif.own ≠ [] ∧
    (let o : OwnFrame := { role := .term .t1, dst := 9, body := .screenPage 0 }
     ({ line with lif := { line.lif with fTx := some (.own o) } } : State).lif.fTx = some (.own o) ∧ o.role = .term .t1) :=
  ⟨⟨rfl, rfl, rfl, _, rfl, rfl, rfl⟩, List.cons_ne_nil _ _, rfl, rfl⟩

/-- TERM1 on a page of two tiles, the cell state and the listed alarm, with its dirty set. -/
def terminal (t : TermState) : State :=
  { line with tmc := { line.tmc with
    terms := ⟨t, {}, {}, {}⟩
    pages := [{ valid := true, firstTile := 0, tileCount := 2 }]
    tiles := [ { valid := true, width := 8, value := 1, format := .name, interval := 5 }
             , { valid := true, row := 1, width := 12, value := 30, format := .name } ] } }

theorem test_meets_TerminalFramesAreMadeOneAtATime :
    let last : List (Nat × Sent) := [(0, { text := "STOPPED ".toList, tag := .none, time := 0 })]
    let t : TermState := { dirty := [(0, false), (1, true)], lastSent := last }
    let waits (s : State) : Bool := decide ((s.ccs.timebase - 0).toNat < (s.tile 0).interval * 100)
    line.ccs.inReset = false ∧ line.addrOf (.term .t2) = none ∧ ((terminal { frameWaiting := true }).term .t1).frameWaiting = true ∧
    (terminal t).addrOf (.term .t1) = some 9 ∧ t.frameWaiting = false ∧ ({ pagePending := true } : TermState).pagePending = true ∧
    ({ messagePending := true } : TermState).pagePending = false ∧
    waits (terminal t) = true ∧ (t.lastSent.find? fun y => y.1 == 1) = none ∧
    waits { terminal t with ccs := { line.ccs with timebase := 500 } } = false ∧
    ((terminal t).tileNow 0).1 ≠ "STOPPED ".toList := by
  decide +kernel

theorem test_meets_TerminalFramesAreMadeOneAtATime_for_marks :
    (line.addrOf (.term .t2) = none ∧ (terminal {}).addrOf (.term .t1) ≠ none) ∧
    ((listing [entry .estop .cell .activeAcked]).lists .estop .cell 0 (entry .estop .cell .activeAcked) ∧
      ((listing (others 31 .active)).unlists .estop .cell ∧ (others 31 .active).length < 32) ∧
      ((listing (others 32 .cleared)).unlists .estop .cell ∧ 32 ≤ (others 32 .cleared).length ∧
        ∃ e ∈ others 32 .cleared, e.state ≠ .active)) ∧
    ((-5 : Int).natAbs < 10 ^ 20 ∧
      (let x : Stats := { n := 2, sum := 1210, sumSq := 732100 }
       let q := (x.n * x.sumSq - x.sum * x.sum) / (x.n * (x.n - 1))
       2 ≤ x.n ∧ 7 * 7 ≤ q ∧ q < (7 + 1) * (7 + 1)) ∧ ({} : Stats).n < 2) := by
  exact ⟨by decide +kernel, ⟨lists_first rfl, ⟨unlists_of (by decide +kernel), by decide⟩, unlists_of (by decide +kernel), by decide,
    _, List.mem_of_getElem? (i := 0) rfl, by decide⟩, by decide, by decide, by decide⟩

theorem test_meets_RequestsAreGatheredThenQueued :
    let f (tag : Byte) (part : Nat) (last : Bool) : MreqFrame := { tag := tag, part := part, last := last, content := [], reads := none }
    let s : State := { line with lif := { line.lif with gathering := some { tag := 5, part := 5, content := [] } } }
    s.ccs.inReset = false ∧ (f 5 0 true).part = 0 ∧ (f 5 6 false).part ≠ 0 ∧ line.lif.gathering = none ∧
    s.lif.gathering = some { tag := 5, part := 5, content := [] } ∧
    ((f 5 6 false).tag = 5 ∧ (f 5 6 false).part = 5 + 1 ∧ (f 5 6 false).part < 7) ∧
    ((f 5 7 true).part = 6 + 1 ∧ (f 5 7 true).last = true) ∧ ((f 5 7 false).part = 7 ∧ (f 5 7 false).last = false) ∧
    (f 6 6 false).tag ≠ 5 ∧ s.lif.requests = [] ∧ s.lif.replies.length < 8 := by
  decide +kernel

/-- The oldest request is a STATUS_READ, and one of an unknown operation stands behind it. -/
def asked : State := { line with lif := { line.lif with requests := [(7, .countersClear), (8, .unknownOperation 99)] } }

theorem test_meets_RequestsAreGatheredThenQueued_for_what_is_taken :
    carries (.countersClear 7) = some (7, .countersClear) ∧ asked.ccs.inReset = false ∧
    (∃ u, asked.takes 7 .countersClear { result := .ok } u ∧ u.lif.requests = [(8, .unknownOperation 99)]) ∧
    lifAnswer (.unknownOperation 99) = some .badOp ∧ lifAnswer .countersClear = none ∧
    asked.lif.replies.length + (answerFrames 7 .countersClear { result := .ok }).length < 8 ∧
    (∀ u, ¬asked.takes 6 .countersClear { result := .ok } u) ∧
    ((asked.lif.requests = [] ++ [(7, .countersClear), (8, .unknownOperation 99)]) ∧ ((7 : Byte), Request.countersClear) ≠ (6, .countersClear)) :=
  ⟨rfl, rfl, ⟨{ asked with lif := { asked.lif with requests := [(8, .unknownOperation 99)] } }, ⟨rfl, by decide +kernel, by decide +kernel⟩, rfl⟩, rfl, rfl,
    by decide +kernel, fun u h => (by cases h.2.1), rfl, by decide⟩

/-! #### Tables -/

/-- The largest recipe that R80 lets be written, but for the ranges that leave no choice. -/
def largest : RecipeEntry :=
  { valid := true, segCount := 4, seg1 := ⟨4095, 4095⟩, seg2 := ⟨0, 1⟩, seg3 := ⟨4095, 4095⟩, seg4 := ⟨4095, 4095⟩, baseDrive := 1023
    kp := 65535, kpShift := 15, ki := 65535, kiShift := 15, epStart := 255, ep := 255, en := 255, imax := 8388607, dlow := 1023
    dhigh := 1023, sstep := 255, tstart := 255, ftrip := 4095, ntrip := 15, emin := 4294967295, emax := 4294967295, defMin := 1023
    bondForce := 255, retryCount := 2 }

theorem test_meets_FeedAndBondEntriesAreChecked :
    (let e : LotWrite := { expected := some .occupied, dontCare := false, program := some 0, skip := 0, code := some [0x20, 0x7E] }
     e.expected ≠ none ∧ (∀ p, e.program = some p → p < 8) ∧
       (e.expected = some .occupied → ∃ p, e.program = some p ∧ (line.program p).valid = true) ∧ (e.program = none → e.skip = 0) ∧
       ∀ t, e.code = some t → t.length ≤ 16 ∧ ∀ b ∈ t, 0x20 ≤ b.toNat ∧ b.toNat ≤ 0x7E) ∧
    ({ expected := none, dontCare := false, program := none, skip := 0, code := none } : LotWrite).expected = none ∧
    (∃ r ∈ asking.strips, r.program = 0) ∧ (∀ p, ¬((∃ r ∈ line.strips, r.program = p) ∨ ∃ x, line.fdc.push = some x ∧ x.program = p)) ∧
    (∀ (i : Nat) (w : WireEntry), line.usc.wires[i]? = some w → w.valid = true ∧ (line.recipe w.ballRecipe).valid = true ∧
      (line.recipe w.stitchRecipe).valid = true) ∧
    ¬(1536 ≤ 1535) ∧ ((asking.program 0).firstWire ≤ 1 ∧ 1 < (asking.program 0).firstWire + (asking.program 0).wireCount) ∧
    asking.usc.wires[1]? = some { valid := true, y2 := 9, ballRecipe := 1, stitchRecipe := 1 } ∧ ¬((32768 : Int) ≤ 32767) := by
  refine ⟨⟨by decide, ?_, fun _ => ⟨0, rfl, rfl⟩, ?_, ?_⟩, rfl, ⟨_, List.mem_of_getElem? (i := 0) rfl, rfl⟩, ?_, ?_,
    by decide, by decide, rfl, by decide⟩
  · intro p h; cases h; decide
  · intro h; cases h
  · intro t h; cases h; decide
  · rintro p (⟨r, hr, -⟩ | ⟨x, hx, -⟩)
    · cases hr
    · cases hx
  · exact of_two (p := fun _ (w : WireEntry) => w.valid = true ∧ (line.recipe w.ballRecipe).valid = true ∧
      (line.recipe w.stitchRecipe).valid = true) (by decide) (by decide)

theorem test_meets_FeedAndBondEntriesAreChecked_for_recipes :
    (let g : List Segment := [largest.seg1, largest.seg2, largest.seg3, largest.seg4].take largest.segCount
     (∀ x ∈ g, x.setpoint ≤ 4095 ∧ 1 ≤ x.length ∧ x.length ≤ 4095) ∧ 2 ≤ (g.map (·.length)).sum) ∧
    checkRecipe line 5 largest = none ∧ checkRecipe line 5 { largest with segCount := 5 } = some .badValue ∧
    checkRecipe line 5 {} = none ∧ checkRecipe line 1 {} = some .badValue ∧ checkRecipe asking 1 largest = some .inUse := by
  decide +kernel

theorem test_meets_PullAndCellEntriesAreChecked :
    (let e : PlanEntry := { valid := true, interval := 255, units := [63, 0, 1, 2], wires := [383, 0, 1, 2, 3, 4, 5, 6] }
     (e.interval ≤ 255 ∧ e.units.length ≤ 4 ∧ (∀ u ∈ e.units, u ≤ 63) ∧ e.units.Nodup ∧ e.wires.length ≤ 8 ∧
       (∀ w ∈ e.wires, w ≤ 383) ∧ e.wires.Nodup) ∧ ¬({ e with wires := [1, 1] } : PlanEntry).wires.Nodup) ∧
    (let e : LimitsEntry := { valid := true, m1 := ⟨65000, false⟩, m5 := ⟨0, true⟩, failLimit := 8, capCount := 2, capLimit := 65000 }
     ((∀ m ∈ [e.m1, e.m2, e.m3, e.m4, e.m5], m.minForce ≤ 65000) ∧ 1 ≤ e.failLimit ∧ e.failLimit ≤ 8 ∧ 2 ≤ e.capCount ∧
       e.capCount ≤ 255 ∧ e.capLimit ≤ 65000) ∧ ¬2 ≤ ({ e with capCount := 1 } : LimitsEntry).capCount) ∧
    [ (0, 5000, 5001), (1, 200, 0), (2, 100, 101), (3, 50, 51), (4, 60000, 60001), (7, 39, 40), (9, 39, 40) ].map
      (fun x => (checkParam x.1 (.number x.2.1), checkParam x.1 (.number x.2.2))) = List.replicate 7 (none, some .badValue) ∧
    (checkParam 5 (.policy .ask), checkParam 5 (.number 0), checkParam 6 (.direction .down), checkParam 5 .unnamed) =
      (none, some .badValue, none, some .badValue) := by
  decide +kernel

theorem test_meets_ScreenAndForwardingEntriesAreChecked :
    (let s := terminal {}
     checkPage s { valid := true, firstTile := 0, tileCount := 2, keyMap := 15 } = none ∧
     checkPage s { valid := true, firstTile := 1, tileCount := 2 } = some .badValue ∧
     checkPage s { firstTile := 256 } = some .badValue ∧ checkTile s 1 {} = some .badValue ∧ checkTile s 2 {} = none ∧
     checkTile s 1 { valid := true, row := 15, column := 39, width := 1, value := 31, operand := 5, interval := 50 } = none ∧
     checkTile s 1 { valid := true, column := 39, width := 2, value := 31 } = some .badValue) ∧
    (let e : KeyEntry := { valid := true, key := 63, action := some .page, source := some .fixed, fixed := 15, minLevel := some .view }
     checkKey [] 0 e = none ∧ checkKey [] 0 { e with fixed := 16 } = some .badValue ∧ checkKey [{}, e] 0 e = some .badValue) ∧
    checkForwarding line nodes 10 { role := none, valid := true } = some .badValue ∧
    checkForwarding line nodes 63 { role := some .pull, valid := true } = some .badValue ∧
    checkForwarding line nodes 10 { role := some .pull, valid := true } = some .duplicate ∧
    checkForwarding line nodes 8 { role := some .other, valid := true } = some .inUse ∧
    checkForwarding line nodes 2 { role := some .other, valid := true } = none := by
  decide +kernel

/-- A write's hypotheses: it can be taken, and its count, content, first index and first fault. -/
theorem test_meets_TableWritesStoreAllOrNothing :
    (∀ r, line.takes 0 r { result := .ok } line) ∧ line.fdc.mag = .absent ∧
    (∀ m ∈ [MagState.scanning, .ready, .feeding], m ≠ .absent ∧ m ≠ .exhausted) ∧
    ((2 : Nat) ≠ 0 ∧ [({} : PlanEntry)].length ≠ 2) ∧ (8 < 7 + 2 ∧ 0 ≤ 6 ∧ 6 + 2 ≤ 8) ∧ (63 < 64 ∧ 64 ≤ 255 ∧ 255 + 1 ≤ 256) ∧
    (let bad : PlanEntry := { valid := true, interval := 256 }
     entryFault 6 [{}, bad] (fun _ => checkPlan) 7 = some .badValue ∧ entryFault 6 [{}, bad] (fun _ => checkPlan) 6 = none) ∧
    ∀ i, 6 ≤ i → i < 6 + 2 → entryFault 6 [({} : PlanEntry), {}] (fun _ => checkPlan) i = none := by
  refine ⟨fun r => test_any_plain_answer_can_be_taken 0 r .ok, by decide +kernel, by decide, by decide, by decide, by decide,
    by decide +kernel, ?_⟩
  intro i h k
  obtain rfl | rfl : i = 6 ∨ i = 7 := by omega
  · decide
  · decide

theorem test_meets_ScreenTableWritesRedrawTheirPages :
    (terminal {}).addrOf (.term .t1) = some 9 ∧ (terminal {}).addrOf (.term .t2) = none ∧ 1 ∈ (terminal {}).pageTiles 0 ∧
    (let p : PageEntry := { firstTile := 0, tileCount := 2 }
     p.valid = false ∧ 1 ∈ List.range' p.firstTile p.tileCount) ∧
    (let stored : List ForwardingEntry := storeFrom nodes 10 [{ role := .pull, valid := true }]
     checkForwarding line nodes 10 { role := some (.term .t2), valid := true } = none ∧
     checkForwarding line stored 11 { role := some .pull, valid := true } = some .duplicate) ∧
    [Level.view].length = 1 ∧ 3 + 1 ≤ 4 := by
  decide +kernel

/-- One entry of a table always fits a reply. -/
theorem one_entry_fits (t : TableName) (r : Request) {d : ReplyData}
    (h : dataBytes (opNumber r) (sizeArg r) d = 1 * entryBytes t) : answerParts r { result := .ok, data := d } ≤ 8 := by
  have := (Config.entryBytesLessOne t).isLt
  simp only [answerParts, h, entryBytes, framesFor, Config.partBytes]
  omega

theorem test_meets_TableReadsReturnTheirEntries :
    line.takes 0 (.tableRead .plan none 7 1) { result := .ok, data := .plans [({}, 0)] } line ∧ 3 + 1 * entryBytes .plan ≤ 464 ∧
    asking.takes 0 (.tableRead .unit none 1 1) { result := .ok, data := .units [{ state := .pending }] } asking ∧
    (0 ≤ 7 ∧ 7 + 1 ≤ 8 ∧ 8 < 7 + 2 ∧ 63 < 64) ∧ line.usc.units = none ∧ asking.usc.units = some [{ state := .pending }, { state := .pending }] ∧
    (line.strip .bond = none ∧ asking.strip .bond = some (strip160 .bonding)) ∧
    (∀ p, 464 < 3 + 8 * entryBytes p ∨ 3 + 8 * entryBytes p ≤ 464) ∧ 464 < 3 + 1536 * entryBytes .wire := by
  refine ⟨takes_idle rfl rfl rfl (one_entry_fits .plan _ rfl), ?_, takes_idle rfl rfl rfl (one_entry_fits .unit _ rfl), by decide, rfl, rfl,
    ⟨rfl, rfl⟩, fun p => by omega, ?_⟩
  · have := (Config.entryBytesLessOne .plan).isLt; simp only [entryBytes]; omega
  · simp only [entryBytes]; omega

/-! #### The feed and the track -/

/-- In RUN every node is heard. -/
theorem test_line_hears_its_nodes :
    line.hears 4 .feedIn false ∧ line.hears 4 .feedIn true ∧ line.hears 5 .feedOut false ∧ line.hears 5 .feedOut true ∧
    line.hears 6 .track true ∧ line.hears 7 .heater false ∧ line.hears 8 .pull true := by
  unfold State.hears
  decide +kernel

theorem test_meets_MagazinesAreCheckedSlotBySlot :
    line.hears 4 .feedIn false ∧
    (let fails (s : State) (n : Nat) : Prop :=
      n < 40 ∧ s.fdc.resume ≤ n ∧ (s.fdc.marks.getD n {}).masked = false ∧
        (s.fdc.lot.getD n {}).expected ≠ (s.fdc.marks.getD n {}).sensed
     let s : State := { line with fdc := { line.fdc with resume := 39, marks := List.replicate 39 {} ++ [{ sensed := .occupied }] } }
     (∀ n, ¬fails line n) ∧ fails s 39 ∧ ∀ m, fails s m → 39 ≤ m) := by
  refine ⟨test_line_hears_its_nodes.1, ?_, ?_, fun m h => h.2.1⟩
  · rintro n ⟨h, -, -, k⟩
    have (n : Nat) : n < 40 → (line.fdc.lot.getD n {}).expected = (line.fdc.marks.getD n {}).sensed := by
      revert n; decide +kernel
    exact k (this n h)
  · decide +kernel

theorem test_meets_SlotDecisionsResumeTheCheck :
    ∀ n, line.takes 0 (.slotOp .skipSlot n) { result := .ok } line := fun _ => test_any_plain_answer_can_be_taken 0 _ .ok

/-- Slot 39 of the input magazine is the next slot, and the cell runs with a free track. -/
def feeding : State :=
  { line with fdc := { line.fdc with
    mag := .ready, pointer := some 39, marks := List.replicate 39 {} ++ [{ sensed := .occupied }]
    lot := List.replicate 39 {} ++ [{ expected := .occupied, program := some 0 }], out := .ready, fill := some 0 } }

theorem test_meets_GrantsStartTheirOperation :
    line.ccs.inReset = false ∧ line.granted = none ∧ (feeding.granted = some .push ∧ feeding.nextSlot = some 39) ∧
    (let r := strip160 .waitBond
     let s : State := { line with trc := { preheat := some r } }
     s.granted = some .movePb ∧ s.trc.preheat = some r) ∧
    (let s := atBond (strip160 .released) { state := .done } { state := .done }
     s.granted = some .moveBp ∧ s.trc.bond = some (strip160 .released)) ∧
    (let s : State := { feeding with fdc := { feeding.fdc with outNext := some 0 }, trc := { post := some (strip160 .done) } }
     s.granted = some .eject ∧ s.trc.post = some (strip160 .done) ∧ s.fdc.outNext = some 0) := by
  decide +kernel

/-- A push in flight from slot 39, granted at time 0. -/
def pushing (code : Option StripCode) : State :=
  { feeding with
    fdc := { feeding.fdc with push := some { slot := 39, program := 0, skip := 0, code := code, grantTime := 0 } }
    trc := { op := some { kind := .push, strip := none, moveNo := none, slot := some 39, grantTime := 0, timeout := 3000 } } }

theorem test_meets_StripsAreAdmittedToTheTrack :
    line.hears 4 .feedIn true ∧ line.fdc.push = none ∧ (pushing none).hears 4 .feedIn true ∧ (pushing (some [0x41])).hears 4 .feedIn true ∧
    (pushing none).fdc.push = some { slot := 39, program := 0, skip := 0, code := none, grantTime := 0 } ∧
    (¬∃ c, (none : Option StripCode) = some c ∧ some [0x41] ≠ some c) ∧
    ((some [0x41] : Option StripCode) = some [0x41] ∧ (none : Option StripCode) ≠ some [0x41]) := by
  refine ⟨test_line_hears_its_nodes.2.1, rfl, ?_, ?_, rfl, ?_, by decide⟩
  · unfold State.hears; decide +kernel
  · unfold State.hears; decide +kernel
  · rintro ⟨c, h, -⟩; cases h

theorem test_meets_FailedPushesAreNotTriedAgain : (pushing none).hears 4 .feedIn true ∧ (pushing none).ccs.inReset = false := by
  unfold State.hears; decide +kernel

theorem test_meets_TheOutputMagazineFindsItsFreeSlot : line.hears 5 .feedOut false := test_line_hears_its_nodes.2.2.1

/-- This operation is in flight, for the move number 3 or the slot 39. -/
def operating (k : OpKind) (t : Trc) : State :=
  { feeding with trc := { t with
    op := some { kind := k, strip := some 160, moveNo := some 3, slot := some 39, grantTime := 0, timeout := 2000 } } }

theorem test_meets_CompletionsMoveTheStrips :
    (let s := operating .movePb { preheat := some (strip160 .waitBond) }
     s.hears 6 .track true ∧ (∃ x, s.trc.op = some x ∧ x.kind = .movePb ∧ x.moveNo = some 3) ∧
     s.trc.preheat = some (strip160 .waitBond) ∧ (strip160 .waitBond).scrapped = false ∧
     ¬∃ x, s.trc.op = some x ∧ x.kind = .movePb ∧ x.moveNo = some 4) ∧
    (operating .movePb { preheat := some { strip160 .waitBond with scrapped := true } }).hears 6 .track true ∧
    (let s := operating .moveBp { bond := some (strip160 .released) }
     s.hears 6 .track true ∧ (∃ x, s.trc.op = some x ∧ x.kind = .moveBp ∧ x.moveNo = some 3) ∧
     s.trc.bond = some (strip160 .released)) ∧
    (let s := operating .eject { post := some (strip160 .ejecting) }
     s.hears 5 .feedOut true ∧ (∃ x, s.trc.op = some x ∧ x.kind = .eject ∧ x.slot = some 39) ∧
     s.trc.post = some (strip160 .ejecting) ∧ ¬∃ x, s.trc.op = some x ∧ x.kind = .eject ∧ x.slot = some 38) := by
  unfold State.hears
  refine ⟨⟨by decide +kernel, ⟨_, rfl, rfl, rfl⟩, rfl, rfl, ?_⟩, by decide +kernel, ⟨by decide +kernel, ⟨_, rfl, rfl, rfl⟩, rfl⟩,
    by decide +kernel, ⟨_, rfl, rfl, rfl⟩, rfl, ?_⟩
  · rintro ⟨x, h, -, k⟩; cases h; revert k; decide
  · rintro ⟨x, h, -, k⟩; cases h; revert k; decide

theorem test_meets_FailedOperationsJamTheTrack :
    (∀ k, (operating k {}).hears 6 .track true ∧ (operating k {}).hears 5 .feedOut true ∧ (operating k {}).ccs.inReset = false) := by
  intro k
  unfold State.hears
  cases k <;> decide +kernel

theorem test_meets_TheHeatMonitorSettlesAndTimesOut : line.hears 7 .heater false ∧ line.ccs.inReset = false :=
  ⟨test_line_hears_its_nodes.2.2.2.2.2.1, rfl⟩

/-! #### Requests about strips, units and wires -/

/-- The only strip on the track has the number 160. -/
theorem only_160 {s : State} {p : Position} {r : StripRecord} (h : s.strips = [r])
    (hq : ∀ q, q ≠ p → s.strip q = none) :
    (∀ q x, s.strip q = some x → x.seq = r.seq → q = p) ∧ ∃ x ∈ s.strips, x.seq = r.seq := by
  refine ⟨fun q x hx _ => ?_, r, h ▸ List.mem_singleton.mpr rfl, rfl⟩
  by_contra k
  rw [hq q k] at hx; cases hx

/-- A strip alone at PREHEAT. -/
def atPreheat (r : StripRecord) : State := { line with trc := { preheat := some r } }

theorem alone_at_preheat (r : StripRecord) :
    (∀ q x, (atPreheat r).strip q = some x → x.seq = r.seq → q = .preheat) ∧ ∃ x ∈ (atPreheat r).strips, x.seq = r.seq :=
  only_160 rfl fun q h => by cases q <;> first | exact absurd rfl h | rfl

theorem alone_at_bond (r : StripRecord) (a b : UnitRecord) :
    (∀ q x, (atBond r a b).strip q = some x → x.seq = r.seq → q = .bond) ∧ ∃ x ∈ (atBond r a b).strips, x.seq = r.seq :=
  only_160 rfl fun q h => by cases q <;> first | exact absurd rfl h | rfl

theorem test_meets_HeldStripsAreAcceptedOrScrapped :
    (∀ s ∈ [atPreheat (strip160 .idHold), atPreheat (strip160 .preheat)], ∀ r, s.takes 0 r { result := .ok } s) ∧
    (∀ st, (atPreheat (strip160 st)).strip .preheat = some (strip160 st) ∧
      ∀ q x, (atPreheat (strip160 st)).strip q = some x → x.seq = 160 → q = .preheat) ∧
    (∀ r ∈ line.strips, r.seq ≠ 160) ∧ (strip160 .idHold).scrapped = false ∧ (strip160 .preheat).state ≠ .idHold := by
  refine ⟨?_, fun st => ⟨rfl, (alone_at_preheat (strip160 st)).1⟩, fun r h => (by cases h), rfl, by decide⟩
  intro s hs r
  simp only [List.mem_cons, List.not_mem_nil, or_false] at hs
  rcases hs with rfl | rfl <;> exact takes_idle rfl rfl rfl (show framesFor (3 + 0) ≤ 8 by decide)

/-- Head A awaits the decision on wire 1 of unit 1. -/
def deciding : State :=
  let s := claiming { state := .claimed, claimant := some .a, resume := 1, done := [0] }
  { s with heads := ⟨{ state := .hold, hold := { nsb := true }, nsb := some { wire := ⟨160, 1, 1⟩, phase := .stitch } }, { state := .idle }⟩ }

/-- Whatever else it holds, a state with the strip alone at BOND. -/
theorem alone_as {s : State} {r : StripRecord} (h : s.trc = { bond := some r }) :
    s.trc.bond = some r ∧ ∀ q x, s.strip q = some x → x.seq = 160 → q = .bond := by
  refine ⟨by rw [h], fun q x hx _ => ?_⟩
  cases q <;> simp only [State.strip, h] at hx
  · cases hx
  · rfl
  · cases hx

theorem test_meets_ScrapEndsTheBondingOfAStrip :
    (let decides (s : State) (h : Head) : Prop := ∃ d, (s.head h).nsb = some d ∧ d.wire.seq = 160
     let both : State := { deciding with heads := ⟨deciding.heads.a, deciding.heads.a⟩ }
     let ended : State := { deciding with trc := (checking .ask).trc, vcu := rebonding.vcu }
     (∀ s ∈ [deciding, both, claiming { state := .pending }], s.trc.bond = some (strip160 .bonding) ∧
       ∀ q x, s.strip q = some x → x.seq = 160 → q = .bond) ∧
     (∀ s ∈ [checking .ask, rebonding, ended], s.trc.bond = some (strip160 .checking) ∧
       ∀ q x, s.strip q = some x → x.seq = 160 → q = .bond) ∧
     (∀ s ∈ [deciding, both, claiming { state := .pending }, checking .ask, rebonding, ended], ∀ r, s.takes 0 r { result := .ok } s) ∧
     (∀ i < 64, (2#64).getLsbD i =
       ((strip160 .bonding).skip.getLsbD i ||
         decide (((claiming { state := .pending }).unit? i).map (·.state) = some .pending))) ∧
     decides deciding .a ∧ ¬decides deciding .b ∧ decides both .b ∧ (checking .ask).vcu.rebondHead = none ∧
     rebonding.vcu.rebondHead = some .a ∧ ¬decides rebonding .a ∧ ended.vcu.rebondHead = some .a ∧ decides ended .a) := by
  refine ⟨?_, ?_, ?_, by decide +kernel, ⟨_, rfl, rfl⟩, ?_, ⟨_, rfl, rfl⟩, rfl, rfl, ?_, rfl, _, rfl, rfl⟩
  · intro s hs
    simp only [List.mem_cons, List.not_mem_nil, or_false] at hs
    rcases hs with rfl | rfl | rfl <;> exact alone_as rfl
  · intro s hs
    simp only [List.mem_cons, List.not_mem_nil, or_false] at hs
    rcases hs with rfl | rfl | rfl <;> exact alone_as rfl
  · intro s hs r
    simp only [List.mem_cons, List.not_mem_nil, or_false] at hs
    rcases hs with rfl | rfl | rfl | rfl | rfl | rfl <;> exact takes_idle rfl rfl rfl (show framesFor (3 + 0) ≤ 8 by decide)
  all_goals rintro ⟨d, h, -⟩; cases h

theorem test_meets_SkippedUnitsLeaveTheirClaims :
    (∀ st, (atPreheat (strip160 st)).strip .preheat = some (strip160 st) ∧
      ∀ q x, (atPreheat (strip160 st)).strip q = some x → x.seq = 160 → q = .preheat) ∧
    (∀ a b, (atBond (strip160 .bonding) a b).strip .bond = some (strip160 .bonding) ∧
      (∀ q x, (atBond (strip160 .bonding) a b).strip q = some x → x.seq = 160 → q = .bond) ∧
      (atBond (strip160 .bonding) a b).unit? 1 = some b) ∧
    (line.program 0).rows * (line.program 0).columns = 2 ∧
    (deciding.claimOf .a = some 1 ∧ deciding.unit? 1 = some { state := .claimed, claimant := some .a, resume := 1, done := [0] } ∧
      asking.claimOf .a = none) := by
  refine ⟨fun st => ⟨rfl, (alone_at_preheat (strip160 st)).1⟩, fun a b => ⟨rfl, (alone_at_bond (strip160 .bonding) a b).1, rfl⟩, rfl,
    by decide +kernel, rfl, by decide⟩

theorem test_meets_NsbDecisionsEndTheHold :
    (∃ r ∈ deciding.strips, r.seq = 160) ∧
    (let awaits (h : Head) (w : Nat) : Prop := ∃ d, (deciding.head h).nsb = some d ∧ d.wire = ⟨160, 1, w⟩
     awaits .a 1 ∧ ¬awaits .b 1 ∧ ∀ h, ¬awaits h 0) ∧
    deciding.unit? 1 = some { state := .claimed, claimant := some .a, resume := 1, done := [0] } ∧
    ∀ r ∈ deciding.strips, r.seq ≠ 161 := by
  refine ⟨⟨_, List.mem_singleton.mpr rfl, rfl⟩, ⟨⟨_, rfl, rfl⟩, ?_, ?_⟩, rfl, ?_⟩
  · rintro ⟨d, h, -⟩; cases h
  · intro h
    cases h
    · rintro ⟨d, h, k⟩; cases h; revert k; decide
    · rintro ⟨d, h, -⟩; cases h
  · intro r h; rw [List.mem_singleton.mp h]; decide

theorem test_meets_CoverageDecisionsMoveTheScan :
    let s : State := { checking .ask with vcu := { scan := some .stopped, pos := some (1, 1), pendingWire := some (1, 1) } }
    (∃ r ∈ s.strips, r.seq = 160) ∧ (∀ h d, (s.head h).nsb = some d → d.wire ≠ ⟨160, 1, 1⟩) ∧
    s.trc.bond = some (strip160 .checking) ∧ (strip160 .checking).scrapped = false ∧
    s.unit? 1 = some { state := .partial_, resume := 2, done := [0] } ∧ s.vcu.scan = some .stopped ∧
    s.vcu.pendingWire = some (1, 1) ∧ s.held 0 = false ∧ s.ccs.cell = .run ∧ (s.head .a).state = .idle ∧
    (line.program 0).wireCount = 2 ∧ (strip160 .released).state ≠ .bonding ∧ (rebonding.head .a).state ≠ .idle := by
  refine ⟨⟨_, List.mem_singleton.mpr rfl, rfl⟩, ?_, rfl, rfl, rfl, rfl, rfl, by decide +kernel, rfl, rfl, rfl, by decide, by decide⟩
  intro h d k
  cases h <;> cases k

/-! #### The wire cycle and the regulator -/

/-- Head A makes wire 1 of unit 1 under command number 7. -/
def making (c : HeadCtx) (ch : Channel) : State :=
  { claiming { state := .claimed, claimant := some .a, resume := 1, done := [0] } with
    heads := ⟨{ c with cmdNo := 7, wire := some ⟨160, 1, 1⟩ }, {}⟩, channels := ⟨ch, {}⟩ }

/-- The summary of the bond of 5.11. -/
def summary511 : BondSummary :=
  { recipe := 1, profileLength := 8, samples := 8, energy := 1100, peak := 458, startupCount := 3, slowStart := true
    sampleGap := true, lowEnergy := false, highEnergy := true, outcome := .complete, tripSource := none }

theorem test_meets_BondsAreVotedAndMovedOn :
    (let s := making { state := .moving, phase := .ball } { state := .idle }
     s.ccs.inReset = false ∧ s.roleAt (2 : Byte).toNat = .head .a ∧ (s.head .a).state = .moving ∧ s.trc.bond = some (strip160 .bonding) ∧
       (s.head .a).wire = some ⟨160, 1, 1⟩ ∧ (s.head .a).phase = .ball ∧ (7 : Byte) = (s.head .a).cmdNo) ∧
    (let s := making { state := .bonding, phase := .stitch } { state := .idle, lastSummary := some summary511 }
     (s.head .a).state = .bonding ∧ (s.head .a).phase = .stitch ∧ ¬((s.chan .a).state = .startup ∨ (s.chan .a).state = .regulate) ∧
       (s.chan .a).lastSummary = some summary511) ∧
    (let s := making { state := .bonding, phase := .stitch } { state := .regulate }
     (s.head .a).state ≠ .moving ∧ (s.chan .a).state = .regulate) := by
  decide +kernel

theorem test_meets_WiresEndDoneHeldOrFaulted :
    (∀ b, (let s := making { state := .forming, phase := .stitch, abandoning := b } { state := .idle }
      s.ccs.inReset = false ∧ s.roleAt (2 : Byte).toNat = .head .a ∧ (s.head .a).state = .forming ∧ (7 : Byte) = (s.head .a).cmdNo ∧
        (s.head .a).abandoning = b ∧ (s.head .a).wire = some ⟨160, 1, 1⟩)) ∧
    ((making { state := .moving } {}).head .a).state ≠ .forming := by
  decide +kernel

theorem test_meets_SamplesAreWorkedInFifteenSteps :
    let s (ch : Channel) : State := making { state := .bonding, phase := .stitch } ch
    let running (ch : Channel) : Prop := ch.state = .startup ∨ ch.state = .regulate
    let first : Channel := ({ state := .idle } : Channel).start 1 recipe511
    let fifth : Channel := { first with state := .regulate, k := 4, prevSeq := some 23, dPrev := 458 }
    let last : Channel := { first with state := .regulate, k := 7, prevSeq := some 27, dPrev := 211 }
    let segments : List Segment := [recipe511.seg1, recipe511.seg2]
    (s first).ccs.inReset = false ∧ (s first).roleAt (2 : Byte).toNat = .head .a ∧ ((s first).head .a).state ≠ .off ∧
    ¬running {} ∧ running first ∧ fifth.prevSeq = some 23 ∧ first.prevSeq ≠ some 20 ∧
    (2 ≤ (if recipe511.ftrip < 4001 then { first with tripCount := 1 }.tripCount + 1 else 0)) ∧
    ((if recipe511.ftrip < 4000 then first.tripCount + 1 else 0) < recipe511.ntrip) ∧
    (last.k + 1 = (segments.map (·.length)).sum ∧ first.k + 1 ≠ (segments.map (·.length)).sum) ∧
    (segments[0]? = some recipe511.seg1 ∧ 0 < first.k + 1 ∧ first.k + 1 ≤ 0 + recipe511.seg1.length) ∧
    (segments[1]? = some recipe511.seg2 ∧ 4 < fifth.k + 1 ∧ fifth.k + 1 ≤ 4 + recipe511.seg2.length) ∧
    (recipe511.dlow ≤ recipe511.dhigh ∧ recipe511.dlow ≤ first.dPrev ∧ first.dPrev ≤ recipe511.dhigh) := by
  decide +kernel

/-! #### Pulls, records and statistics -/

/-- A candidate of unit 1, wire 1. -/
def candidate (status : CandidateStatus) : Candidate := { unit := 1, wire := 1, reason := .planned, status := status }

/-- Strip 160 at POST with one candidate. -/
def pulled (c : Candidate) : StripRecord := { strip160 .pulling with candidates := [c] }

/-- The strip is at POST, and this pull request is in flight. -/
def atPost (r : StripRecord) (q : Option PullRequest) : State :=
  { line with trc := { post := some r }, plm := { line.plm with req := q } }

/-- The pull of unit 1, wire 1, asked for at time 0. -/
def pull11 : PullRequest := { tag := 4, seq := 160, unit := 1, wire := 1, sendTime := 0 }

theorem test_meets_PullsAreRequestedAndJudged :
    let s := atPost (pulled (candidate .bonded)) none
    let t := atPost (pulled (candidate .bonded)) (some pull11)
    let late : State := { t with ccs := { t.ccs with timebase := 5000 } }
    (s.ccs.inReset = false ∧ s.trc.post = some (pulled (candidate .bonded)) ∧ (candidate .bonded).record = none ∧
      (∃ l m, (pulled (candidate .bonded)).candidates = l ++ candidate .bonded :: m ∧
        ∀ d ∈ l, d.record ≠ none ∨ d.status = .cancelled) ∧
      s.plm.req = none ∧ s.plm.log.length < 512 ∧ s.ccs.cell = .run ∧ s.ccs.feedPause = false ∧ s.addrOf .pull ≠ none ∧
      ∀ e ∈ s.alc.list, isStop e.code = true → e.state ≠ .activeAcked → e.scope ≠ .track ∧ e.scope ≠ .cell) ∧
    (∀ r, line.trc.post ≠ some r) ∧
    (t.hears 8 .pull true ∧ t.plm.req = some pull11 ∧ pull11.tag = 4 ∧ (5 : Byte) ≠ pull11.tag ∧
      ∃ l m, (pulled (candidate .bonded)).candidates = l ++ candidate .bonded :: m ∧ ∀ d ∈ l, ¬(d.unit = 1 ∧ d.wire = 1)) ∧
    ((t.ccs.timebase - pull11.sendTime).toNat < 5000 ∧ 5000 ≤ (late.ccs.timebase - pull11.sendTime).toNat) := by
  refine ⟨⟨rfl, rfl, rfl, ⟨[], [], rfl, by decide⟩, rfl, by decide, rfl, rfl, by decide +kernel, ?_⟩, fun r h => (by cases h),
    ⟨?_, rfl, rfl, by decide, [], [], rfl, by decide⟩, by decide +kernel, by decide +kernel⟩
  · intro e h; cases h
  · unfold State.hears; decide +kernel

theorem test_meets_RecordsJoinTheLog :
    (∀ c, (atPost (pulled c) none).trc.post = some (pulled c) ∧ candidatesLawful (pulled c).candidates ∧ c ∈ (pulled c).candidates) ∧
    ((pulled (candidate .bonded)).state = .pulling ∧ (pulled (candidate .bonded)).scrapped = false) ∧
    ((candidate .cancelled).status = .cancelled ∧ ¬((candidate .notBonded).record ≠ none ∨ (candidate .notBonded).status = .cancelled) ∧
      (candidate .bonded).status ≠ .notBonded) ∧ (atPost (strip160 .done) none).trc.post = some (strip160 .done) := by
  refine ⟨fun c => ⟨rfl, ⟨show 1 ≤ 48 by decide, List.pairwise_singleton _ _⟩, List.mem_singleton.mpr rfl⟩, by decide, by decide, rfl⟩

theorem test_meets_ForcesAreCountedAndWeighed :
    (3 < capable.plm.stats.length ∧ (capable.plm.limits.getD 3 {}).valid = true ∧ (capable.plm.limits.getD 3 {}).capCount = 4 ∧
      4 ≤ 3 + 1 ∧ ¬4 ≤ 2 + 1 ∧ 2 ≤ 4) ∧
    (let q := (4 * 1472373 - 2425 * 2425) / (4 * (4 - 1)); 27 * 27 ≤ q ∧ q < (27 + 1) * (27 + 1)) ∧
    (atPost (strip160 .pulling) none).trc.post = some (strip160 .pulling) ∧
    (∀ r, line.takes 0 r { result := .ok } line) ∧
    line.takes 0 (.statsRead 7)
      { result := .ok
        data := .stats { stats := {}, mean := none, sd := none, margin := none, state := .running, strips := 0 } } line :=
  ⟨by decide +kernel, by decide +kernel, rfl, fun r => test_any_plain_answer_can_be_taken 0 r .ok,
    takes_idle rfl rfl rfl (own_data_fits (.statsRead 7) 11 7 1 rfl)⟩

theorem test_meets_PullListsAndStatusAreServed :
    (let r := pulled (candidate .waiting)
     (atPreheat r).strip .preheat = some r ∧ (∀ q x, (atPreheat r).strip q = some x → x.seq = 160 → q = .preheat) ∧
       r.scrapped = false ∧ r.skip.getLsbD 1 = false ∧ (line.program 0).rows * (line.program 0).columns = 2 ∧
       r.candidates = [] ++ candidate .waiting :: [] ∧ ∀ d ∈ r.candidates, ¬(d.unit = 0 ∧ d.wire = 1)) ∧
    (let s : State := { line with plm := { line.plm with log := [{
        number := 65535, time := 0, seq := 160, code := none, program := 0, unit := 1, wire := 1, head := none, reason := .planned
        ball := none, stitch := none, force := none, mode := none, status := none, verdict := .notBonded }] } }
     s.takes 0 (.pullRead 4) { result := .ok, data := .pullRecords (s.plm.log.take 4) } s ∧ (65535 + 0) % 65536 = 65535 ∧
       (65535 + 1) % 65536 = 0 ∧ s.plm.log.length = 1) ∧
    line.takes 0 (.statusRead 0) { result := .ok, data := .status (.cell .run false false 0 .none 0) } line ∧
    line.plm.log = [] := by
  refine ⟨⟨rfl, (alone_at_preheat (pulled (candidate .waiting))).1, rfl, by decide, rfl, rfl, by decide⟩,
    ⟨takes_idle rfl rfl rfl (by decide +kernel), rfl, rfl, rfl⟩,
    takes_idle rfl rfl rfl (own_data_fits (.statusRead 0) 15 0 1 rfl), rfl⟩

/-! #### Keys and the laws of a run -/

/-- TERM1 with this key, on a page of two tiles. -/
def keyed (e : KeyEntry) : State := { terminal {} with tmc := { (terminal {}).tmc with keys := [e] } }

theorem test_meets_KeysActAsRequests :
    (let e : KeyEntry :=
      { valid := true, key := 3, action := some .waiveWire, source := some .tag, minLevel := some .operator }
     (keyed e).ccs.inReset = false ∧ (keyed e).roleAt (9 : Byte).toNat = .term .t1 ∧ ((keyed e).tmc.pages.getD 0 {}).valid = true ∧
       ((keyed e).tmc.keys.drop 0).take 16 = [] ++ e :: [] ∧ e.source ≠ some .fixed ∧
       levelRank .view < levelRank (e.minLevel.getD .view) ∧ ¬levelRank .operator < levelRank (e.minLevel.getD .view)) ∧
    (line.tmc.pages.getD 0 {}).valid = false ∧ (∀ d, 1 ≤ d → d ≤ 15 → ((terminal {}).tmc.pages.getD ((0 + d) % 16) {}).valid = false) ∧
    decodeTag 0xE000#16 = none ∧ decodeTag (encodeTag (.head .b)) = some (.head .b) ∧ 1 ∈ (terminal {}).pageTiles 0 ∧
    2 ∉ (terminal {}).pageTiles 0 := by
  refine ⟨by decide +kernel, by decide +kernel, ?_, by decide +kernel, by decide +kernel, by decide +kernel, by decide +kernel⟩
  intro d h k
  have : ∀ d < 16, 1 ≤ d → ((terminal {}).tmc.pages.getD ((0 + d) % 16) {}).valid = false := by decide +kernel
  exact this d (by omega) h

/-- FEED_JAM with the scope TRACK: a tag that R144 answers BAD_VALUE. -/
theorem test_meets_KeysActAsRequests_for_misfits :
    (8192 ≤ (0x2044#16).toNat ∧ (0x2044#16).toNat < 8192 + 512) ∧
    (∀ code scope, scopeFits scope code = true → 8192 + 16 * alarmNumber code + scopeNumber scope ≠ (0x2044#16).toNat) ∧
    (∀ code p, DisplayTag.alarm .feedJam .feeder = .alarm code (.program p) → p < 8) ∧
    decodeTag (encodeTag (.alarm .feedJam .feeder)) = some (.alarm .feedJam .feeder) := by
  refine ⟨by decide, ?_, fun _ _ h => (by cases h), by decide⟩
  intro code scope h
  have : scopeNumber scope ≤ 12 := by
    cases scope with
    | program p =>
      cases code <;> simp [scopeFits] at h
      all_goals simp only [scopeNumber]; omega
    | head k => cases k <;> decide
    | _ => decide
  rw [show (0x2044#16).toNat = 8260 from rfl]
  cases code <;> first
    | (simp only [alarmNumber, ne_eq]; omega)
    | (simp only [scopeFits, decide_eq_true_eq] at h; subst h; decide)

theorem test_meets_EveryStepKeepsTheLaws :
    asking.queuesBounded ∧ asking.oneDriveEach ∧ asking.alarmsLawful ∧ asking.logLawful ∧ asking.stopLawful ∧
    asking.candidatesLawful ∧ asking.gateLawful := by
  refine ⟨by unfold State.queuesBounded; decide +kernel, List.Pairwise.nil, ⟨by decide, List.Pairwise.nil, by decide⟩,
    ⟨by decide, by decide, by decide, ?_⟩, ⟨?_, by decide, fun h => by cases h⟩, ⟨?_, ?_⟩, ?_⟩
  · intro i x h; cases h
  · intro h; cases h <;> decide
  · intro e h
    obtain rfl : e = {} := List.eq_of_mem_replicate h
    exact ⟨by decide, by decide, List.nodup_nil, List.nodup_nil⟩
  · intro r h; rw [List.mem_singleton.mp h]; exact ⟨by decide, List.Pairwise.nil⟩
  · intro h _
    cases h
    · exact ⟨2, by decide +kernel, fun f hf => by cases hf⟩
    · exact ⟨3, by decide +kernel, fun f hf => by cases hf⟩

/-! ### Single steps -/

/-- What a step makes of a state with this command at the front; the state itself where it answers no next state. -/
def stepped (c : Instr) (s : State) : State :=
  match step { s with pending := c :: s.pending } with
  | .next t => t
  | _ => s

theorem test_arm_makes_the_cell_ready :
    let t := stepped (.cellCmdArm 9) State.reset
    (t.ccs.cell, t.replyLine.map fun m => (m.tag, m.op, m.answer.result)) = (.ready, [(9, 3, .ok)]) ∧
    t.pending = [] := by
  decide +kernel

theorem test_start_from_stopped_is_a_bad_state :
    let t := stepped (.cellCmdStart 9) State.reset
    (t.ccs.cell, t.replyLine.map fun m => m.answer.result) = (.stopped, [.badState]) := by
  decide +kernel

theorem test_push_grant_sends_feed_push :
    let t := stepped .pushGrant feeding
    (t.fdc.mag, t.fdc.push.map (·.slot), t.lif.fTx.any fun x => decide (x = .own { role := .feedIn, dst := 4, body := .feedPush 39 })) =
    (.feeding, some 39, true) := by
  decide +kernel

theorem test_touchdown_starts_the_bond :
    let t := stepped (.touchdown 2 7) (making { state := .moving, phase := .ball } { state := .idle })
    ((t.head .a).state, (t.chan .a).state, (t.chan .a).recipe, (t.chan .a).dPrev) = (.bonding, .startup, some 1, 100) := by
  decide +kernel

theorem test_wire_done_steps_the_unit :
    let t := stepped (.wireDone 2 7) (making { state := .forming, phase := .stitch } { state := .idle })
    (t.units.map (·.state), t.trc.bond.map (·.wiresBonded), (t.head .a).bonded, t.vcu.scan) =
    ([.done, .done], some 1, 1, some .passed) := by
  decide +kernel

theorem test_missing_wire_stops_the_scan :
    let t := walk 0 0 (checking .ask)
    (t.vcu.scan, t.vcu.pendingWire, t.alc.list.map fun e => (e.code, e.detail)) =
    (some .stopped, some (1, 1), [(.missedWire, 1001)]) := by
  decide +kernel

theorem test_estop_stops_the_cell :
    let t := stepped .estopAssert line
    (t.ccs.cell, t.ccs.estop, t.alc.list.map fun e => (e.code, e.scope, e.state)) = (.stopped, true, [(.estop, .cell, .active)]) := by
  decide +kernel

theorem test_gated_frame_is_owned :
    let t := stepped (.uPortFrame (frame 4 0 0x18 [])) line
    t.lif.ufQueue = [] ∧ t.lif.uTx = some (.reply
      { tag := 0, part := 0, last := true, op := 0, answer := { result := .owned, data := .gate 0x18 4 } }) := by
  decide +kernel

/-- R35: a sample in the band leaves the monitor READY, with the settle count that a write has just changed. -/
theorem test_ready_sample_counts_to_the_settle_count :
    (weighHeat { heatTarget := 2000, heatBand := 30, heatHysteresis := 10, settleCount := 5 } 2010 { state := .ready, counter := 3 }).counter =
    5 := by
  decide

/-- R116: the record of an ejected strip has no candidate list. -/
theorem test_ejected_strip_has_no_candidates :
    let t := completeEject 39 { line with trc := { post := some { strip160 .ejecting with candidates := [planned 0] } } }
    t.trc.lastEjected.map (fun r => (r.seq, r.dest, r.candidates)) = some (160, some 39, []) := by
  decide +kernel

/-- R168: a RESTART waits while the reply list has no room. -/
theorem test_restart_waits_for_room : exec (.restart 0) answered = .next answered := rfl

/-- R176: while the U-port is busy the OK reply of a RESTART waits, and drive 0 and ABORT of head A wait for it on the free F-port. -/
theorem test_restart_frames_wait_for_the_reply :
    let s : State :=
      { line with heads := ⟨{ state := .bonding, cmdNo := 7 }, {}⟩
                  lif := { line.lif with uTx := some (.notice ⟨.started .power, false⟩) } }
    let t := stepped (.restart 0) s
    (t.lif.replies.map (·.2.op), t.lif.fTx, t.lif.drives.map (·.drive), t.lif.own.map (·.body)) =
      ([17], none, [0], [.headCmd .abort 7]) := by
  decide +kernel

/-- R176, R78: when the OK reply of a RESTART has been sent, the drive 0 frame starts on the F-port. -/
theorem test_drive_zero_follows_the_restart_reply :
    (stepped .uPortFrameSent restarting).lif.fTx = some (.drive { head := .a, dst := 2, drive := 0, endMark := false }) := by
  decide +kernel

/-- R16: an EJECTED taken while FULL whose search finds a free slot makes the output magazine READY. -/
theorem test_ejected_while_full_finds_a_free_slot :
    (fillSlot 4 { line with fdc := { line.fdc with out := .full, reserved := some 4 } }).fdc.out = .ready := by
  decide +kernel

/-- R151: a tile in the range of a page that is not valid changes the page of the terminal that shows it. -/
theorem test_tile_of_an_invalid_page_redraws :
    let s : State := { line with tmc := { line.tmc with pages := [{ firstTile := 0, tileCount := 2 }] } }
    ((writeTile 1 1 [{}] s).1.term .t1).pagePending = true ∧ ((writeTile 2 1 [{}] s).1.term .t1).pagePending = false := by
  decide +kernel

/-- R144: FEED_JAM of the scope TRACK is a BAD_VALUE, FEED_JAM of the FEEDER with no such entry is GONE. -/
theorem test_misfit_tag_is_a_bad_value :
    let e : KeyEntry := { valid := true, key := 3, action := some .ackAlarm, source := some .tag, minLevel := some .view }
    let tells (tag : BitVec 16) := ((stepped (.screenKey 9 3 1 tag) (keyed e)).term .t1).message
    (tells 0x2044#16, tells 0x2043#16, tells 0xE000#16) = ("BAD_VALUE".toList, "GONE".toList, "NO TARGET".toList) := by
  decide +kernel

/-- R170: a request with no content waits like any other, to be answered BAD_VALUE; the operation that its reply echoes is free. -/
theorem test_empty_request_waits_with_a_free_operation :
    let s : State := { line with lif := { line.lif with requests := [(7, .restart)] } }
    let t := stepped (.mreq { tag := 9, part := 0, last := true, content := [], reads := none }) s
    (t.lif.requests.map fun x => (x.1, lifAnswer x.2), t.lif.replies.length, t.free) = ([(7, none), (9, some .badValue)], 0, 1) := by
  decide +kernel

/-- R57, R134: with every unit PARTIAL or DONE the strip of a HELD program stays in BONDING, and enters CHECKING at the release. -/
theorem test_held_strip_is_checked_at_the_release :
    let s := { holding (claiming { state := .partial_ }) with heads := ⟨{}, {}⟩ }
    let t := stepped (.programRelease 9 0) s
    ((evaluateChecking s).trc.bond.map (·.state), t.trc.bond.map (·.state), t.vcu.scan) =
    (some .bonding, some .checking, some .stopped) := by
  decide +kernel

/-- R153: while an ejection holds the last free slot of a READY magazine, value 19 shows that slot. -/
theorem test_next_free_slot_stands_during_the_ejection :
    let s := { feeding with fdc := { feeding.fdc with outNext := some 39, fill := some 39 }, trc := { post := some (strip160 .done) } }
    let t := stepped .ejectGrant s
    (t.fdc.reserved, t.fdc.freeFrom, formatValue (.decimal 0) 3 (t.catalogue 19 0).1) = (some 39, none, " 39".toList) := by
  decide +kernel

/-- R169, R170: when the oldest request has been taken, LIF answers the one behind it that no block takes. -/
theorem test_lif_refuses_what_becomes_the_oldest :
    let t := stepped (.countersClear 7) asked
    (t.replyLine.map fun m => (m.tag, m.op, m.answer.result), t.lif.requests) = ([(7, 16, .ok), (8, 99, .badOp)], []) := by
  decide +kernel

end Sys2Proof.Tests
end

section
/-! SUPPORT. Rules about strip records, how the event of a field node comes to its block, and what the alarms leave of the feed, the
track and the tables. -/

namespace Sys2Proof.Machine

variable {s : State}

/-! ### Strip records at their positions -/

theorem modStrip_eq {p : Position} {r : StripRecord} (h : s.strip p = some r) (f : StripRecord → StripRecord) :
    s.modStrip p f = s.setStrip p (some (f r)) := by
  rw [State.modStrip, h, Option.map_some]

theorem setStrip_setStrip (p : Position) (r r' : Option StripRecord) (s : State) :
    (s.setStrip p r).setStrip p r' = s.setStrip p r' := by
  cases p <;> rfl

theorem setStrip_self (p : Position) (s : State) : s.setStrip p (s.strip p) = s := by
  cases p <;> rfl

theorem notify_setStrip (n : Notice) (p : Position) (r : Option StripRecord) (s : State) :
    (notify n s).setStrip p r = notify n (s.setStrip p r) := by
  simp only [notify_eq]
  cases p <;> rfl

theorem strip_notify (n : Notice) (p : Position) (s : State) : (notify n s).strip p = s.strip p := by
  rw [notify_eq]
  cases p <;> rfl

/-! ### The strip with a sequence number -/

theorem findStrip_eq_none {seq : Nat} (h : ∀ r ∈ s.strips, r.seq ≠ seq) : s.findStrip seq = none := by
  refine List.findSome?_eq_none_iff.mpr fun p _ => ?_
  split
  · rename_i r hr
    refine if_neg (h r ?_)
    cases p <;> simp_all [State.strips, State.strip]
  · rfl

/-- The one strip with a sequence number is found. -/
theorem findStrip_eq_some {seq : Nat} {p : Position} {r : StripRecord} (hr : s.strip p = some r) (hs : r.seq = seq)
    (only : ∀ q x, s.strip q = some x → x.seq = seq → q = p) : s.findStrip seq = some (p, r) := by
  cases h : s.findStrip seq with
  | some x =>
    obtain ⟨q, _, hq⟩ := List.exists_of_findSome?_eq_some h
    split at hq
    · rename_i y hy
      split at hq
      · obtain rfl := only q y hy ‹_›
        rw [hr] at hy
        cases hy; cases hq; rfl
      · cases hq
    · cases hq
  | none =>
    have := List.findSome?_eq_none_iff.mp h p (by cases p <;> simp)
    simp [hr, hs] at this

/-! ### The event of a field node (R165) -/

/-- The kinds from 0x40 on are no own kinds (R163). -/
theorem isOwnKind_lt {k : Byte} (h : isOwnKind k = true) : k.toNat < 64 := by
  have all : ∀ k ∈ definedKinds, k.toNat < 64 := by decide
  exact all k (List.contains_iff_mem.mp h)

/-- A frame of an own kind from a node that the part hears comes to its role's block. -/
theorem fieldArrive_of_hears {f : LinkFrame} {r : Role} {answer : Bool} (h : s.hears f.src r answer) (hk : isOwnKind f.kind = true)
    (ha : answer = true → isAnswer r f = true) : fieldArrive f s = deliver r f s := by
  obtain ⟨_, hr, ho, hc⟩ := h
  have pass : s.kindAction f.kind ≠ .drop := by simp [State.kindAction, isOwnKind_lt hk]
  have heard : (!s.onlyExtended r || isAnswer r f) = true := by
    rcases hc with hc | hc
    · simp [ha hc]
    · cases r <;> simp [State.onlyExtended, hc]
  have hcons : s.consumes (s.roleAt f.src.toNat) f = true := by rw [hr]; simp [State.consumes, hk, ho, heard]
  rw [fieldArrive, if_neg pass, if_pos hcons, hr]

/-- What a command of a field node's event leads to: the work of its role's block. -/
theorem fieldArrive_ends {f : LinkFrame} {r : Role} {answer : Bool} {x : State} (h : s.hears f.src r answer)
    (hk : isOwnKind f.kind = true) (ha : answer = true → isAnswer r f = true) (hx : deliver r f s = x) :
    Ends (act (fieldArrive f) s) x :=
  act_ends_of_eq h.1 ((fieldArrive_of_hears h hk ha).trans hx)

section
variable {src : Byte} {x : State}

theorem magIn_ends {m : SlotMap} (h : s.hears src .feedIn false) (hx : onMagIn m s = x) : Ends (exec (.magIn src m) s) x :=
  fieldArrive_ends h rfl nofun hx

theorem magOut_ends (h : s.hears src .feedIn false) (hx : onMagOut s = x) : Ends (exec (.magOut src) s) x :=
  fieldArrive_ends h rfl nofun hx

theorem stripIn_ends {c : Option StripCode} (h : s.hears src .feedIn true) (hx : onStripIn c s = x) :
    Ends (exec (.stripIn src c) s) x :=
  fieldArrive_ends h rfl (fun _ => rfl) hx

theorem feedFault_ends (h : s.hears src .feedIn true) (hx : onFeedFault s = x) : Ends (exec (.feedFault src) s) x :=
  fieldArrive_ends h rfl (fun _ => rfl) hx

theorem outputMagIn_ends {m : SlotMap} (h : s.hears src .feedOut false) (hx : onOutMagIn m s = x) :
    Ends (exec (.outputMagIn src m) s) x :=
  fieldArrive_ends h rfl nofun hx

theorem outputMagOut_ends (h : s.hears src .feedOut false) (hx : onOutMagOut s = x) : Ends (exec (.outputMagOut src) s) x :=
  fieldArrive_ends h rfl nofun hx

theorem ejected_ends {n : Nat} (h : s.hears src .feedOut true) (hx : onEjected n s = x) : Ends (exec (.ejected src n) s) x :=
  fieldArrive_ends h rfl (fun _ => rfl) hx

theorem moveDone_ends {o : Origin} {n : Byte} (h : s.hears src .track true) (hx : onMoveDone o n s = x) :
    Ends (exec (.moveDone src o n) s) x :=
  fieldArrive_ends h rfl (fun _ => rfl) hx

end

/-! ### What the alarms leave

Raising, clearing and removing an alarm touches the alarm list, the notices and the tiles that show it, and, where a stop effect
on a head ends or begins, the heads and what they claim. -/

/-- The state without what the alarms may touch. -/
def State.apart (s : State) : State :=
  { s with heads := ⟨{}, {}⟩, vcu := {}, alc := {}, free := 0, usc := { s.usc with units := none }, lif := s.link
           tmc := { s.tmc with terms := ⟨{}, {}, {}, {}⟩ } }

@[simp] theorem notify_apart (n : Notice) (s : State) : (notify n s).apart = s.apart := by
  rw [notify_eq]; split <;> rfl

@[simp] theorem sendOwn_apart (r : Role) (b : OwnBody) (s : State) : (sendOwn r b s).apart = s.apart := by
  rw [sendOwn_eq]; rfl

@[simp] theorem modHead_apart (h : Head) (f : HeadCtx → HeadCtx) (s : State) : (s.modHead h f).apart = s.apart := rfl

@[simp] theorem modTerm_apart (t : Term) (f : TermState → TermState) (s : State) : (s.modTerm t f).apart = s.apart := rfl

@[simp] theorem modUnit_apart (u : Nat) (f : UnitRecord → UnitRecord) (s : State) : (s.modUnit u f).apart = s.apart := rfl

@[simp] theorem setAlarms_apart (l : List AlarmEntry) (s : State) : (s.setAlarms l).apart = s.apart := rfl

@[simp] theorem clearVotes_apart (h : Head) (s : State) : (clearVotes h s).apart = s.apart := rfl

@[simp] theorem setHeadState_apart (h : Head) (st : HeadState) (s : State) : (setHeadState h st s).apart = s.apart := rfl

@[simp] theorem holdForProgram_apart (h : Head) (s : State) : (holdForProgram h s).apart = s.apart := rfl

@[simp] theorem awaitEvent_apart (h : Head) (e : AwaitedEvent) (ms : Nat) (s : State) : (awaitEvent h e ms s).apart = s.apart := rfl

@[simp] theorem commandHead_apart (h : Head) (c : HeadCmd) (s : State) : (commandHead h c s).apart = s.apart := by
  simp [commandHead, sendHeadCmd]

@[simp] theorem startWire_apart (h : Head) (u : Nat) (s : State) : (startWire h u s).apart = s.apart := by
  unfold startWire
  split
  · split <;> simp
  · rfl

@[simp] theorem askUnit_apart (h : Head) (s : State) : (askUnit h s).apart = s.apart := by
  unfold askUnit claimUnit
  repeat' split
  all_goals simp

@[simp] theorem leaveHold_apart (h : Head) (s : State) : (leaveHold h s).apart = s.apart := by
  unfold leaveHold enterIdle
  split <;> simp

@[simp] theorem removeReason_apart (r : HoldReason) (h : Head) (s : State) : (removeReason r h s).apart = s.apart := by
  unfold removeReason
  dsimp only
  repeat' split
  all_goals simp

@[simp] theorem addReason_apart (r : HoldReason) (h : Head) (s : State) : (addReason r h s).apart = s.apart := by
  unfold addReason; split <;> rfl

theorem eachHead_apart {f : Head → State → State} (hf : ∀ h s, (f h s).apart = s.apart) (s : State) :
    (eachHead f s).apart = s.apart := by
  unfold eachHead
  split
  · rw [hf, hf]
  · dsimp only
    split <;> exact (hf _ _).trans (hf _ _)

@[simp] theorem effectEnded_apart (sc : AlarmScope) (s : State) : (effectEnded sc s).apart = s.apart := by
  have drop (h : Head) (s : State) : (dropAlarmReason h s).apart = s.apart := by unfold dropAlarmReason; split <;> simp
  unfold effectEnded
  split
  · exact drop _ s
  · exact eachHead_apart drop s
  all_goals rfl

@[simp] theorem becomeEffective_apart (c : AlarmCode) (sc : AlarmScope) (s : State) :
    (becomeEffective c sc s).apart = s.apart := by
  unfold becomeEffective
  repeat' split
  all_goals simp

@[simp] theorem forceAlarmTiles_apart (k : Nat) (s : State) : (eachTerm (forceAlarmTiles k) s).apart = s.apart := by
  have h (t : Term) (s : State) : (forceAlarmTiles k t s).apart = s.apart := by unfold forceAlarmTiles; split <;> rfl
  simp [eachTerm, h]

@[simp] theorem removeAlarm_apart (i : Nat) (s : State) : (removeAlarm i s).apart = s.apart := by
  unfold removeAlarm alarmNotice
  split
  · dsimp only
    split <;> simp
  · rfl

@[simp] theorem raiseAlarm_apart (c : AlarmCode) (sc : AlarmScope) (d : Nat) (s : State) :
    (raiseAlarm c sc d s).apart = s.apart := by
  have appended (s : State) : (appendAlarm c sc d s).apart = s.apart := by simp [appendAlarm, alarmNotice]
  unfold raiseAlarm
  split
  · split
    · simp only [repeatAlarm, alarmNotice]
      split <;> simp
    · rfl
  · split
    · exact appended s
    · split
      · simp [appended]
      · exact notify_apart _ _

@[simp] theorem clearAlarm_apart (c : AlarmCode) (sc : AlarmScope) (s : State) : (clearAlarm c sc s).apart = s.apart := by
  unfold clearAlarm
  split
  · split
    · split
      · simp [alarmNotice]
      · exact removeAlarm_apart _ s
      · rfl
    · rfl
  · rfl

/-- States that agree apart from the alarms have the same track and feed, parameters, pull data, programs and wires. -/
theorem apart_fields {s t : State} (h : t.apart = s.apart) :
    t.ccs = s.ccs ∧ t.fdc = s.fdc ∧ t.trc = s.trc ∧ t.plm = s.plm ∧ t.usc.programs = s.usc.programs :=
  ⟨(congrArg State.ccs h :), (congrArg State.fdc h :), (congrArg State.trc h :), (congrArg State.plm h :),
    (congrArg (·.usc.programs) h :)⟩

end Sys2Proof.Machine
end

section
/-! SUPPORT. The checks on the entries of the lot, program, wire and recipe tables (R2, R42 to R44, R80). -/

namespace Sys2Proof.Machine

variable {s : State}

/-! ### Lists of checks -/

theorem firstBroken_cons (b : Bool) (c : ResultCode) (l : List (Bool × ResultCode)) :
    firstBroken ((b, c) :: l) = if b then firstBroken l else some c := by
  cases b <;> simp [firstBroken]

/-- Checks that all answer BAD_VALUE answer it exactly where one of them fails. -/
theorem firstBroken_badValue {l : List (Bool × ResultCode)} {fits : Prop} (hl : l.Forall (·.2 = .badValue))
    (hf : l.Forall (·.1 = true) ↔ fits) : (¬fits → firstBroken l = some .badValue) ∧ (fits → firstBroken l = none) := by
  rw [← hf]
  clear hf
  induction l with
  | nil => exact ⟨fun h => absurd trivial h, fun _ => rfl⟩
  | cons x l ih =>
    obtain ⟨b, c⟩ := x
    obtain ⟨rfl, tail⟩ := (List.forall_cons _ _ _).mp hl
    rw [firstBroken_cons, List.forall_cons]
    cases b
    · exact ⟨fun _ => rfl, fun h => absurd h.1 Bool.false_ne_true⟩
    · simpa using ih tail

/-- The same behind the check that the entry is not in use (R44). -/
theorem firstBroken_inUse {b : Bool} {l : List (Bool × ResultCode)} {busy fits : Prop} (hl : l.Forall (·.2 = .badValue))
    (hb : b = true ↔ busy) (hf : l.Forall (·.1 = true) ↔ fits) :
    (busy → firstBroken ((!b, .inUse) :: l) = some .inUse) ∧ (¬busy → ¬fits → firstBroken ((!b, .inUse) :: l) = some .badValue) ∧
    (¬busy → fits → firstBroken ((!b, .inUse) :: l) = none) := by
  obtain ⟨bad, good⟩ := firstBroken_badValue hl hf
  rw [← hb, firstBroken_cons]
  cases b
  · exact ⟨nofun, fun _ => bad, fun _ => good⟩
  · exact ⟨fun _ => rfl, fun h => absurd rfl h, fun h => absurd rfl h⟩

theorem inRange_iff {lo hi n : Nat} : inRange lo hi n = true ↔ lo ≤ n ∧ n ≤ hi := by simp [inRange]

theorem inRangeInt_iff {lo hi n : Int} : inRangeInt lo hi n = true ↔ lo ≤ n ∧ n ≤ hi := by simp [inRangeInt]

/-! ### In use (R44) -/

theorem inUse_iff {p : Nat} :
    s.inUse p = true ↔ (∃ r ∈ s.strips, r.program = p) ∨ ∃ x, s.fdc.push = some x ∧ x.program = p := by
  unfold State.inUse
  cases s.fdc.push <;> simp

theorem covers_iff {e : ProgramEntry} {i : Nat} : covers e i = true ↔ e.firstWire ≤ i ∧ i < e.firstWire + e.wireCount := by
  simp [covers]

theorem mem_wiresOf {e : ProgramEntry} {w : WireEntry} :
    w ∈ s.wiresOf e ↔ ∃ i, (e.firstWire ≤ i ∧ i < e.firstWire + e.wireCount) ∧ s.usc.wires[i]? = some w := by
  unfold State.wiresOf
  rw [List.mem_iff_getElem?]
  constructor
  · rintro ⟨i, h⟩
    rw [List.getElem?_take] at h
    split at h
    · exact ⟨e.firstWire + i, by omega, by rwa [List.getElem?_drop] at h⟩
    · cases h
  · rintro ⟨i, h, hw⟩
    exact ⟨i - e.firstWire, by
      rw [List.getElem?_take, if_pos (by omega), List.getElem?_drop, Nat.add_sub_cancel' h.1, hw]⟩

/-- The wires of a program's range and the recipes they name are valid (R42 steps 5 and 6). -/
theorem wiresValid_iff {e : ProgramEntry} :
    ((s.wiresOf e).all (·.valid) = true ∧
      (s.wiresOf e).all (fun w => s.recipeValid w.ballRecipe && s.recipeValid w.stitchRecipe) = true) ↔
    ∀ i w, e.firstWire ≤ i → i < e.firstWire + e.wireCount → s.usc.wires[i]? = some w →
      w.valid = true ∧ (s.recipe w.ballRecipe).valid = true ∧ (s.recipe w.stitchRecipe).valid = true := by
  simp only [List.all_eq_true, mem_wiresOf, Bool.and_eq_true, State.recipeValid]
  constructor
  · rintro ⟨hv, hr⟩ i w h1 h2 hw
    exact ⟨hv w ⟨i, ⟨h1, h2⟩, hw⟩, hr w ⟨i, ⟨h1, h2⟩, hw⟩⟩
  · intro h
    exact ⟨fun w ⟨i, hi, hw⟩ => (h i w hi.1 hi.2 hw).1, fun w ⟨i, hi, hw⟩ => (h i w hi.1 hi.2 hw).2⟩

theorem wireInUse_iff {i : Nat} :
    s.wireInUse i = true ↔ ∃ p < 8, ((∃ r ∈ s.strips, r.program = p) ∨ ∃ x, s.fdc.push = some x ∧ x.program = p) ∧
      (s.program p).firstWire ≤ i ∧ i < (s.program p).firstWire + (s.program p).wireCount := by
  simp only [← inUse_iff, ← covers_iff, State.wireInUse, List.any_eq_true, List.mem_range, Bool.and_eq_true]

theorem wireNeeded_iff {i : Nat} :
    s.wireNeeded i = true ↔ ∃ p < 8, (s.program p).valid = true ∧ (s.program p).firstWire ≤ i ∧
      i < (s.program p).firstWire + (s.program p).wireCount := by
  simp only [← covers_iff, State.wireNeeded, List.any_eq_true, List.mem_range, Bool.and_eq_true]

theorem names_iff {e : ProgramEntry} {k : Nat} :
    s.names e k = true ↔ ∃ i w, (e.firstWire ≤ i ∧ i < e.firstWire + e.wireCount) ∧ s.usc.wires[i]? = some w ∧
      (w.ballRecipe = k ∨ w.stitchRecipe = k) := by
  simp only [State.names, List.any_eq_true, mem_wiresOf, Bool.or_eq_true, beq_iff_eq]
  constructor
  · rintro ⟨w, ⟨i, hi, hw⟩, hk⟩; exact ⟨i, w, hi, hw, hk⟩
  · rintro ⟨i, w, hi, hw, hk⟩; exact ⟨w, ⟨i, hi, hw⟩, hk⟩

theorem recipeInUse_iff {k : Nat} :
    s.recipeInUse k = true ↔ ∃ p < 8, ((∃ r ∈ s.strips, r.program = p) ∨ ∃ x, s.fdc.push = some x ∧ x.program = p) ∧
      ∃ i w, ((s.program p).firstWire ≤ i ∧ i < (s.program p).firstWire + (s.program p).wireCount) ∧
        s.usc.wires[i]? = some w ∧ (w.ballRecipe = k ∨ w.stitchRecipe = k) := by
  simp only [← inUse_iff, ← names_iff, State.recipeInUse, List.any_eq_true, List.mem_range, Bool.and_eq_true]

theorem recipeNeeded_iff {k : Nat} :
    s.recipeNeeded k = true ↔ ∃ p < 8, (s.program p).valid = true ∧
      ∃ i w, ((s.program p).firstWire ≤ i ∧ i < (s.program p).firstWire + (s.program p).wireCount) ∧
        s.usc.wires[i]? = some w ∧ (w.ballRecipe = k ∨ w.stitchRecipe = k) := by
  simp only [← names_iff, State.recipeNeeded, List.any_eq_true, List.mem_range, Bool.and_eq_true]

/-! ### The fields of an entry -/

theorem codeFits_iff {t : StripCode} :
    codeFits t = true ↔ t.length ≤ 16 ∧ ∀ b ∈ t, 0x20 ≤ b.toNat ∧ b.toNat ≤ 0x7E := by
  simp [codeFits, inRange_iff]

theorem segmentFits_iff {g : Segment} : segmentFits g = true ↔ g.setpoint ≤ 4095 ∧ 1 ≤ g.length ∧ g.length ≤ 4095 := by
  simp [segmentFits, inRange_iff]

/-- The conditions on a lot entry (R2). -/
theorem lotConditions_iff {e : LotWrite} :
    (e.expected.isSome = true ∧ e.program.all (fun p => decide (p < 8)) = true ∧
      (decide (e.expected ≠ some .occupied) || e.program.isSome) = true ∧
      (decide (e.expected ≠ some .occupied) || e.program.all fun p => (s.program p).valid) = true ∧
      (e.program.isSome || decide (e.skip = 0)) = true ∧ e.code.all codeFits = true) ↔
    e.expected ≠ none ∧ (∀ p, e.program = some p → p < 8) ∧
      (e.expected = some .occupied → ∃ p, e.program = some p ∧ (s.program p).valid = true) ∧ (e.program = none → e.skip = 0) ∧
      ∀ t, e.code = some t → t.length ≤ 16 ∧ ∀ b ∈ t, 0x20 ≤ b.toNat ∧ b.toNat ≤ 0x7E := by
  simp only [Option.all_eq_true, codeFits_iff, Option.isSome_iff_ne_none, Bool.or_eq_true, decide_eq_true_eq]
  cases e.program with
  | none => simp
  | some p => simp; tauto

/-- The conditions on a program entry that is written valid (R42). -/
theorem programConditions_iff {e : ProgramEntry} :
    ((!e.valid || programFits e) = true ∧ (!e.valid || decide (unitCount e ≤ 64)) = true ∧
      (!e.valid || decide (e.firstWire + e.wireCount ≤ 1536)) = true ∧ (!e.valid || (s.wiresOf e).all (·.valid)) = true ∧
      (!e.valid || (s.wiresOf e).all fun w => s.recipeValid w.ballRecipe && s.recipeValid w.stitchRecipe) = true) ↔
    (e.valid = true →
      e.firstWire ≤ 1535 ∧ 1 ≤ e.wireCount ∧ e.wireCount ≤ 384 ∧ 1 ≤ e.rows ∧ e.rows ≤ 8 ∧ 1 ≤ e.columns ∧ e.columns ≤ 16 ∧
      1 ≤ e.pitchX ∧ e.pitchX ≤ 65535 ∧ 1 ≤ e.pitchY ∧ e.pitchY ≤ 65535 ∧ -1000000 ≤ e.originX ∧ e.originX ≤ 1000000 ∧
      -1000000 ≤ e.originY ∧ e.originY ≤ 1000000 ∧ e.guard ≤ 3 ∧ e.rows * e.columns ≤ 64 ∧ e.firstWire + e.wireCount ≤ 1536 ∧
      ∀ i w, e.firstWire ≤ i → i < e.firstWire + e.wireCount → s.usc.wires[i]? = some w →
        w.valid = true ∧ (s.recipe w.ballRecipe).valid = true ∧ (s.recipe w.stitchRecipe).valid = true) := by
  rw [← wiresValid_iff]
  cases e.valid
  · simp
  · simp only [Bool.not_true, Bool.false_or, programFits, Bool.and_eq_true, inRange_iff, inRangeInt_iff, Nat.zero_le,
      true_and, and_assoc, decide_eq_true_eq, forall_const]
    rfl

/-- The conditions on a wire entry (R43). -/
theorem wireConditions_iff {i : Nat} {e : WireEntry} :
    (wireFits e = true ∧ (!s.wireNeeded i || e.valid) = true ∧
      (!s.wireNeeded i || (s.recipeValid e.ballRecipe && s.recipeValid e.stitchRecipe)) = true) ↔
    -32768 ≤ e.x1 ∧ e.x1 ≤ 32767 ∧ -32768 ≤ e.y1 ∧ e.y1 ≤ 32767 ∧ -32768 ≤ e.x2 ∧ e.x2 ≤ 32767 ∧ -32768 ≤ e.y2 ∧
      e.y2 ≤ 32767 ∧ e.dieLevel ≤ 3 ∧ e.loopCode ≤ 15 ∧ e.ballRecipe ≤ 31 ∧ e.stitchRecipe ≤ 31 ∧
      ((∃ p < 8, (s.program p).valid = true ∧ (s.program p).firstWire ≤ i ∧ i < (s.program p).firstWire + (s.program p).wireCount) →
        e.valid = true ∧ (s.recipe e.ballRecipe).valid = true ∧ (s.recipe e.stitchRecipe).valid = true) := by
  rw [← wireNeeded_iff]
  cases s.wireNeeded i <;>
  simp only [Bool.not_true, Bool.not_false, Bool.false_or, Bool.true_or, wireFits, State.recipeValid, Bool.and_eq_true, inRange_iff,
    inRangeInt_iff, Nat.zero_le, true_and, and_true, and_assoc, forall_const, Bool.false_eq_true, false_imp_iff]

/-- The conditions on a recipe entry (R80, R44). -/
theorem recipeConditions_iff {k : Nat} {e : RecipeEntry} :
    ((!e.valid || inRange 1 4 e.segCount) = true ∧ (!e.valid || (segmentsOf e).all segmentFits) = true ∧
      (!e.valid || decide (2 ≤ profileLength e)) = true ∧ (!e.valid || recipeFits e) = true ∧
      (e.valid || !s.recipeNeeded k) = true) ↔
    if e.valid then
      1 ≤ e.segCount ∧ e.segCount ≤ 4 ∧ (∀ g ∈ segmentsOf e, g.setpoint ≤ 4095 ∧ 1 ≤ g.length ∧ g.length ≤ 4095) ∧
      2 ≤ profileLength e ∧ e.baseDrive ≤ 1023 ∧ e.kp ≤ 65535 ∧ e.kpShift ≤ 15 ∧ e.ki ≤ 65535 ∧ e.kiShift ≤ 15 ∧
      e.epStart ≤ 255 ∧ e.ep ≤ 255 ∧ e.en ≤ 255 ∧ e.imax ≤ 8388607 ∧ e.dlow ≤ e.dhigh ∧ e.dhigh ≤ 1023 ∧ 1 ≤ e.sstep ∧
      e.sstep ≤ 255 ∧ 1 ≤ e.tstart ∧ e.tstart ≤ 255 ∧ e.ftrip ≤ 4095 ∧ 1 ≤ e.ntrip ∧ e.ntrip ≤ 15 ∧ e.emin ≤ e.emax ∧
      e.emax ≤ 4294967295 ∧ e.defMin ≤ 1023 ∧ 1 ≤ e.bondForce ∧ e.bondForce ≤ 255 ∧ e.retryCount ≤ 2
    else ¬∃ p < 8, (s.program p).valid = true ∧ ∃ i w,
      ((s.program p).firstWire ≤ i ∧ i < (s.program p).firstWire + (s.program p).wireCount) ∧ s.usc.wires[i]? = some w ∧
      (w.ballRecipe = k ∨ w.stitchRecipe = k) := by
  rw [← recipeNeeded_iff]
  have low : e.dlow ≤ 1023 ∧ e.dlow ≤ e.dhigh ∧ e.dhigh ≤ 1023 ↔ e.dlow ≤ e.dhigh ∧ e.dhigh ≤ 1023 := by omega
  have energy : e.emin ≤ 4294967295 ∧ e.emin ≤ e.emax ∧ e.emax ≤ 4294967295 ↔ e.emin ≤ e.emax ∧ e.emax ≤ 4294967295 := by omega
  cases e.valid
  · simp
  · simp only [Bool.not_true, Bool.false_or, Bool.true_or, recipeFits, Bool.and_eq_true, List.all_eq_true, inRange_iff,
      segmentFits_iff, Nat.zero_le, true_and, and_true, and_assoc, decide_eq_true_eq, if_true]
    tauto

/-- Settles O29: each check is a list of conditions, the in-use rule first (R44), and each list is said by its own lemma. -/
theorem feedAndBondEntriesAreChecked : Obligations.FeedAndBondEntriesAreChecked := by
  intro s
  refine ⟨fun e => ?_, fun p e => ?_, fun i e => ?_, fun k e => ?_⟩
  · suffices h : (¬_ → _) ∧ (_ → _) from ⟨False.elim, fun _ => h.1, fun _ => h.2⟩
    exact firstBroken_badValue (by simp) lotConditions_iff
  · exact firstBroken_inUse (by simp) inUse_iff programConditions_iff
  · exact firstBroken_inUse (by simp) wireInUse_iff wireConditions_iff
  · exact firstBroken_inUse (by simp) recipeInUse_iff recipeConditions_iff

end Sys2Proof.Machine
end

section
/-! SUPPORT. The searches over slots (R5, R9, R15), the load check, SLOT_OP and the magazines' events (R4 to R9, R15, R17). -/

namespace Sys2Proof.Machine

variable {s : State}

/-! ### Searches in a direction (R9, R15) -/

/-- Slot `n` lies at `p` or after it in direction `d`. -/
abbrev onward (d : Direction) (p n : Nat) : Prop := if d = .up then p ≤ n else n ≤ p

theorem onward_of_not {d : Direction} {a b : Nat} (h : ¬onward d b a) : onward d a b := by
  cases d <;> simp only [onward, if_true, reduceCtorEq, if_false] at * <;> omega

theorem mem_slotsFrom {d : Direction} {p n : Nat} : n ∈ slotsFrom d p ↔ n < 40 ∧ onward d p n := by
  cases d <;> simp [slotsFrom, Config.slots]

/-- The slots of a search stand in its order. -/
theorem slotsFrom_pairwise (d : Direction) (p : Nat) : (slotsFrom d p).Pairwise fun a b => ¬onward d b a := by
  cases d
  · simpa [slotsFrom, onward] using List.pairwise_lt_range.filter _
  · simpa [slotsFrom, onward, List.pairwise_reverse] using List.pairwise_lt_range.filter _

/-- In a list in order, `find?` gives the least of the entries that hold. -/
theorem find?_eq_some_iff_of_pairwise {l : List Nat} {le : Nat → Nat → Prop} (refl : ∀ a, le a a)
    (hl : l.Pairwise fun a b => ¬le b a) (total : ∀ a b, ¬le b a → le a b) {q : Nat → Bool} {n : Nat} :
    l.find? q = some n ↔ (n ∈ l ∧ q n = true) ∧ ∀ m ∈ l, q m = true → le n m := by
  induction l with
  | nil => simp
  | cons x xs ih =>
    obtain ⟨hx, hxs⟩ := List.pairwise_cons.mp hl
    cases hq : q x with
    | false =>
      rw [List.find?_cons_of_neg (by simp [hq]), ih hxs]
      have other (hn : q n = true) : n ≠ x := by rintro rfl; simp [hq] at hn
      constructor
      · rintro ⟨⟨hn, hqn⟩, least⟩
        exact ⟨⟨List.mem_cons_of_mem _ hn, hqn⟩, List.forall_mem_cons.mpr ⟨fun h => absurd (hq.symm.trans h) nofun, least⟩⟩
      · rintro ⟨⟨hn, hqn⟩, least⟩
        exact ⟨⟨List.mem_of_ne_of_mem (other hqn) hn, hqn⟩, (List.forall_mem_cons.mp least).2⟩
    | true =>
      rw [List.find?_cons_of_pos hq, Option.some_inj]
      constructor
      · rintro rfl
        refine ⟨⟨List.mem_cons_self .., hq⟩, List.forall_mem_cons.mpr ⟨fun _ => refl _, fun m hm _ => total _ _ (hx m hm)⟩⟩
      · rintro ⟨⟨hn, _⟩, least⟩
        rcases List.mem_cons.mp hn with rfl | hn
        · rfl
        · exact absurd (least x (List.mem_cons_self ..) hq) (hx n hn)

/-- What the search for a slot finds: the first that holds from `p` on. -/
theorem find?_slotsFrom_eq_some {d : Direction} {p n : Nat} {q : Nat → Bool} :
    (slotsFrom d p).find? q = some n ↔
      ((n < 40 ∧ onward d p n) ∧ q n = true) ∧ ∀ m, m < 40 ∧ onward d p m → q m = true → onward d n m := by
  rw [find?_eq_some_iff_of_pairwise (le := onward d) (by simp [onward]) (slotsFrom_pairwise d p)
    fun _ _ => onward_of_not]
  simp only [mem_slotsFrom]

theorem find?_slotsFrom_eq_none {d : Direction} {p : Nat} {q : Nat → Bool} :
    (slotsFrom d p).find? q = none ↔ ∀ n, n < 40 ∧ onward d p n → ¬q n = true := by
  simp only [List.find?_eq_none, mem_slotsFrom]

/-- A search from a pointer, where there is one: the first slot that holds, and none where no slot holds. -/
theorem search_spec {d : Direction} {pointer : Option Nat} {q : Nat → Bool} {found : Option Nat} {holds : Nat → Prop}
    (hf : found = pointer.bind fun p => (slotsFrom d p).find? q)
    (hq : ∀ n, holds n ↔ n < 40 ∧ q n = true ∧ ∃ p, pointer = some p ∧ onward d p n) :
    (∀ n, found = some n ↔ holds n ∧ ∀ m, holds m → onward d n m) ∧ (found = none ↔ ∀ n, ¬holds n) := by
  subst hf
  simp only [hq]
  cases pointer with
  | none => simp
  | some p =>
    simp only [Option.bind_some, find?_slotsFrom_eq_some, find?_slotsFrom_eq_none, Option.some.injEq, exists_eq_left']
    constructor
    · intro n; constructor
      · rintro ⟨⟨⟨h1, h2⟩, h3⟩, h4⟩; exact ⟨⟨h1, h3, h2⟩, fun m ⟨k1, k2, k3⟩ => h4 m ⟨k1, k3⟩ k2⟩
      · rintro ⟨⟨h1, h3, h2⟩, h4⟩; exact ⟨⟨⟨h1, h2⟩, h3⟩, fun m ⟨k1, k3⟩ k2 => h4 m ⟨k1, k2, k3⟩⟩
    · exact forall_congr' fun n => by tauto

/-! ### The input magazine (R8, R9) -/

theorem candidate_iff {m : SlotMarks} :
    m.candidate = true ↔ m.sensed = .occupied ∧ m.skipped = false ∧ m.push = .notPushed := by
  simp [SlotMarks.candidate, and_assoc]

/-- Settles O37: the next slot is what a search from the pointer finds, and the rest is the model's own reading of R8 and R9. -/
theorem theNextSlotIsTheFirstCandidate : Obligations.TheNextSlotIsTheFirstCandidate := by
  intro s
  refine ⟨search_spec (pointer := s.fdc.pointer) (q := fun n => (s.fdc.marks.getD n {}).candidate) ?_ fun n => ?_, fun n => rfl, rfl⟩
  · unfold State.nextSlot; cases s.fdc.pointer <;> rfl
  · simp only [candidate_iff, and_assoc]

/-! ### The load check (R5) -/

theorem mismatch_iff {f : Fdc} {n : Nat} :
    f.mismatch n = true ↔ (f.marks.getD n {}).masked = false ∧ (f.lot.getD n {}).expected ≠ (f.marks.getD n {}).sensed := by
  simp [Fdc.mismatch]

/-- The compare is a search upwards from the scan resume slot. -/
theorem firstMismatch_eq (f : Fdc) : f.firstMismatch = (slotsFrom .up f.resume).find? f.mismatch := by
  rw [slotsFrom, List.find?_filter, Fdc.firstMismatch]
  simp

/-- Slot `n` of those from the scan resume slot on fails the masked compare (R5 step 1). -/
def Fdc.fails (f : Fdc) (n : Nat) : Prop :=
  n < 40 ∧ f.resume ≤ n ∧ (f.marks.getD n {}).masked = false ∧ (f.lot.getD n {}).expected ≠ (f.marks.getD n {}).sensed

theorem firstMismatch_spec (f : Fdc) :
    (∀ n, f.firstMismatch = some n ↔ f.fails n ∧ ∀ m, f.fails m → n ≤ m) ∧ (f.firstMismatch = none ↔ ∀ n, ¬f.fails n) :=
  search_spec (d := .up) (pointer := some f.resume) (firstMismatch_eq f) fun n => by
    simp only [Fdc.fails, mismatch_iff, Option.some.injEq, exists_eq_left']
    tauto

/-- The mask that a stop sets leaves the slot's sensed occupancy (R5 step 3). -/
theorem sensed_modMark_masked (f : Fdc) (n : Nat) :
    ((f.modMark n fun m => { m with masked := true }).marks.getD n {}).sensed = (f.marks.getD n {}).sensed := by
  simp only [Fdc.modMark, modifyAt, List.getD_eq_getElem?_getD, List.getElem?_modify_eq]
  cases f.marks[n]? <;> rfl

theorem stopCheck_eq (n : Nat) (s : State) :
    stopCheck n s = notify (.decision (.slotMismatch n (s.fdc.lot.getD n {}).expected (s.fdc.marks.getD n {}).sensed))
      (raiseAlarm .slotMismatch .feeder n { s with fdc := { s.fdc with
        marks := s.fdc.marks.modify n fun m => { m with masked := true }, pendingSlot := some n, resume := n + 1 } }) := by
  rw [← sensed_modMark_masked]
  rfl

/-- The check completes where no slot fails, and stops at the first that does (R5). -/
theorem loadCheck_of_none (h : ∀ n, ¬s.fdc.fails n) : loadCheck s = becomeReady s := by
  rw [loadCheck, (firstMismatch_spec s.fdc).2.mpr h]

theorem loadCheck_of_first {n : Nat} (h : s.fdc.fails n) (first : ∀ m, s.fdc.fails m → n ≤ m) : loadCheck s = stopCheck n s := by
  rw [loadCheck, ((firstMismatch_spec s.fdc).1 n).mpr ⟨h, first⟩]

/-- Settles O35: the two events set the marks and leave EXHAUSTED; the check is the search of `firstMismatch_spec`. -/
theorem magazinesAreCheckedSlotBySlot : Obligations.MagazinesAreCheckedSlotBySlot :=
  ⟨fun _ _ h => ⟨fun _ => magIn_ends h rfl, magOut_ends h rfl⟩,
   fun _ => ⟨loadCheck_of_none, fun n h first => (loadCheck_of_first h first).trans (stopCheck_eq n _)⟩⟩

/-! ### SLOT_OP (R6) -/

/-- What SLOT_OP answers (R6). -/
def slotResult (n : Nat) (s : State) : ResultCode :=
  if 40 ≤ n then .badIndex
  else if s.fdc.mag ≠ .scanning ∨ s.fdc.pendingSlot = none then .badState
  else if s.fdc.pendingSlot ≠ some n then .notFound else .ok

theorem onSlotOp_eq (d : SlotOp) (n : Nat) (s : State) :
    onSlotOp d n s =
      (if slotResult n s = .ok then
        loadCheck { s with fdc := { s.fdc with
          pendingSlot := none
          marks := if d = .skipSlot then s.fdc.marks.modify n fun m => { m with skipped := true } else s.fdc.marks } }
       else s, { result := slotResult n s }) := by
  unfold onSlotOp slotResult Config.slots
  split
  · rfl
  · split
    · rfl
    · split
      · rfl
      · cases d <;> rfl

/-- Settles O36, by the one equation of SLOT_OP. -/
theorem slotDecisionsResumeTheCheck : Obligations.SlotDecisionsResumeTheCheck :=
  fun _ u tag n => ⟨serves_of_eq (f := onSlotOp .acceptSensed n) (exec_slotOpAcceptSensed tag n _) (onSlotOp_eq .acceptSensed n u),
    serves_of_eq (f := onSlotOp .skipSlot n) (exec_slotOpSkipSlot tag n _) (onSlotOp_eq .skipSlot n u)⟩

/-! ### The output magazine (R15, R17) -/

/-- The search for a free slot (R15). -/
theorem freeFrom_spec (f : Fdc) :
    let free (n : Nat) : Prop := n < 40 ∧ f.outFull.getLsbD n = false ∧ f.reserved ≠ some n ∧
      ∃ p, f.fill = some p ∧ if f.outDir = .up then p ≤ n else n ≤ p
    (∀ n, f.freeFrom = some n ↔ free n ∧ ∀ m, free m → if f.outDir = .up then n ≤ m else m ≤ n) ∧
    (f.freeFrom = none ↔ ∀ n, ¬free n) := by
  refine search_spec (pointer := f.fill) (q := fun n => !f.outFull.getLsbD n && decide (f.reserved ≠ some n)) ?_ fun n => ?_
  · unfold Fdc.freeFrom; cases f.fill <;> rfl
  · simp only [Bool.and_eq_true, Bool.not_eq_true', decide_eq_true_eq, and_assoc]

/-- The map of full slots that a MAG_IN leaves: a reserved slot keeps its mark clear (R15). -/
def Fdc.keptMap (f : Fdc) (sensed : SlotMap) : SlotMap :=
  match f.reserved with
  | some n => sensed &&& ~~~(1#40 <<< n)
  | none => sensed

theorem getLsbD_keptMap (f : Fdc) (sensed : SlotMap) (n : Nat) :
    (f.keptMap sensed).getLsbD n = (sensed.getLsbD n && decide (f.reserved ≠ some n)) := by
  unfold Fdc.keptMap
  cases f.reserved with
  | none => simp
  | some k =>
    have bit : (1#40 <<< k).getLsbD n = (decide (n < 40) && decide (k = n)) := by
      rw [BitVec.getLsbD_shiftLeft, BitVec.getLsbD_one]
      grind
    rw [BitVec.getLsbD_and, BitVec.getLsbD_not, bit]
    by_cases hn : n < 40
    · simp [hn]
    · simp [BitVec.getLsbD_of_ge _ _ (Nat.le_of_not_lt hn)]

/-- The magazine is FULL where the search finds no slot, and READY where it does (R15, R16). -/
theorem outSearch_eq (t : State) :
    (if t.fdc.freeFrom.isSome then becomeOutReady t else becomeFull t) =
      if t.fdc.freeFrom = none then becomeFull t else becomeOutReady t := by
  cases h : t.fdc.freeFrom <;> simp

/-- A MAG_IN sets the map of full slots, the fill pointer and the direction, and searches (R15). -/
theorem onOutMagIn_eq (sensed : SlotMap) (s : State) :
    let t : State := { s with fdc := { s.fdc with
      outFull := s.fdc.keptMap sensed, fill := some s.ccs.params.outStart, outDir := s.ccs.params.outDir } }
    onOutMagIn sensed s = if t.fdc.freeFrom = none then becomeFull t else becomeOutReady t :=
  outSearch_eq _

/-- Settles O42: both searches of the output magazine are `freeFrom_spec`, and the map that a MAG_IN keeps is `keptMap`. -/
theorem theOutputMagazineFindsItsFreeSlot : Obligations.TheOutputMagazineFindsItsFreeSlot :=
  ⟨fun f n => ⟨(freeFrom_spec f).1 n, (freeFrom_spec f).2⟩,
   fun s _ h => ⟨fun sensed => ⟨s.fdc.keptMap sensed, getLsbD_keptMap s.fdc sensed, outputMagIn_ends h (onOutMagIn_eq sensed s)⟩,
    outputMagOut_ends h rfl⟩⟩

end Sys2Proof.Machine
end

section
/-! SUPPORT. The arbiter and its grants (R10, R11, R16, R25 to R30). -/

namespace Sys2Proof.Machine

variable {s : State}

/-! ### When the requests stand (R10, R25, R27) -/

theorem stopped_iff {sc : AlarmScope} :
    s.stopped sc = true ↔ ∃ e ∈ s.alc.list, isStop e.code = true ∧ e.scope = sc ∧ e.state ≠ .activeAcked := by
  simp only [State.stopped, AlarmEntry.effective, List.any_eq_true, Bool.and_eq_true, decide_eq_true_eq]
  exact exists_congr fun e => and_congr_right fun _ => by tauto

theorem movesFree_iff :
    s.movesFree = true ↔ (s.ccs.cell = .run ∨ s.ccs.cell = .drain) ∧ s.ccs.feedPause = false ∧ ¬s.stopped .track = true ∧
      ¬s.stopped .cell = true := by
  simp [State.movesFree, State.working, and_assoc]

theorem pulling_eq_false_iff {seq : Nat} : s.pulling seq = false ↔ ∀ q, s.plm.req = some q → q.seq ≠ seq := by
  unfold State.pulling
  cases s.plm.req <;> simp

theorem ejectStands_iff :
    s.ejectStands = true ↔ s.movesFree = true ∧ s.fdc.out = .ready ∧
      ∃ r, s.trc.post = some r ∧ if r.scrapped then ∀ q, s.plm.req = some q → q.seq ≠ r.seq else r.state = .done := by
  simp only [State.ejectStands, Bool.and_eq_true, decide_eq_true_eq, and_assoc]
  cases s.trc.post with
  | none => simp
  | some r => cases h : r.scrapped <;> simp [h, pulling_eq_false_iff]

theorem moveBpStands_iff :
    s.moveBpStands = true ↔ s.movesFree = true ∧ s.trc.post = none ∧
      ∃ r, s.trc.bond = some r ∧ (r.state = .released ∨ r.scrapped = true ∧ s.claimOf .a = none ∧ s.claimOf .b = none) := by
  simp only [State.moveBpStands, State.anyClaim, Bool.and_eq_true, Option.isNone_iff_eq_none, and_assoc]
  cases s.trc.bond <;> simp

theorem movePbStands_iff :
    s.movePbStands = true ↔ s.movesFree = true ∧ s.trc.bond = none ∧
      ∃ r, s.trc.preheat = some r ∧ if r.scrapped then r.state ≠ .ejecting else r.state = .waitBond := by
  simp only [State.movePbStands, Bool.and_eq_true, Option.isNone_iff_eq_none, and_assoc]
  cases s.trc.preheat with
  | none => simp
  | some r => cases h : r.scrapped <;> simp [h]

theorem pushStands_iff :
    s.pushStands = true ↔ s.ccs.cell = .run ∧ (s.fdc.mag = .ready ∨ s.fdc.mag = .feeding) ∧ s.ccs.feedPause = false ∧
      s.trc.preheat = none ∧ s.fdc.push = none ∧ ¬s.stopped .feeder = true ∧ ¬s.stopped .cell = true ∧
      ∃ n, s.nextSlot = some n ∧ s.held (s.feedValues n).1 = false ∧ (s.program (s.feedValues n).1).valid = true ∧
        ¬s.stopped (.program (s.feedValues n).1) = true := by
  unfold State.pushStands
  cases s.nextSlot with
  | none => simp
  | some n => simp; tauto

/-! ### The order of the grants (R26) -/

/-- The arbiter grants only with the indexer FREE, and then the first request that stands. -/
theorem granted_iff :
    (s.granted = some .eject ↔ s.trc.op = none ∧ s.ejectStands = true) ∧
    (s.granted = some .moveBp ↔ s.trc.op = none ∧ ¬s.ejectStands = true ∧ s.moveBpStands = true) ∧
    (s.granted = some .movePb ↔
      s.trc.op = none ∧ ¬s.ejectStands = true ∧ ¬s.moveBpStands = true ∧ s.movePbStands = true) ∧
    (s.granted = some .push ↔
      s.trc.op = none ∧ ¬s.ejectStands = true ∧ ¬s.moveBpStands = true ∧ ¬s.movePbStands = true ∧ s.pushStands = true) ∧
    (s.granted = none ↔
      s.trc.op ≠ none ∨ ¬s.ejectStands = true ∧ ¬s.moveBpStands = true ∧ ¬s.movePbStands = true ∧ ¬s.pushStands = true) := by
  unfold State.granted
  cases s.trc.op with
  | some o => simp
  | none =>
    rw [Option.isSome_none, if_neg Bool.false_ne_true]
    split_ifs <;> simp [*]

/-- Settles O38: the order is `granted_iff`, and each request is said by its own lemma. -/
theorem theArbiterGrantsInOrder : Obligations.TheArbiterGrantsInOrder := by
  intro s
  have h := granted_iff (s := s)
  simpa only [ejectStands_iff, moveBpStands_iff, movePbStands_iff, pushStands_iff, movesFree_iff, stopped_iff] using h

/-! ### What a grant does (R11, R16, R28 to R30) -/

theorem grantPush_of_ne (h : s.granted ≠ some .push) : grantPush s = s := by
  unfold grantPush; split
  · exact absurd ‹_› h
  · rfl

theorem grantMovePb_of_ne (h : s.granted ≠ some .movePb) : grantMovePb s = s := by
  unfold grantMovePb; split
  · exact absurd ‹_› h
  · rfl

theorem grantMoveBp_of_ne (h : s.granted ≠ some .moveBp) : grantMoveBp s = s := by
  unfold grantMoveBp; split
  · exact absurd ‹_› h
  · rfl

theorem grantEject_of_ne (h : s.granted ≠ some .eject) : grantEject s = s := by
  unfold grantEject; split
  · exact absurd ‹_› h
  · rfl

theorem grantPush_eq {n : Nat} (h : s.granted = some .push) (hn : s.nextSlot = some n) : grantPush s = startPush n s := by
  simp [grantPush, h, hn]

theorem grantMovePb_eq {r : StripRecord} (h : s.granted = some .movePb) (hr : s.trc.preheat = some r) :
    grantMovePb s = startMove .movePb .preheat r.seq s := by
  simp [grantMovePb, h, hr]

theorem grantMoveBp_eq {r : StripRecord} (h : s.granted = some .moveBp) (hr : s.trc.bond = some r) :
    grantMoveBp s = startMove .moveBp .bond r.seq s := by
  simp [grantMoveBp, h, hr]

/-- A granted ejection has the slot that the last search found, since the magazine is READY (R27). -/
theorem grantEject_eq {r : StripRecord} {n : Nat} (h : s.granted = some .eject) (hr : s.trc.post = some r)
    (hn : s.fdc.outNext = some n) : grantEject s = startEject r n s := by
  have ready : s.fdc.out = .ready := (ejectStands_iff.mp (granted_iff.1.mp h).2).2.1
  simp [grantEject, h, hr, State.nextFree, ready, hn]

theorem startEject_eq {r : StripRecord} {n : Nat} (hr : s.trc.post = some r) :
    startEject r n s = sendOwn .feedOut (.feedEject n) { s with
      fdc := { s.fdc with reserved := some n }
      trc := { s.trc with
        post := some { r with state := .ejecting, former := r.state }
        op := some { kind := .eject, strip := some r.seq, moveNo := none, slot := some n, grantTime := s.ccs.timebase
                     timeout := 3000 } } } := by
  simp only [startEject, State.modStrip, State.strip, State.setStrip, State.modFdc, hr]
  rfl

/-- Settles O39: a grant runs its operation where it is the one granted, and else nothing. -/
theorem grantsStartTheirOperation : Obligations.GrantsStartTheirOperation := fun _ hi =>
  ⟨fun h => act_ends_of_eq hi (grantPush_of_ne h), fun h => act_ends_of_eq hi (grantMovePb_of_ne h),
   fun h => act_ends_of_eq hi (grantMoveBp_of_ne h), fun h => act_ends_of_eq hi (grantEject_of_ne h),
   fun h _ hn => act_ends_of_eq hi (grantPush_eq h hn),
   fun h _ hr => act_ends_of_eq hi (grantMovePb_eq h hr), fun h _ hr => act_ends_of_eq hi (grantMoveBp_eq h hr),
   fun h _ _ hr hn => act_ends_of_eq hi ((grantEject_eq h hr hn).trans (startEject_eq hr))⟩

end Sys2Proof.Machine
end

section
/-! SUPPORT. The track empty (R23), failed pushes and admissions (R12, R13, R20, R24, R115). -/

namespace Sys2Proof.Machine

variable {s : State}

/-! ### The track empty (R23, R174) -/

theorem trackEmpty_iff :
    s.trackEmpty = true ↔ s.trc.preheat = none ∧ s.trc.bond = none ∧ s.trc.post = none ∧ s.trc.op = none := by
  simp [State.trackEmpty, and_assoc]

theorem drainCheck_eq (s : State) :
    drainCheck s =
      if s.ccs.cell = .drain ∧ s.trc.preheat = none ∧ s.trc.bond = none ∧ s.trc.post = none ∧ s.trc.op = none then
        eachHead (fun h t => unpark h (removeReason .cell h t)) { s with ccs := { s.ccs with cell := .ready, feedPause := false } }
      else s := by
  simp only [drainCheck, trackEmpty_iff]
  rfl

/-! ### A failed push (R13) -/

theorem onPushTimeout_eq (s : State) :
    onPushTimeout s =
      match s.fdc.push with
      | some p => if 3000 ≤ (s.ccs.timebase - p.grantTime).toNat then drainCheck (failPush p s) else s
      | none => s := by
  simp only [onPushTimeout, elapsed, decide_eq_true_eq]
  rfl

/-- Settles O41: both events fail the push in flight, and the cell then looks whether the track is empty. -/
theorem failedPushesAreNotTriedAgain : Obligations.FailedPushesAreNotTriedAgain := by
  intro s
  simp only [← drainCheck_eq]
  exact ⟨fun _ h => feedFault_ends h rfl, fun hi => act_ends_of_eq hi (onPushTimeout_eq s)⟩

/-! ### The admission of a strip (R12, R20, R24, R115) -/

theorem codeFails_iff {e c : Option StripCode} : codeFails e c = true ↔ ∃ x, e = some x ∧ c ≠ some x := by
  cases e <;> simp [codeFails]

/-- The plan of an admitted strip of program `p` (R115). -/
def State.admissionPlan (s : State) (p : Nat) (skip : UnitMarks) : List Candidate :=
  let e := s.plm.plans.getD p {}
  if e.valid = true ∧ e.interval ≠ 0 ∧ (s.plm.counters.getD p 0 + 1) % 65536 % e.interval = 0 then
    plannedCandidates e (s.program p) skip
  else []

theorem plannedCandidates_eq (pl : PlanEntry) (e : ProgramEntry) (skip : UnitMarks) :
    plannedCandidates pl e skip =
      (pl.units.filter fun v => v < e.rows * e.columns ∧ skip.getLsbD v = false).flatMap fun v =>
        (pl.wires.filter fun w => w < e.wireCount).map fun w =>
          { unit := v, wire := w, reason := .planned, status := .waiting } := by
  simp only [plannedCandidates, unitCount, Bool.decide_and, Bool.decide_eq_false]
  rfl

theorem admissionPlan_congr {t : State} (hp : t.plm = s.plm) (hu : t.usc.programs = s.usc.programs) (p : Nat) (skip : UnitMarks) :
    t.admissionPlan p skip = s.admissionPlan p skip := by
  simp only [State.admissionPlan, State.program, hp, hu]

/-- PLM counts the strip at PREHEAT and sets its candidates (R115). -/
theorem admitToPlm_eq {r : StripRecord} (h : s.trc.preheat = some r) (hc : r.candidates = []) :
    admitToPlm s = { s with
      plm := { s.plm with counters := s.plm.counters.set r.program ((s.plm.counters.getD r.program 0 + 1) % 65536) }
      trc := { s.trc with preheat := some { r with candidates := s.admissionPlan r.program r.skip } } } := by
  simp only [admitToPlm, h, State.admissionPlan]
  split
  · exact modStrip_eq (p := .preheat) (r := r) (by exact h) _
  · rw [← hc, ← h]

/-- A strip at PREHEAT is compared with the dwell (R24). -/
theorem dwellCheck_eq {r : StripRecord} (h : s.trc.preheat = some r) :
    dwellCheck s = { s with trc := { s.trc with preheat := some { r with
      state := if r.state = .preheat ∧ r.scrapped = false ∧ s.ccs.params.preheatDwell ≤ r.dwell then .waitBond else r.state } } } := by
  simp only [dwellCheck, h]
  split
  · exact modStrip_eq (p := .preheat) (r := r) (by exact h) _
  · rw [← h]

/-- The record of an admitted strip before its candidates are planned (R12 step 1). -/
def State.admittedRecord (s : State) (p : PushInFlight) (code : Option StripCode) (state : StripState) : StripRecord :=
  { seq := s.trc.nextSeq, code := code, slot := p.slot, program := p.program, state := state, skip := p.skip, idUnread := code.isNone }

/-- The push has ended with strip `r` at PREHEAT (R12 step 1). -/
def State.withAdmitted (s : State) (r : StripRecord) : State :=
  { s with
    fdc := { s.fdc with push := none }
    trc := { s.trc with op := none, preheat := some r, nextSeq := if s.trc.nextSeq = 65535 then 1 else s.trc.nextSeq + 1 } }

/-- The end of an admission: the notice, PLM's count and plan, the clear of FEED_JAM and the next slot (R12 steps 5 to 7). -/
def finishAdmission (seq : Nat) (t : State) : State :=
  evaluateNext (clearAlarm .feedJam .feeder (admitToPlm (notify (.strip seq .admitted) t)))

theorem admitStrip_of_passes {p : PushInFlight} {code : Option StripCode} (h : ¬∃ c, p.code = some c ∧ code ≠ some c) :
    admitStrip p code s = finishAdmission s.trc.nextSeq (s.withAdmitted
      (s.admittedRecord p code (if s.ccs.params.preheatDwell = 0 then .waitBond else .preheat))) := by
  have pass : codeFails p.code code = false := by simpa [← codeFails_iff] using h
  simp only [admitStrip, State.admission, pass, Bool.false_eq_true, if_false]
  rw [dwellCheck_eq rfl]
  by_cases hd : s.ccs.params.preheatDwell = 0
  · rw [if_pos hd, if_pos ⟨rfl, rfl, Nat.le_of_eq hd⟩]
    rfl
  · rw [if_neg hd, if_neg fun k => hd (Nat.le_zero.mp k.2.2)]
    rfl

theorem admitStrip_of_fails {p : PushInFlight} {code : Option StripCode} {c : StripCode} (hc : p.code = some c) (h : code ≠ some c) :
    admitStrip p code s = finishAdmission s.trc.nextSeq (notify (.decision (.idMismatch s.trc.nextSeq c code))
      (raiseAlarm .idMismatch .feeder s.trc.nextSeq (s.withAdmitted (s.admittedRecord p code .idHold)))) := by
  have fail : codeFails p.code code = true := codeFails_iff.mpr ⟨c, hc, h⟩
  rw [hc] at fail
  simp only [admitStrip, State.admission, hc, fail, if_true]
  rfl

theorem finishAdmission_eq {r : StripRecord} {seq : Nat} {t : State} (h : t.apart = (s.withAdmitted r).apart) (hc : r.candidates = []) :
    finishAdmission seq t =
      let t := notify (.strip seq .admitted) t
      evaluateNext (clearAlarm .feedJam .feeder
        { t with
          plm := { t.plm with counters := t.plm.counters.set r.program ((s.plm.counters.getD r.program 0 + 1) % 65536) }
          trc := { t.trc with preheat := some { r with candidates := s.admissionPlan r.program r.skip } } }) := by
  obtain ⟨_, _, track, plm, programs⟩ := apart_fields ((notify_apart (.strip seq .admitted) t).trans h)
  have counter := congrArg (·.counters.getD r.program 0) plm
  have plan := admissionPlan_congr plm programs r.program r.skip
  rw [finishAdmission, admitToPlm_eq (r := r) (by rw [track]; rfl) hc, plan]
  simp only [counter]
  rfl

/-- Settles O40: either way of the code check leads to `finishAdmission`, which finds the strip's record and program untouched by
the alarm (`apart_fields`). -/
theorem stripsAreAdmittedToTheTrack : Obligations.StripsAreAdmittedToTheTrack := by
  intro s src code h
  refine ⟨fun hp => stripIn_ends h (by rw [onStripIn, hp]), fun p hp => ?_⟩
  have taken : onStripIn code s = admitStrip p code s := by rw [onStripIn, hp]
  simp only [← plannedCandidates_eq]
  refine ⟨fun pass => stripIn_ends h ?_, fun c hc fail => stripIn_ends h ?_⟩
  · rw [taken, admitStrip_of_passes pass, finishAdmission_eq (s := s) rfl rfl]
    rfl
  · rw [taken, admitStrip_of_fails hc fail, finishAdmission_eq (s := s) (r := s.admittedRecord p code .idHold) (by simp) rfl]
    rfl

end Sys2Proof.Machine
end

section
/-! SUPPORT. Completions of moves and ejections (R28 to R31, R57, R116). -/

namespace Sys2Proof.Machine

variable {s : State}

/-! ### Completions (R28 to R31) -/

theorem moveMatches_iff {o : Origin} {n : Byte} :
    s.moveMatches o n = true ↔ ∃ x, s.trc.op = some x ∧ x.kind = moveKind o ∧ x.moveNo = some n := by
  unfold State.moveMatches
  cases s.trc.op <;> simp

theorem ejectSlot_eq_some {n : Nat} :
    s.ejectSlot = some n ↔ ∃ x, s.trc.op = some x ∧ x.kind = .eject ∧ x.slot = some n := by
  unfold State.ejectSlot
  cases s.trc.op <;> simp

/-- One that does not match the operation in flight is discarded (R31). -/
theorem onMoveDone_of_not {o : Origin} {n : Byte} (h : ¬s.moveMatches o n = true) : onMoveDone o n s = s := if_neg h

theorem onMoveDone_preheat {n : Byte} (h : s.moveMatches .preheat n = true) : onMoveDone .preheat n s = completeMovePb s := if_pos h

theorem onMoveDone_bond {n : Byte} (h : s.moveMatches .bond n = true) : onMoveDone .bond n s = completeMoveBp s := if_pos h

theorem completeMovePb_scrapped {r : StripRecord} (hr : s.trc.preheat = some r) (h : r.scrapped = true) :
    completeMovePb s = notify (.strip r.seq .atBond)
      (clearAlarm .trackJam .track { s with trc := { s.trc with op := none, preheat := none, bond := some r } }) := by
  simp only [completeMovePb, hr, h, if_true]
  rfl

/-- A strip that is not scrapped enters BONDING with fresh unit records, whose program the clear of TRACK_JAM has left (R28). -/
theorem completeMovePb_fresh {r : StripRecord} (hr : s.trc.preheat = some r) (h : r.scrapped = false) :
    let t := clearAlarm .trackJam .track { s with trc := { s.trc with op := none, preheat := none, bond := some r } }
    completeMovePb s = eachHead askUnit (evaluateChecking (notify (.strip r.seq .atBond)
      { t with
        trc := { t.trc with bond := some { r with state := .bonding } }
        usc := { t.usc with
          units := some ((List.range ((s.program r.program).rows * (s.program r.program).columns)).map fun u =>
            { state := if r.skip.getLsbD u then .skipped else .pending }) }
        vcu := { t.vcu with scan := some .notStarted, pos := some (0, 0), pendingWire := none, rebondHead := none } })) := by
  intro t
  obtain ⟨_, _, track, _, programs⟩ := apart_fields (clearAlarm_apart .trackJam .track
    { s with trc := { s.trc with op := none, preheat := none, bond := some r } })
  have bond : t.trc.bond = some r := congrArg (·.bond) track
  have program : t.program r.program = s.program r.program := congrArg (·.getD r.program {}) programs
  have e : completeMovePb s = eachHead askUnit (evaluateChecking (notify (.strip r.seq .atBond)
      (createUnits r (t.modStrip .bond fun r => { r with state := .bonding })))) := by
    simp only [completeMovePb, hr, h, Bool.false_eq_true, if_false]
    rfl
  rw [e, ← program, modStrip_eq (p := .bond) bond]
  rfl

theorem nextCandidate_isSome {r : StripRecord} :
    r.nextCandidate.isSome = true ↔ ∃ c ∈ r.candidates, c.record = none ∧ c.status ≠ .cancelled := by
  simp [StripRecord.nextCandidate, Candidate.open_]

/-- A strip enters POST in PULLING where a candidate is open, and in DONE where none is (R29). -/
theorem enterPost_eq (r : StripRecord) :
    r.enterPost = { r with
      state := if r.scrapped then r.state
               else if ∃ c ∈ r.candidates, c.record = none ∧ c.status ≠ .cancelled then .pulling else .done } := by
  unfold StripRecord.enterPost
  rw [if_congr nextCandidate_isSome rfl rfl]
  split <;> rfl

theorem completeMoveBp_eq {r : StripRecord} (hr : s.trc.bond = some r) :
    completeMoveBp s = pullWork (eachHead (removeReason .program) (discardUnits
      (clearAlarm .trackJam .track { s with trc := { s.trc with op := none, bond := none, post := some (markNotBonded r).enterPost } }))) := by
  simp only [completeMoveBp, hr]
  rfl

/-- The slot takes its strip: with the magazine there it is marked full, and the search is made again (R16). -/
theorem fillSlot_eq (n : Nat) (s : State) :
    let f : Fdc := { s.fdc with
      outFull := if s.fdc.out = .absent then s.fdc.outFull else s.fdc.outFull ||| 1#40 <<< n, reserved := none, fill := some n }
    fillSlot n s =
      if s.fdc.out = .absent then { s with fdc := { f with out := .absent } }
      else if f.freeFrom = none then becomeFull { s with fdc := f } else becomeOutReady { s with fdc := f } := by
  intro f
  by_cases h : s.fdc.out = .absent
  · have e : fillSlot n s = { s with fdc := f } := if_pos h
    rw [e, if_pos h, ← h]
  · rw [if_neg h]
    exact (if_neg h).trans (outSearch_eq { s with fdc := f })

theorem completeEject_eq {n : Nat} {r : StripRecord} (hr : s.trc.post = some r) :
    let u := clearAlarm .trackJam .track (fillSlot n (freeIndexer s))
    completeEject n s = drainCheck (notify (.strip r.seq .ejected)
      { u with trc := { u.trc with
        post := none, lastEjected := some { r with dest := some n, candidates := [], former := .done } } }) := by
  simp only [completeEject, hr]
  rfl

/-- Settles O43: a match runs its completion, each said by its own lemma, and anything else is discarded. -/
theorem completionsMoveTheStrips : Obligations.CompletionsMoveTheStrips := by
  intro s src
  refine ⟨fun h o n => ⟨fun no => ?_, fun m ho r hr => ?_, fun m ho r hr => ?_⟩, fun h n => ⟨fun no => ?_, fun m r hr => ?_⟩,
    drainCheck_eq s⟩
  · exact moveDone_ends h (onMoveDone_of_not (by rw [moveMatches_iff]; exact no))
  · subst ho
    have e := onMoveDone_preheat (moveMatches_iff.mpr m)
    exact ⟨fun hs => moveDone_ends h (e.trans (completeMovePb_scrapped hr hs)),
      fun hs => moveDone_ends h (e.trans (completeMovePb_fresh hr hs))⟩
  · subst ho
    refine moveDone_ends h ((onMoveDone_bond (moveMatches_iff.mpr m)).trans ?_)
    rw [completeMoveBp_eq hr, enterPost_eq]
    rfl
  · exact ejected_ends h (if_neg (by rw [ejectSlot_eq_some]; exact no))
  · refine ejected_ends h ((if_pos (ejectSlot_eq_some.mpr m)).trans ?_)
    rw [completeEject_eq hr, fillSlot_eq]
    rfl

end Sys2Proof.Machine
end

section
/-! SUPPORT. Strips accepted or scrapped (R14, R33, R119). -/

namespace Sys2Proof.Machine

variable {s : State}

/-! ### ACCEPT_ID (R14) -/

theorem onAcceptId_notFound {seq : Nat} (h : s.findStrip seq = none) : onAcceptId seq s = refuse .notFound s := by
  rw [onAcceptId, h]

theorem onAcceptId_badState {seq : Nat} {p : Position} {r : StripRecord} (h : s.findStrip seq = some (p, r))
    (hr : r.state ≠ .idHold ∨ r.scrapped = true) : onAcceptId seq s = refuse .badState s := by
  simp only [onAcceptId, h]
  exact if_neg fun k => hr.elim (· k.1) (by simp [k.2])

/-- A held strip at PREHEAT is released into PREHEAT, and is compared with the dwell at once (R14, R24). -/
theorem onAcceptId_ok {seq : Nat} {r : StripRecord} (h : s.findStrip seq = some (.preheat, r)) (hp : s.strip .preheat = some r)
    (hs : r.state = .idHold) (hn : r.scrapped = false) :
    onAcceptId seq s = accept (clearAlarm .idMismatch .feeder { s with trc := { s.trc with
      preheat := some { r with state := if s.ccs.params.preheatDwell ≤ r.dwell then .waitBond else .preheat } } }) := by
  simp only [onAcceptId, h, hs, hn, and_self, if_true]
  rw [modStrip_eq hp, dwellCheck_eq rfl]
  simp only [hn, true_and]
  rfl

/-! ### SCRAP (R33, R119) -/

theorem pairInFlight_eq_some {seq u w : Nat} :
    s.pairInFlight seq = some (u, w) ↔ (s.plm.req.any fun q => q.seq == seq && q.unit == u && q.wire == w) = true := by
  unfold State.pairInFlight
  cases s.plm.req <;> simp [and_assoc]

/-- The candidates that a SCRAP leaves (R119). -/
theorem cancelCandidates_eq (seq : Nat) (r : StripRecord) (s : State) :
    cancelCandidates (s.pairInFlight seq) r = { r with
      candidates := r.candidates.map fun c =>
        if c.record.isSome || (s.plm.req.any fun q => q.seq == seq && q.unit == c.unit && q.wire == c.wire) then c
        else { c with status := .cancelled } } := by
  unfold cancelCandidates
  congr
  funext c
  refine if_congr ?_ rfl rfl
  rw [pairInFlight_eq_some, Bool.or_eq_true, Candidate.recorded]

/-- The end of a wait for the log: the flag clears, and with it the condition of PULL_LOG_FULL (R119, R120). -/
theorem endLogWait_eq {p : Position} {r : StripRecord} (h : s.strip p = some r) :
    endLogWait p s =
      if r.logWait then clearAlarm .pullLogFull .track (s.setStrip p (some { r with logWait := false }))
      else s.setStrip p (some { r with logWait := false }) := by
  unfold endLogWait
  rw [h, modStrip_eq h, Option.any_some]
  cases hw : r.logWait with
  | true => rfl
  | false =>
    have same : { r with logWait := false } = r := by rw [← hw]
    rw [same, ← h, setStrip_self]

/-- What a SCRAP does to any strip (R33, R119). -/
def scrapRecord (p : Position) (r : StripRecord) (s : State) : State :=
  let l := r.candidates.map fun c =>
    if c.record.isSome || (s.plm.req.any fun q => q.seq == r.seq && q.unit == c.unit && q.wire == c.wire) then c
    else { c with status := .cancelled }
  let t := notify (.strip r.seq .scrapped) (s.setStrip p (some { r with scrapped := true, candidates := l, logWait := false }))
  if r.logWait then clearAlarm .pullLogFull .track t else t

/-- The flag, the notice, the candidates and the end of a wait for the log, in the order of the model, leave `scrapRecord`. -/
theorem endLogWait_scrap {p : Position} {r : StripRecord} (h : s.strip p = some r) :
    endLogWait p ((notify (.strip r.seq .scrapped) (s.modStrip p fun r => { r with scrapped := true })).modStrip p
      (cancelCandidates (s.pairInFlight r.seq))) = scrapRecord p r s := by
  have flagged : (notify (.strip r.seq .scrapped) (s.setStrip p (some { r with scrapped := true }))).strip p =
      some { r with scrapped := true } := by rw [strip_notify, State.strip_setStrip_self]
  rw [modStrip_eq h, modStrip_eq flagged, notify_setStrip, setStrip_setStrip, cancelCandidates_eq,
    endLogWait_eq ((strip_notify ..).trans (State.strip_setStrip_self ..)), notify_setStrip, setStrip_setStrip]
  rfl

/-- A strip that is not at work at BOND: a held one is held no longer (R33). -/
theorem scrapStrip_outside {p : Position} {r : StripRecord} (h : s.strip p = some r) (hb : r.state ≠ .bonding)
    (hc : r.state ≠ .checking) :
    scrapStrip p r s = if r.state = .idHold then clearAlarm .idMismatch .feeder (scrapRecord p r s) else scrapRecord p r s := by
  cases e : r.state with
  | bonding => exact absurd e hb
  | checking => exact absurd e hc
  | idHold | preheat | waitBond | released | pulling | done | ejecting => simp [scrapStrip, endLogWait_scrap h, e]

theorem onScrap_notFound {seq : Nat} (h : s.findStrip seq = none) : onScrap seq s = refuse .notFound s := by
  rw [onScrap, h]

theorem onScrap_badState {seq : Nat} {p : Position} {r : StripRecord} (h : s.findStrip seq = some (p, r))
    (hr : r.scrapped = true ∨ r.state = .ejecting) : onScrap seq s = refuse .badState s := by
  simp only [onScrap, h]
  exact if_pos hr

theorem onScrap_ok {seq : Nat} {p : Position} {r : StripRecord} (h : s.findStrip seq = some (p, r)) (hn : r.scrapped = false)
    (he : r.state ≠ .ejecting) : onScrap seq s = accept (scrapStrip p r s) := by
  simp only [onScrap, h]
  exact if_neg (by simp [hn, he])

/-- Settles O46: the strip is the one that `findStrip` finds, and each check and effect is said by its own lemma. -/
theorem heldStripsAreAcceptedOrScrapped : Obligations.HeldStripsAreAcceptedOrScrapped := by
  intro s u tag seq
  have accepts {x : State} {d : ResultCode} (hx : onAcceptId seq u = (x, { result := d })) :
      Serves (.stripOpAcceptId tag seq) tag (.stripOp (.acceptId seq)) s u x d :=
    serves_of_eq (f := onAcceptId seq) (exec_stripOpAcceptId tag seq s) hx
  have scraps {x : State} {d : ResultCode} (hx : onScrap seq u = (x, { result := d })) :
      Serves (.stripOpScrap tag seq) tag (.stripOp (.scrap seq)) s u x d :=
    serves_of_eq (f := onScrap seq) (exec_stripOpScrap tag seq s) hx
  refine ⟨fun noStrip => ?_, fun p r hr hs only => ?_⟩
  · have missing := findStrip_eq_none noStrip
    exact ⟨accepts (onAcceptId_notFound missing), scraps (onScrap_notFound missing)⟩
  · have found := findStrip_eq_some hr hs only
    refine ⟨fun bad => accepts (onAcceptId_badState found bad), fun held hn hp => ?_,
      fun bad => scraps (onScrap_badState found bad), fun hn he hb hc => scraps ?_⟩
    · subst hp
      exact accepts (onAcceptId_ok found hr held hn)
    · rw [onScrap_ok found hn he, scrapStrip_outside hr hb hc]
      subst hs
      rfl

end Sys2Proof.Machine
end

section
/-! SUPPORT. Failed operations of the indexer (R31, R16). -/

namespace Sys2Proof.Machine

variable {s : State}

/-! ### Failures (R31) -/

theorem opIs_iff {k : OpKind} : s.opIs k = true ↔ ∃ x, s.trc.op = some x ∧ x.kind = k := by
  unfold State.opIs
  cases s.trc.op <;> simp

/-- A failed ejection gives its slot back to the search (R16). -/
theorem clearReservation_eq (s : State) :
    let f : Fdc := { s.fdc with reserved := none }
    let t (o : OutState) (next : Option Nat) : State := { s with fdc := { f with out := o, outNext := next } }
    clearReservation s =
      if s.fdc.out = .absent then t .absent s.fdc.outNext
      else if f.freeFrom ≠ none then
        (if s.fdc.out = .full then clearAlarm .outputFull .track (t .ready f.freeFrom) else t .ready f.freeFrom)
      else if s.fdc.out = .full then t .full s.fdc.outNext else raiseAlarm .outputFull .track 0 (t .full none) := by
  intro f t
  have kept {o : OutState} (h : s.fdc.out = o) : t o s.fdc.outNext = { s with fdc := f } := by subst h; rfl
  have unfolded : clearReservation s =
      if s.fdc.out = .absent then { s with fdc := f }
      else if f.freeFrom.isSome then becomeOutReady { s with fdc := f }
      else if s.fdc.out = .full then { s with fdc := f } else becomeFull { s with fdc := f } := rfl
  rw [unfolded]
  split
  · exact (kept ‹_›).symm
  · rw [if_congr Option.isSome_iff_ne_none rfl rfl]
    split
    · rfl
    · split
      · exact (kept ‹_›).symm
      · rfl

/-- A choice by the operation in flight, written out (R31). -/
theorem ite_op_eq {α : Type} {p : IndexerOp → Prop} [DecidablePred p] {b : Bool} {y z : α}
    (h : b = true ↔ ∃ x, s.trc.op = some x ∧ p x) :
    (if b then y else z) =
      match s.trc.op with
      | some x => if p x then y else z
      | none => z := by
  rw [if_congr h rfl rfl]
  cases s.trc.op <;> simp

theorem onMoveTimeout_eq (s : State) :
    onMoveTimeout s =
      match s.trc.op with
      | some x => if x.kind ≠ .push ∧ x.timeout ≤ (s.ccs.timebase - x.grantTime).toNat then failOp x.kind s else s
      | none => s := by
  simp only [onMoveTimeout, elapsed, decide_eq_true_eq]
  rfl

theorem trackFault_ends {src : Byte} {o : Origin} {n : Byte} {x : State} (h : s.hears src .track true)
    (hx : onTrackFault o n s = x) : Ends (exec (.trackFault src o n) s) x :=
  fieldArrive_ends h rfl (fun _ => rfl) hx

theorem outputFeedFault_ends {src : Byte} {x : State} (h : s.hears src .feedOut true) (hx : onOutFeedFault s = x) :
    Ends (exec (.outputFeedFault src) s) x :=
  fieldArrive_ends h rfl (fun _ => rfl) hx

/-- Settles O44: each event fails the operation in flight or raises the alarm, and a failure is `failOp`, with `clearReservation_eq`
for an ejection. -/
theorem failedOperationsJamTheTrack : Obligations.FailedOperationsJamTheTrack := by
  intro s f t cleared failed jam
  have failOp_eq : ∀ k, k ≠ .push → failOp k s = failed k
    | .movePb, _ | .moveBp, _ => rfl
    | .eject, _ => congrArg (fun c : State => raiseAlarm .trackJam .track 3
        { c with trc := { c.trc with post := c.trc.post.map fun r => { r with state := r.former } } })
        (clearReservation_eq (freeIndexer s))
    | .push, h => absurd rfl h
  refine ⟨fun src o n h => trackFault_ends h ?_, fun src h => outputFeedFault_ends h ?_, fun hi => act_ends_of_eq hi ?_⟩
  · rw [← failOp_eq _ (by cases o <;> nofun)]
    exact ite_op_eq moveMatches_iff
  · rw [← failOp_eq .eject nofun]
    exact ite_op_eq opIs_iff
  · rw [onMoveTimeout_eq]
    cases s.trc.op with
    | none => rfl
    | some x => exact ite_congr rfl (fun due => failOp_eq x.kind due.1) fun _ => rfl

end Sys2Proof.Machine
end

section
/-! SUPPORT. The heat monitor (R35 to R37). -/

namespace Sys2Proof.Machine

variable {s : State}

@[simp] theorem addReason_ccs (r : HoldReason) (h : Head) (s : State) : (addReason r h s).ccs = s.ccs :=
  (apart_fields (addReason_apart r h s)).1

@[simp] theorem addReason_trc (r : HoldReason) (h : Head) (s : State) : (addReason r h s).trc = s.trc :=
  (apart_fields (addReason_apart r h s)).2.2.1

@[simp] theorem notify_ccs (n : Notice) (s : State) : (notify n s).ccs = s.ccs := (apart_fields (notify_apart n s)).1

@[simp] theorem notify_trc (n : Notice) (s : State) : (notify n s).trc = s.trc := (apart_fields (notify_apart n s)).2.2.1

/-! ### Entering and leaving READY (R37) -/

/-- The monitor has left READY: the cell state and the temperature that decide on HEAT_NOT_READY are those of before. -/
theorem heatLost_eq (s : State) :
    heatLost s =
      let v := addReason .heat .b (addReason .heat .a (notify (.heat false) s))
      if s.ccs.cell = .run then raiseAlarm .heatNotReady .cell (s.trc.heat.lastTemp.getD 0) v else v := by
  simp only [heatLost, addReason_ccs, addReason_trc, notify_ccs, notify_trc]

theorem heatChange_eq (before : HeatState) (s : State) :
    heatChange before s =
      if before ≠ .ready ∧ s.trc.heat.state = .ready then
        clearAlarm .heatNotReady .cell (eachHead (removeReason .heat) (notify (.heat true) s))
      else if before = .ready ∧ s.trc.heat.state ≠ .ready then
        let v := addReason .heat .b (addReason .heat .a (notify (.heat false) s))
        if s.ccs.cell = .run then raiseAlarm .heatNotReady .cell (s.trc.heat.lastTemp.getD 0) v else v
      else s := by
  rw [heatChange, heatLost_eq]
  rfl

/-! ### A sample (R35) -/

theorem inBand_iff {target band t : Nat} : inBand target band t = true ↔ target ≤ t + band ∧ t ≤ target + band := by
  simp [inBand]

/-- The state and the counter at `n` samples in the band. -/
def heatCounted (settleCount n : Nat) : HeatState × Nat := if settleCount ≤ n then (.ready, settleCount) else (.settling, n)

theorem settle_eq (settleCount n : Nat) (h : Heat) :
    h.settle settleCount n =
      { h with state := (heatCounted settleCount n).1, counter := (heatCounted settleCount n).2 } := by
  unfold Heat.settle heatCounted
  split <;> rfl

/-- The table of the monitor (R35). -/
theorem weighHeat_eq (p : Params) (t : Nat) (h : Heat) :
    let near (band : Nat) : Prop := p.heatTarget ≤ t + band ∧ t ≤ p.heatTarget + band
    let next : HeatState × Nat :=
      match h.state with
      | .notReady => if near p.heatBand then heatCounted p.settleCount 1 else (.notReady, 0)
      | .settling => if near p.heatBand then heatCounted p.settleCount (h.counter + 1) else (.notReady, 0)
      | .ready => if near (p.heatBand + p.heatHysteresis) then (.ready, p.settleCount) else (.notReady, 0)
    weighHeat p t h = { h with state := next.1, counter := next.2 } := by
  intro near next
  simp only [weighHeat, inBand_iff, settle_eq, next]
  cases hs : h.state with
  | notReady =>
    dsimp only
    split
    · rfl
    · rw [← hs]
  | settling =>
    dsimp only
    split <;> rfl
  | ready =>
    dsimp only
    split
    · rw [← hs]
    · rfl

/-- The clear of HEAT_SIGNAL leaves the monitor, so a sample is weighed as it came (R35, R36). -/
theorem onHeatSample_eq (temperature : Nat) (s : State) :
    let u := clearAlarm .heatSignal .cell s
    onHeatSample temperature s = heatChange s.trc.heat.state { u with trc := { u.trc with
      heat := weighHeat s.ccs.params (min temperature 5000)
        { s.trc.heat with lastTemp := some (min temperature 5000), timer := some s.ccs.timebase } } } := by
  intro u
  have monitor : u.trc.heat = s.trc.heat := congrArg (·.heat) (apart_fields (clearAlarm_apart .heatSignal .cell s)).2.2.1
  rw [← monitor]
  exact congrArg (fun x : Heat => heatChange x.state _) monitor.symm

/-! ### The timer (R36) -/

theorem onHeatTimer_eq (s : State) :
    onHeatTimer s =
      match s.trc.heat.timer with
      | some t =>
        if 1000 ≤ (s.ccs.timebase - t).toNat then
          raiseAlarm .heatSignal .cell 0 (heatChange s.trc.heat.state { s with trc := { s.trc with heat := {} } })
        else s
      | none => s := by
  unfold onHeatTimer State.heatSilent
  cases s.trc.heat.timer with
  | none => rfl
  | some t => exact if_congr decide_eq_true_iff rfl rfl

theorem heatSample_ends {src : Byte} {temperature : Nat} {x : State} (h : s.hears src .heater false)
    (hx : onHeatSample temperature s = x) : Ends (exec (.heatSample src temperature) s) x :=
  fieldArrive_ends h rfl nofun hx

/-- Settles O45: the table is `weighHeat_eq` and what a change brings is `heatChange_eq`. -/
theorem theHeatMonitorSettlesAndTimesOut : Obligations.TheHeatMonitorSettlesAndTimesOut := by
  intro s p h became
  have heatChange_eq_became (u : State) (hc : u.ccs = s.ccs) : heatChange h.state u = became u := by
    rw [heatChange_eq, hc]
  refine ⟨fun src temperature heard => heatSample_ends heard ?_, fun hi => act_ends_of_eq hi ?_⟩
  · rw [onHeatSample_eq, weighHeat_eq]
    exact heatChange_eq_became _ (apart_fields (clearAlarm_apart .heatSignal .cell s)).1
  · have expired := onHeatTimer_eq s
    rw [heatChange_eq_became { s with trc := { s.trc with heat := {} } } rfl] at expired
    exact expired

end Sys2Proof.Machine
end

section
/-! SUPPORT. SCRAP of a strip in BONDING and in CHECKING (R33, R110, R111, R119). -/

namespace Sys2Proof.Machine

variable {s : State}

/-! ### Alarms of the scope TRACK -/

theorem findAlarm_eq_some {c : AlarmCode} {sc : AlarmScope} {i : Nat} (h : s.findAlarm c sc = some i) :
    ∃ e, s.alc.list[i]? = some e ∧ e.code = c ∧ e.scope = sc := by
  obtain ⟨hi, he, _⟩ := List.findIdx?_eq_some_iff_getElem.mp h
  obtain ⟨code, scope⟩ : s.alc.list[i].code = c ∧ s.alc.list[i].scope = sc := by simpa using he
  exact ⟨_, List.getElem?_eq_getElem hi, code, scope⟩

/-- A stop of the scope TRACK holds no head, so its end changes the list and the notices alone (R142, R146). -/
theorem clearAlarm_track_eq (c : AlarmCode) (s : State) :
    clearAlarm c .track s = { s with alc := (clearAlarm c .track s).alc, lif := (clearAlarm c .track s).lif } := by
  cases h : s.findAlarm c .track with
  | none => simp only [clearAlarm, h]
  | some i =>
    obtain ⟨e, he, _, scope⟩ := findAlarm_eq_some h
    simp only [clearAlarm, h, he]
    cases e.state with
    | active => simp only [alarmNotice, notify_eq]; rfl
    | activeAcked =>
      simp only [removeAlarm, he, scope, effectEnded, ite_self, alarmNotice, notify_eq]
      rfl
    | cleared => rfl

/-! ### What a SCRAP does to any strip (R33, R119) -/

/-- The record of a scrapped strip. -/
def State.scrappedRecord (s : State) (r : StripRecord) : StripRecord :=
  { r with
    scrapped := true
    candidates := r.candidates.map fun c =>
      if c.record.isSome || (s.plm.req.any fun q => q.seq == r.seq && q.unit == c.unit && q.wire == c.wire) then c
      else { c with status := .cancelled }
    logWait := false }

/-- The flag and the end of a wait for the log write the strip's record, the alarm list and the notices. -/
theorem scrapRecord_eq (p : Position) (r : StripRecord) (s : State) :
    scrapRecord p r s =
      { s.setStrip p (some (s.scrappedRecord r)) with alc := (scrapRecord p r s).alc, lif := (scrapRecord p r s).lif } := by
  unfold scrapRecord
  dsimp only
  split
  · rw [clearAlarm_track_eq, notify_eq]
    rfl
  · rw [notify_eq]
    rfl

theorem scrapStrip_bonding {p : Position} {r : StripRecord} (h : s.strip p = some r) (hr : r.state = .bonding) :
    scrapStrip p r s = scrapBonding r.seq (scrapRecord p r s) := by
  simp only [scrapStrip, endLogWait_scrap h, hr]

theorem scrapStrip_checking {p : Position} {r : StripRecord} (h : s.strip p = some r) (hr : r.state = .checking) :
    scrapStrip p r s = scrapChecking r.seq (scrapRecord p r s) := by
  simp only [scrapStrip, endLogWait_scrap h, hr]

/-! ### NSB decisions (R74, R110) -/

theorem awaitsNsb_iff {h : Head} {seq : Nat} :
    s.awaitsNsb h seq = true ↔ ∃ d, (s.head h).nsb = some d ∧ d.wire.seq = seq := by
  simp [State.awaitsNsb, Option.any_eq_true]

/-! ### Units of a scrapped strip (R110) -/

theorem getLsbD_markUnit (m : UnitMarks) {u i : Nat} (hi : i < 64) :
    (markUnit m u).getLsbD i = (m.getLsbD i || decide (u = i)) := by
  have bit : (1#64 <<< u).getLsbD i = decide (u = i) := by
    rw [BitVec.getLsbD_shiftLeft, BitVec.getLsbD_one]
    grind
  rw [markUnit, BitVec.getLsbD_or, bit]

/-- The marks of the PENDING units join the skip map (R110 step 1). -/
theorem getLsbD_pendingMarks (l : List UnitRecord) (u : Nat) (m : UnitMarks) {i : Nat} (hi : i < 64) :
    (pendingMarks l u m).getLsbD i =
      (m.getLsbD i || decide (u ≤ i ∧ (l[i - u]?).map (·.state) = some .pending)) := by
  induction l generalizing u m with
  | nil => simp [pendingMarks]
  | cons x xs ih =>
    have first : (if x.state = .pending then markUnit m u else m).getLsbD i =
        (m.getLsbD i || decide (u = i ∧ x.state = .pending)) := by
      split
      · simp only [getLsbD_markUnit m hi, *, and_true]
      · simp [*]
    rw [pendingMarks, ih, first, Bool.or_assoc, ← Bool.decide_or]
    congr 1
    rw [decide_eq_decide]
    rcases Nat.lt_trichotomy i u with before | rfl | after
    · simp [show ¬u ≤ i by omega, show ¬u + 1 ≤ i by omega, show u ≠ i by omega]
    · simp
    · obtain ⟨k, rfl⟩ := Nat.exists_eq_add_of_lt after
      simp [show u + k + 1 - u = k + 1 by omega, show u + k + 1 - (u + 1) = k by omega, show u ≤ u + k + 1 by omega,
        show u + 1 ≤ u + k + 1 by omega, show u ≠ u + k + 1 by omega]

/-- The skip map that R110 leaves is known by its marks. -/
theorem pendingMarks_eq {l : List UnitRecord} {m skip : UnitMarks}
    (h : ∀ i < 64, m.getLsbD i = (skip.getLsbD i || decide ((l[i]?).map (·.state) = some .pending))) :
    pendingMarks l 0 skip = m := by
  refine BitVec.eq_of_getLsbD_eq fun i hi => ?_
  rw [getLsbD_pendingMarks l 0 skip hi, h i hi]
  simp only [Nat.zero_le, true_and, Nat.sub_zero]

theorem scrap_eq (x : UnitRecord) :
    x.scrap =
      if x.state = .pending then { x with state := .skipped }
      else if x.state = .claimed then { x with skipPending := true } else x := by
  unfold UnitRecord.scrap
  cases x.state <;> rfl

theorem skipAll_eq {r : StripRecord} {m : UnitMarks} (hr : s.trc.bond = some r) (hm : pendingMarks s.units 0 r.skip = m) :
    skipAll s =
      { s with
        usc := { s.usc with units := s.usc.units.map fun l => l.map fun x =>
          if x.state = .pending then { x with state := .skipped }
          else if x.state = .claimed then { x with skipPending := true } else x }
        trc := { s.trc with bond := some { r with skip := m } } } := by
  have scrapped : List.map UnitRecord.scrap = fun l => l.map fun x =>
      if x.state = .pending then { x with state := .skipped }
      else if x.state = .claimed then { x with skipPending := true } else x := congrArg List.map (funext scrap_eq)
  rw [← hm, ← scrapped]
  exact modStrip_eq (p := .bond) (by exact hr) _

/-! ### The end of the claims and of the scan (R110, R111) -/

/-- A choice that is described by its two outcomes. -/
theorem ite_eq_of_imp {α : Type} {b : Bool} {p : Prop} {x y z : α} (h : b = true ↔ p) (hx : p → z = x) (hy : ¬p → z = y) :
    (if b then x else y) = z := by
  split
  · exact (hx (h.mp ‹_›)).symm
  · exact (hy fun k => ‹¬b = true› (h.mpr k)).symm

/-- The scan has ended, with the pending wire `w` (R111). -/
def State.scanEnded (s : State) (w : Option (Nat × Nat)) : State :=
  { s with vcu := { s.vcu with scan := some .ended, pendingWire := w } }

theorem scrapChecking_of_none {seq : Nat} (h : s.vcu.rebondHead = none) :
    scrapChecking seq s = releaseScrapped seq (s.scanEnded none) := by
  simp only [scrapChecking, State.scanEnded, h, Option.isSome_none, Bool.false_eq_true, if_false]

theorem scrapChecking_of_some {seq : Nat} {h : Head} (hh : s.vcu.rebondHead = some h) :
    scrapChecking seq s =
      if s.awaitsNsb h seq then releaseScrapped seq (endNsb h (s.scanEnded s.vcu.pendingWire)) else s.scanEnded s.vcu.pendingWire := by
  simp only [scrapChecking, State.scanEnded, hh, Option.isSome_some, if_true]
  rfl

/-- Settles O47: what any SCRAP does leaves the heads, the units and the scan as they were (`scrapRecord_eq`), and each state then
runs its own steps. -/
theorem scrapEndsTheBondingOfAStrip : Obligations.ScrapEndsTheBondingOfAStrip := by
  intro s u tag seq r hr hs only hn serves inFlight l flagged t0 t decides missed
  subst hs
  have ht : scrapRecord .bond r u = t := rfl
  have frame : t = { u with trc := { u.trc with bond := some flagged }, alc := t.alc, lif := t.lif } := scrapRecord_eq .bond r u
  have scraps {x : State} (hx : onScrap r.seq u = accept x) : serves x :=
    serves_of_eq (f := onScrap r.seq) (exec_stripOpScrap tag r.seq s) hx
  have found := findStrip_eq_some (p := .bond) hr rfl only
  refine ⟨?bonding, ?checking⟩
  case bonding =>
    intro hb left idle m hm a b c missedA keptA missedB keptB
    refine scraps ?_
    rw [onScrap_ok found hn (by simp [hb]), scrapStrip_bonding (p := .bond) hr hb, ht]
    have bond : t.trc.bond = some flagged := by rw [frame]
    have units : t.units = u.units := by rw [frame]; rfl
    have marks : skipAll t = a := skipAll_eq bond (units ▸ pendingMarks_eq hm)
    have first : (if a.awaitsNsb .a r.seq then endNsb .a a else a) = b := ite_eq_of_imp awaitsNsb_iff missedA keptA
    have second : (if b.awaitsNsb .b r.seq then endNsb .b b else b) = c := ite_eq_of_imp awaitsNsb_iff missedB keptB
    rw [scrapBonding, marks]
    simp only [List.foldl_cons, List.foldl_nil, first, second]
    rfl
  case checking =>
    intro hc released scanned
    have served : onScrap r.seq u = accept (scrapChecking r.seq t) := by
      rw [onScrap_ok found hn (by simp [hc]), scrapStrip_checking (p := .bond) hr hc, ht]
    have scan : t.vcu = u.vcu := by rw [frame]
    have awaits (h : Head) : t.awaitsNsb h r.seq = true ↔ decides h u := by
      rw [frame]
      exact awaitsNsb_iff
    refine ⟨fun free => scraps ?_, fun h claims => ⟨fun decided => scraps ?_, fun undecided => scraps ?_⟩⟩
    · rw [served, scrapChecking_of_none (by rw [scan, free])]
      rfl
    · rw [served, scrapChecking_of_some (by rw [scan, claims]), if_pos ((awaits h).mpr decided), scan]
      rfl
    · rw [served, scrapChecking_of_some (by rw [scan, claims]), if_neg (undecided ∘ (awaits h).mp), scan]
      rfl

end Sys2Proof.Machine
end

section
/-! SUPPORT. PULL_ADD, PULL_READ, PULL_RELEASE, STATUS_READ and COUNTERS_CLEAR (R118, R125, R126, R172). -/

namespace Sys2Proof.Machine

variable {s : State}

/-! ### The candidate of a pair (R116) -/

/-- A candidate found behind those of `l` is the one changed. -/
theorem modifyAt_append_cons {α : Type} (l m : List α) (x : α) (f : α → α) :
    modifyAt (l ++ x :: m) l.length f = l ++ f x :: m := by
  induction l with
  | nil => rfl
  | cons y l ih => exact congrArg (y :: ·) ih

theorem candidateIndex_eq_none {l : List Candidate} {n w : Nat} (hl : ∀ d ∈ l, ¬(d.unit = n ∧ d.wire = w)) :
    candidateIndex l n w = none := by
  simpa [candidateIndex, List.findIdx?_eq_none_iff] using hl

/-- The candidate of a pair is the first that names it. -/
theorem candidateIndex_append_cons {l m : List Candidate} {c : Candidate} {n w : Nat} (hc : c.unit = n ∧ c.wire = w)
    (hl : ∀ d ∈ l, ¬(d.unit = n ∧ d.wire = w)) : candidateIndex (l ++ c :: m) n w = some l.length := by
  have before := candidateIndex_eq_none hl
  unfold candidateIndex at before ⊢
  simp [List.findIdx?_append, List.findIdx?_cons, before, hc]

/-! ### PULL_ADD (R118) -/

theorem onPullAdd_notFound {seq n w : Nat} (h : s.findStrip seq = none) : onPullAdd seq n w s = refuse .notFound s := by
  rw [onPullAdd, h]

/-- The pair lies outside the strip's program. -/
def StripRecord.lacks (r : StripRecord) (s : State) (n w : Nat) : Prop :=
  (s.program r.program).rows * (s.program r.program).columns ≤ n ∨ (s.program r.program).wireCount ≤ w

/-- The strip at `p` takes no candidate in unit `n`. -/
def StripRecord.closedTo (r : StripRecord) (p : Position) (n : Nat) : Prop :=
  r.scrapped = true ∨ p = .post ∨ r.skip.getLsbD n = true

section
variable {seq n w : Nat} {p : Position} {r : StripRecord}

theorem onPullAdd_badIndex (found : s.findStrip seq = some (p, r)) (h : r.lacks s n w) :
    onPullAdd seq n w s = refuse .badIndex s := by
  simp only [onPullAdd, found]
  exact if_pos h

theorem onPullAdd_closed (found : s.findStrip seq = some (p, r)) (h : ¬r.lacks s n w) (hc : r.closedTo p n) :
    onPullAdd seq n w s = refuse .badState s := by
  simp only [onPullAdd, found]
  refine (if_neg h).trans ?_
  rcases hc with hc | hc | hc
  · exact if_pos hc
  · simp [hc]
  · simp [hc]

/-- Past the checks, the pair's candidate takes the reason OPERATOR, or a new one joins the list if it has room. -/
theorem onPullAdd_passes (found : s.findStrip seq = some (p, r)) (hr : s.strip p = some r) (h : ¬r.lacks s n w)
    (hc : ¬r.closedTo p n) :
    onPullAdd seq n w s =
      match candidateIndex r.candidates n w with
      | some i =>
        accept (s.setStrip p (some { r with candidates := modifyAt r.candidates i fun c => { c with reason := .operator } }))
      | none =>
        if 48 ≤ r.candidates.length then refuse .badState s
        else accept (s.setStrip p (some { r with candidates := r.candidates ++ [s.operatorCandidate p n w] })) := by
  obtain ⟨live, place, unit⟩ := by simpa [StripRecord.closedTo] using hc
  simp only [onPullAdd, found]
  refine (if_neg h).trans ?_
  simp only [live, place, unit, Bool.false_eq_true, if_false, modStrip_eq hr]
  rfl

theorem onPullAdd_listed {l m : List Candidate} {c : Candidate} (found : s.findStrip seq = some (p, r)) (hr : s.strip p = some r)
    (h : ¬r.lacks s n w) (hc : ¬r.closedTo p n) (split : r.candidates = l ++ c :: m) (names : c.unit = n ∧ c.wire = w)
    (first : ∀ d ∈ l, ¬(d.unit = n ∧ d.wire = w)) :
    onPullAdd seq n w s = accept (s.setStrip p (some { r with candidates := l ++ { c with reason := .operator } :: m })) := by
  rw [onPullAdd_passes found hr h hc, split, candidateIndex_append_cons names first]
  dsimp only
  rw [modifyAt_append_cons]

theorem onPullAdd_new (found : s.findStrip seq = some (p, r)) (hr : s.strip p = some r) (h : ¬r.lacks s n w)
    (hc : ¬r.closedTo p n) (new : ∀ d ∈ r.candidates, ¬(d.unit = n ∧ d.wire = w)) :
    onPullAdd seq n w s =
      if 48 ≤ r.candidates.length then refuse .badState s
      else accept (s.setStrip p (some { r with candidates := r.candidates ++ [s.operatorCandidate p n w] })) := by
  rw [onPullAdd_passes found hr h hc, candidateIndex_eq_none new]

end

theorem operatorCandidate_eq (p : Position) (n w : Nat) (s : State) :
    s.operatorCandidate p n w =
      { unit := n, wire := w, reason := .operator
        status := if p = .bond ∧ ∃ x, s.unit? n = some x ∧ w ∈ x.done then .bonded else .waiting } := by
  simp only [State.operatorCandidate, Option.any_eq_true, List.contains_iff_mem]

/-! ### PULL_RELEASE (R126) -/

/-- The place of a number that lies `d` above the oldest, modulo 65536. -/
theorem logPlace_eq {x : PullRecord} {l : List PullRecord} {n d : Nat} (hlog : s.plm.log = x :: l) (hx : x.number < 65536)
    (hd : d < 65536) (hn : (x.number + d) % 65536 = n) :
    s.logPlace n = if d < l.length + 1 then some d else none := by
  have place : (n + 65536 - x.number) % 65536 = d := by omega
  simp only [State.logPlace, hlog, place, List.length_cons]

theorem onPullRelease_notFound {n : Nat} (h : s.logPlace n = none) : onPullRelease n s = refuse .notFound s := by
  rw [onPullRelease, h]

theorem onPullRelease_found {n d : Nat} (h : s.logPlace n = some d) : onPullRelease n s = accept (releaseRecords d s) := by
  rw [onPullRelease, h]

/-- The log has come down to `l`, with the level notice of R126. -/
def cutLog (l : List PullRecord) (s : State) : State :=
  let t : State := { s with plm := { s.plm with log := l } }
  if s.plm.half = true ∧ l.length < 256 then notify (.pullLog .belowHalf) { t with plm := { t.plm with half := false } } else t

theorem cutLog_trc (l : List PullRecord) (s : State) : (cutLog l s).trc = s.trc := by
  unfold cutLog
  dsimp only
  split
  · exact notify_trc ..
  · rfl

/-- The pull work goes on where the strip at POST waited for a place (R126, R120). -/
theorem releaseRecords_eq (d : Nat) (s : State) :
    releaseRecords d s =
      let t := cutLog (s.plm.log.drop (d + 1)) s
      if s.trc.post.any (·.logWait) then pullWork (endLogWait .post t) else t := by
  rw [← cutLog_trc (s.plm.log.drop (d + 1)) s]
  rfl

theorem releaseRecords_idle {d : Nat} (h : ∀ r, s.trc.post = some r → r.logWait = false) :
    releaseRecords d s = cutLog (s.plm.log.drop (d + 1)) s := by
  rw [releaseRecords_eq]
  exact if_neg (by simpa [Option.any_eq_true] using h)

theorem releaseRecords_waiting {d : Nat} {r : StripRecord} (hr : s.trc.post = some r) (hw : r.logWait = true) :
    releaseRecords d s =
      let t := cutLog (s.plm.log.drop (d + 1)) s
      pullWork (clearAlarm .pullLogFull .track { t with trc := { t.trc with post := some { r with logWait := false } } }) := by
  have there : (cutLog (s.plm.log.drop (d + 1)) s).strip .post = some r := by rw [State.strip, cutLog_trc, hr]
  rw [releaseRecords_eq, hr, Option.any_some]
  simp only [hw, if_true]
  rw [endLogWait_eq there, if_pos hw]
  rfl

/-! ### STATUS_READ (R172) -/

theorem onStatusRead_of_le {n : Nat} (h : n ≤ 7) :
    onStatusRead n s = acceptWith (.status (s.section_ n)) (if n = 0 then { s with ccs := { s.ccs with cause := .none } } else s) :=
  if_pos h

/-- Settles O57: each request's checks and effects are said by its own lemmas. -/
theorem pullListsAndStatusAreServed : Obligations.PullListsAndStatusAreServed := by
  intro s u tag
  refine ⟨fun seq n w => ?add, fun count => ⟨fun bad => ?badCount, fun low high takes => ?read⟩, fun n => ?release,
    fun n => ?status, serves_of_eq (f := onCountersClear) (exec_countersClear tag s) rfl⟩
  case add =>
    intro serves
    have serve {x : State} {c : ResultCode} (hx : onPullAdd seq n w u = (x, { result := c })) : serves x c :=
      serves_of_eq (f := onPullAdd seq n w) (exec_pullAdd tag seq n w s) hx
    refine ⟨fun noStrip => serve (onPullAdd_notFound (findStrip_eq_none noStrip)), fun p r hr hs only => ?_⟩
    have found := findStrip_eq_some hr hs only
    refine ⟨fun out => serve (onPullAdd_badIndex found out), fun inside closed => serve (onPullAdd_closed found inside closed),
      fun inside notClosed => ⟨fun l c m split names first => serve (onPullAdd_listed found hr inside notClosed split names first),
        fun new full => serve ?_, fun new room => serve ?_⟩⟩
    · exact (onPullAdd_new found hr inside notClosed new).trans (if_pos full)
    · rw [onPullAdd_new found hr inside notClosed new, if_neg (Nat.not_le.mpr room), operatorCandidate_eq]
      rfl
  case badCount => exact serves_of_eq (f := onPullRead count) (exec_pullRead tag count s) (if_neg (by omega))
  case read =>
    rw [exec_pullRead]
    exact act_serve_answers_of_eq (f := onPullRead count) takes (if_pos ⟨low, high⟩)
  case release =>
    intro serves
    have serve {x : State} {c : ResultCode} (hx : onPullRelease n u = (x, { result := c })) : serves x c :=
      serves_of_eq (f := onPullRelease n) (exec_pullRelease tag n s) hx
    refine ⟨fun empty => serve (onPullRelease_notFound (by rw [State.logPlace, empty])), fun x l d hlog hx hn hd number => ?_⟩
    have place := logPlace_eq hlog hx hd number
    refine ⟨fun beyond => serve (onPullRelease_notFound (by rw [place, if_neg (Nat.not_lt.mpr beyond)])), fun inside => ?_⟩
    intro t0 t
    have released := onPullRelease_found (place.trans (if_pos inside))
    have rest : cutLog (u.plm.log.drop (d + 1)) u = t := by
      rw [hlog, List.drop_succ_cons, cutLog, List.length_drop]
    refine ⟨fun idle => serve ?_, fun r hr hw => serve ?_⟩
    · rw [released, releaseRecords_idle idle, rest]
      rfl
    · rw [released, releaseRecords_waiting hr hw, rest]
      rfl
  case status =>
    intro record sections
    refine ⟨fun beyond => serves_of_eq (f := onStatusRead n) (exec_statusRead tag n s) (if_neg (Nat.not_le.mpr beyond)),
      fun d hd takes => ?_⟩
    have hn : n ≤ 7 := Nat.le_of_lt_succ (List.getElem?_eq_some_iff.mp hd).1
    have content : sections[n]? = some (u.section_ n) := by interval_cases n <;> rfl
    obtain rfl : u.section_ n = d := Option.some.inj (content.symm.trans hd)
    rw [exec_statusRead]
    exact act_serve_answers_of_eq (f := onStatusRead n) takes (onStatusRead_of_le hn)

end Sys2Proof.Machine
end

section
/-! SUPPORT. Unit records and claims, asking for a unit (R49 to R51), and the end of a claim (R53, R59). -/

namespace Sys2Proof.Machine

variable {s : State}

/-! ### Unit records and claims (R47, R49) -/

/-- Unit `u`'s record is `y`, where the strip at BOND has such a unit. -/
def State.putUnit (s : State) (u : Nat) (y : UnitRecord) : State :=
  { s with usc := { s.usc with units := some (s.units.set u y) } }

theorem units_eq_some {u : Nat} {x : UnitRecord} (h : s.unit? u = some x) : s.usc.units = some s.units := by
  unfold State.unit? State.units at *
  cases hs : s.usc.units with
  | none => simp [hs] at h
  | some l => rfl

theorem modUnit_eq {u : Nat} {x : UnitRecord} (h : s.unit? u = some x) (f : UnitRecord → UnitRecord) :
    s.modUnit u f = s.putUnit u (f x) := by
  have there : s.units[u]? = some x := h
  rw [State.modUnit, units_eq_some h, Option.map_some, modifyAt, List.modify_eq_set_getElem?, there]
  rfl

theorem unit?_putUnit {u : Nat} {x : UnitRecord} (h : s.unit? u = some x) (y : UnitRecord) :
    (s.putUnit u y).unit? u = some y := by
  obtain ⟨hu, -⟩ := List.getElem?_eq_some_iff.mp h
  exact List.getElem?_set_self hu

theorem putUnit_putUnit (u : Nat) (y z : UnitRecord) (s : State) : (s.putUnit u y).putUnit u z = s.putUnit u z := by
  simp [State.putUnit, State.units]

theorem putUnit_self {u : Nat} {x : UnitRecord} (h : s.unit? u = some x) : s.putUnit u x = s := by
  obtain ⟨hu, rfl⟩ := List.getElem?_eq_some_iff.mp h
  rw [State.putUnit, List.set_getElem_self, ← units_eq_some h]

theorem claimOf_eq_none_iff {h : Head} : s.claimOf h = none ↔ ∀ x ∈ s.units, x.claimant ≠ some h := by
  simp [State.claimOf, List.findIdx?_eq_none_iff]

/-- The claim that a head holds is a unit whose record names it. -/
theorem unit?_of_claimOf {h : Head} {u : Nat} (hc : s.claimOf h = some u) :
    ∃ x, s.unit? u = some x ∧ x.claimant = some h := by
  obtain ⟨hu, names, -⟩ := List.findIdx?_eq_some_iff_getElem.mp hc
  exact ⟨s.units[u], List.getElem?_eq_getElem hu, by simpa using names⟩

theorem claimOf_congr {t : State} (hu : t.usc = s.usc) (h : Head) : t.claimOf h = s.claimOf h := by
  rw [State.claimOf, State.units, hu]
  rfl

/-- The unit of a claim names the head. -/
theorem claimant_of_claimOf {h : Head} {u : Nat} {x : UnitRecord} (hc : s.claimOf h = some u) (hx : s.unit? u = some x) :
    x.claimant = some h := by
  obtain ⟨y, hy, names⟩ := unit?_of_claimOf hc
  exact Option.some.inj (hy.symm.trans hx) ▸ names

/-- A head keeps its claim while the unit's record names it. -/
theorem claimOf_putUnit {h : Head} {u : Nat} {y : UnitRecord} (hc : s.claimOf h = some u) (names : y.claimant = some h) :
    (s.putUnit u y).claimOf h = some u := by
  obtain ⟨hu, -, before⟩ := List.findIdx?_eq_some_iff_getElem.mp hc
  refine List.findIdx?_eq_some_iff_getElem.mpr ⟨by simpa [State.putUnit, State.units] using hu, ?_, fun v hv => ?_⟩
  · simp [State.putUnit, State.units, names]
  · have same : (s.putUnit u y).units[v]'(by simpa [State.putUnit, State.units] using hv.trans hu) = s.units[v] :=
      List.getElem_set_ne (Nat.ne_of_gt hv) _
    have other := of_decide_eq_false (Bool.eq_false_of_not_eq_true (before v hv))
    simpa [same] using other

theorem held_iff {p : Nat} : s.held p = true ↔ s.plm.progState.getD p .running = .held := decide_eq_true_iff

theorem bondProgram_eq {r : StripRecord} (h : s.trc.bond = some r) : s.bondProgram = r.program := by
  simp [State.bondProgram, h]

/-! ### Asking for a unit (R49, R50) -/

theorem working_iff : s.working = true ↔ s.ccs.cell = .run ∨ s.ccs.cell = .drain := by
  simp [State.working]

theorem mayAsk_iff {h : Head} :
    s.mayAsk h = true ↔
      ((s.head h).state = .idle ∨ (s.head h).state = .parked) ∧ s.claimOf h = none ∧ (s.ccs.cell = .run ∨ s.ccs.cell = .drain) ∧
        ∃ r, s.trc.bond = some r ∧ r.state = .bonding ∧ r.scrapped = false := by
  unfold State.mayAsk
  cases s.trc.bond <;> simp [working_iff, and_assoc]

/-- A head looks for a PENDING unit from its own end of the strip. -/
def lookOrder (h : Head) (u v : Nat) : Prop := if h = .a then u ≤ v else v ≤ u

theorem pending_iff {units : List UnitRecord} {u : Nat} :
    decide ((units[u]?.map (·.state)) = some .pending) = true ↔ ∃ x, units[u]? = some x ∧ x.state = .pending := by
  simp

/-- The candidate is the first PENDING unit in the head's order (R50). -/
theorem candidateUnit_eq_some {h : Head} {units : List UnitRecord} {u : Nat} {x : UnitRecord} (hu : units[u]? = some x)
    (hx : x.state = .pending) (first : ∀ v y, units[v]? = some y → y.state = .pending → lookOrder h u v) :
    candidateUnit h units = some u := by
  have inside {v : Nat} {y : UnitRecord} (hv : units[v]? = some y) : v < units.length := (List.getElem?_eq_some_iff.mp hv).1
  have least (v : Nat) (hv : decide ((units[v]?.map (·.state)) = some .pending) = true) : lookOrder h u v := by
    obtain ⟨y, hy, pending⟩ := pending_iff.mp hv
    exact first v y hy pending
  have found := pending_iff.mpr ⟨x, hu, hx⟩
  cases h with
  | a =>
    exact (find?_eq_some_iff_of_pairwise Nat.le_refl (List.pairwise_lt_range.imp Nat.not_le.mpr) fun _ _ => Nat.le_of_not_ge).mpr
      ⟨⟨List.mem_range.mpr (inside hu), found⟩, fun v _ => least v⟩
  | b =>
    refine (find?_eq_some_iff_of_pairwise (le := fun u v => v ≤ u) Nat.le_refl ?_ fun _ _ => Nat.le_of_not_ge).mpr
      ⟨⟨List.mem_reverse.mpr (List.mem_range.mpr (inside hu)), found⟩, fun v _ => least v⟩
    exact List.pairwise_reverse.mpr (List.pairwise_lt_range.imp Nat.not_le.mpr)

theorem candidateUnit_eq_none {h : Head} {units : List UnitRecord} (none_ : ∀ x ∈ units, x.state ≠ .pending) :
    candidateUnit h units = none := by
  have fails (u : Nat) : ¬decide ((units[u]?.map (·.state)) = some .pending) = true := fun k => by
    obtain ⟨x, hx, pending⟩ := pending_iff.mp k
    exact none_ x (List.mem_of_getElem? hx) pending
  cases h <;> exact List.find?_eq_none.mpr fun u _ => fails u

/-- A candidate is not claimable while the other head claims a unit within the guard columns of it (R50). -/
theorem claimable_eq_false_iff {e : ProgramEntry} {u : Nat} {other : Option Nat} :
    claimable e u other = false ↔
      ∃ v, other = some v ∧ u / e.rows ≤ v / e.rows + e.guard ∧ v / e.rows ≤ u / e.rows + e.guard := by
  cases other with
  | none => simp [claimable]
  | some v =>
    simp only [claimable, Bool.or_eq_false_iff, decide_eq_false_iff_not, Option.some.injEq, exists_eq_left']
    unfold unitColumn
    omega

section
variable {h : Head}

theorem askUnit_of_not (no : ¬s.mayAsk h = true) : askUnit h s = s := if_neg no

theorem askUnit_of_held (asks : s.mayAsk h = true) (held : s.held s.bondProgram = true) : askUnit h s = holdForProgram h s :=
  (if_pos asks).trans (if_pos held)

/-- Past the checks a head looks for its candidate. -/
theorem askUnit_of_running (asks : s.mayAsk h = true) (running : s.held s.bondProgram = false) :
    askUnit h s =
      match candidateUnit h s.units with
      | some u =>
        if claimable (s.program s.bondProgram) u (s.claimOf h.other) then claimUnit h u s else setHeadState h .parked s
      | none => setHeadState h (if (s.claimOf h.other).isSome then .parked else .idle) s :=
  (if_pos asks).trans (if_neg (by simp [running]))

end

/-- Settles O10: the conditions are `mayAsk_iff`, and the rows of R49's table are read off the head's candidate. -/
theorem headsClaimTheirCandidates : Obligations.HeadsClaimTheirCandidates := by
  refine ⟨fun _ _ => held_iff, fun _ _ => bondProgram_eq, fun _ _ => ⟨claimOf_eq_none_iff, fun _ => unit?_of_claimOf⟩, fun h s => ?_⟩
  intro p asks
  have may : asks → s.mayAsk h = true := mayAsk_iff.mpr
  refine ⟨fun no => askUnit_of_not (no ∘ mayAsk_iff.mp), fun asks held => askUnit_of_held (may asks) held,
    fun asks running none_ => ?_, fun asks running u x hu hx first => ?_⟩
  · rw [askUnit_of_running (may asks) running, candidateUnit_eq_none none_]
    rfl
  · rw [askUnit_of_running (may asks) running, candidateUnit_eq_some hu hx first]
    dsimp only
    split
    · rename_i free
      exact (if_neg fun near => Bool.false_ne_true ((claimable_eq_false_iff.mpr near).symm.trans free)).symm
    · rename_i near
      exact (if_pos (claimable_eq_false_iff.mp (Bool.eq_false_of_not_eq_true near))).symm

/-! ### The end of a claim (R51, R53, R59) -/

theorem holdSet_isEmpty_iff {l : HoldSet} : l.isEmpty = true ↔ l = {} := by
  obtain ⟨o, c, e, n, a, p, f⟩ := l
  simp [HoldSet.isEmpty, and_assoc]

theorem atBoundary_eq (h : Head) (s : State) :
    atBoundary h s =
      if (s.head h).hold ≠ {} then s.modHead h fun c => { c with state := .hold }
      else
        match s.claimOf h with
        | some u => startWire h u s
        | none => askUnit h (s.modHead h fun c => { c with state := .idle }) := by
  rw [ite_not, atBoundary, if_congr holdSet_isEmpty_iff rfl rfl]
  rfl

/-- A head that keeps its claim starts the claimed wire, or enters HOLD (R52 step 6). -/
theorem atBoundary_of_claim {h : Head} {u : Nat} (hc : s.claimOf h = some u) :
    atBoundary h s =
      if (s.head h).hold = {} then startWire h u s else s.modHead h fun c => { c with state := .hold } := by
  rw [atBoundary_eq, hc, ite_not]

/-- A head at its boundary and one that is not PARKED, or has a reason to hold: the head goes first (R53). -/
theorem closeClaim_own {h : Head} (one : (s.head h.other).state ≠ .parked ∨ (s.head h).hold ≠ {}) :
    closeClaim h true s = evaluateChecking (reaskParked h.other (atBoundary h s)) := by
  have notBoth : ¬((s.head h.other).state = .parked ∧ (s.head h).hold.isEmpty = true) := fun k =>
    one.elim (· k.1) (· (holdSet_isEmpty_iff.mp k.2))
  exact (if_pos rfl).trans (if_neg notBoth)

/-- Both heads ask: a free choice says which is first (R51; log entry 3). -/
theorem closeClaim_both {h : Head} (parked : (s.head h.other).state = .parked) (free : (s.head h).hold = {}) :
    let t : State := { s with free := s.free + 1 }
    closeClaim h true s = evaluateChecking (reaskParked h.other (atBoundary h t)) ∨
      closeClaim h true s = evaluateChecking (atBoundary h (reaskParked h.other t)) := by
  intro t
  have chosen : closeClaim h true s =
      if Config.firstHeadIsA s.free = decide (h = .a) then evaluateChecking (reaskParked h.other (atBoundary h t))
      else evaluateChecking (atBoundary h (reaskParked h.other t)) :=
    (if_pos rfl).trans (if_pos ⟨parked, holdSet_isEmpty_iff.mpr free⟩)
  rw [chosen]
  exact ite_eq_or_eq ..

/-- The conditions of R59, and that the program is not HELD. -/
theorem evaluateChecking_eq {r : StripRecord} {l : List UnitRecord} (hr : s.trc.bond = some r) (hl : s.usc.units = some l) :
    evaluateChecking s =
      if r.state = .bonding ∧ r.scrapped = false ∧ s.plm.progState.getD r.program .running ≠ .held ∧
          ∀ x ∈ l, x.state ≠ .pending ∧ x.state ≠ .claimed then
        walk 0 0 (unpark .b (unpark .a { s with trc := { s.trc with bond := some { r with state := .checking } } }))
      else s := by
  simp only [evaluateChecking, hr, hl, modStrip_eq (p := .bond) hr]
  refine if_congr ?_ rfl rfl
  simp [State.held]

theorem evaluateChecking_of_none (h : s.trc.bond = none ∨ s.usc.units = none) : evaluateChecking s = s := by
  unfold evaluateChecking
  split
  · rename_i bond units
    exact h.elim (fun none_ => nomatch none_.symm.trans bond) fun none_ => nomatch none_.symm.trans units
  · rfl

/-- Settles O15: the order of the two requests is `closeClaim_own` and `closeClaim_both`, the evaluation `evaluateChecking_eq`. -/
theorem claimsEndWithAnEvaluation : Obligations.ClaimsEndWithAnEvaluation := by
  intro h s
  refine ⟨?_, ?_⟩
  · intro go ask fresh
    have boundary (t : State) : atBoundary h t = go t := atBoundary_eq h t
    have asked (t : State) : reaskParked h.other t = ask t := rfl
    simp only [← boundary, ← asked]
    exact ⟨rfl, closeClaim_own, closeClaim_both⟩
  · intro idle
    refine ⟨fun r l hr hl bonding live running settled => ?_, fun stays => ?_⟩
    · rw [evaluateChecking_eq hr hl, if_pos ⟨bonding, live, running, settled⟩]
      rfl
    · cases hr : s.trc.bond with
      | none => exact evaluateChecking_of_none (.inl hr)
      | some r =>
        cases hl : s.usc.units with
        | none => exact evaluateChecking_of_none (.inr hl)
        | some l =>
          rw [evaluateChecking_eq hr hl, if_neg]
          rintro ⟨bonding, live, running, settled⟩
          rcases stays r l hr hl bonding live with held | ⟨x, hx, open_⟩
          · exact running held
          · exact open_.elim (settled x hx).1 (settled x hx).2

end Sys2Proof.Machine
end

section
/-! SUPPORT. What a finished wire does to the candidate list (R117), and wire end reports (R52, R58, R108). -/

namespace Sys2Proof.Machine

variable {s : State}

/-! ### The hand-over of a finished wire (R117) -/

theorem mem_insertMark {l : List Nat} {v k : Nat} : k ∈ insertMark l v ↔ k = v ∨ k ∈ l := by
  induction l with
  | nil => simp [insertMark]
  | cons x xs ih =>
    unfold insertMark
    split
    · exact List.mem_cons
    · split
      · rename_i same
        simp [same]
      · simp only [List.mem_cons, ih, or_left_comm]

/-- The first name of a list whose flag is set. -/
theorem map_find?_cons {α : Type} (a : α) (b : Bool) (l : List (α × Bool)) :
    (((a, b) :: l).find? (·.2)).map (·.1) = if b then some a else (l.find? (·.2)).map (·.1) := by
  cases b <;> rfl

/-- The directed reason is the first of R117's list that the plan asks for and the wire shows. -/
theorem directedReason_eq (set : ReasonSet) (ball stitch : Option VoteEntry) (retried : Bool) :
    let shows (f : VoteEntry → Bool) : Bool := ball.any f || stitch.any f
    directedReason set ball stitch retried =
      ([ (CandidateReason.dissent, set.dissent && shows (·.dissent)), (.highEnergy, set.highEnergy && shows (·.summary.highEnergy))
       , (.slowStart, set.slowStart && shows (·.summary.slowStart)), (.retried, set.retried && retried) ].find? (·.2)).map (·.1) := by
  simp only [map_find?_cons]
  rfl

/-- A candidate that a directed one may replace: PLANNED and not recorded (R117). -/
abbrev Candidate.gives (c : Candidate) : Prop := c.reason = .planned ∧ c.record = none

/-- The search of R117 step 4 goes from the end of the list. -/
theorem replaceable_eq (l : List Candidate) :
    replaceable l = (List.range l.length).reverse.find? fun i => (l[i]?).any fun c => decide c.gives := by
  unfold replaceable
  congr 1
  funext i
  rw [Bool.eq_iff_iff]
  cases l[i]? <;> simp [Candidate.recorded]

/-- The candidate replaced is the last that may be. -/
theorem replaceable_append_cons {l m : List Candidate} {c : Candidate} (hc : c.gives) (last : ∀ d ∈ m, ¬d.gives) :
    replaceable (l ++ c :: m) = some l.length := by
  rw [replaceable_eq, find?_eq_some_iff_of_pairwise (le := fun i j => j ≤ i) Nat.le_refl
    (List.pairwise_reverse.mpr (List.pairwise_lt_range.imp Nat.not_le.mpr)) fun _ _ => Nat.le_of_not_ge]
  refine ⟨by simpa using hc, fun i _ hi => Nat.le_of_not_lt fun after => ?_⟩
  obtain ⟨d, hd, gives⟩ := (Option.any_eq_true _ _).mp hi
  obtain ⟨k, rfl⟩ := Nat.exists_eq_add_of_lt after
  rw [Nat.add_assoc, List.getElem?_append_right (Nat.le_add_right ..), Nat.add_sub_cancel_left] at hd
  exact last d (List.mem_of_getElem? hd) (of_decide_eq_true gives)

theorem replaceable_eq_none {l : List Candidate} (h : ∀ d ∈ l, ¬d.gives) : replaceable l = none := by
  rw [replaceable_eq]
  refine List.find?_eq_none.mpr fun i _ hi => ?_
  obtain ⟨d, hd, gives⟩ := (Option.any_eq_true _ _).mp hi
  exact h d (List.mem_of_getElem? hd) (of_decide_eq_true gives)

section
variable {r : StripRecord} {c : Candidate}

theorem insertDirected_of_room (room : r.candidates.length < 48) :
    insertDirected r c = { r with candidates := r.candidates ++ [c] } := if_pos room

theorem insertDirected_replaces {l m : List Candidate} {d : Candidate} (full : 48 ≤ r.candidates.length)
    (split : r.candidates = l ++ d :: m) (hd : d.gives) (last : ∀ d ∈ m, ¬d.gives) :
    insertDirected r c = { r with candidates := l ++ m ++ [c] } := by
  refine (if_neg (Nat.not_lt.mpr full)).trans ?_
  rw [split, replaceable_append_cons hd last]
  simp [List.eraseIdx_append_of_length_le]

theorem insertDirected_overflows (full : 48 ≤ r.candidates.length) (h : ∀ d ∈ r.candidates, ¬d.gives) :
    insertDirected r c = { r with overflow := true } := by
  refine (if_neg (Nat.not_lt.mpr full)).trans ?_
  rw [replaceable_eq_none h]

end

section
variable {set : ReasonSet} {h : Head} {u w : Nat} {v : VoteRecord} {retried : Bool} {r : StripRecord}

theorem wireMade_scrapped (hr : r.scrapped = true) : wireMade set h u w v retried r = r := if_pos hr

/-- What a bond of head `h` writes into the candidate of its wire (R117). -/
def Candidate.bonded (h : Head) (v : VoteRecord) (c : Candidate) : Candidate :=
  { c with ball := v.ball.map (·.summary), stitch := v.stitch.map (·.summary), head := some h, status := .bonded }

theorem wireMade_listed (live : r.scrapped = false) {l m : List Candidate} {c : Candidate} (split : r.candidates = l ++ c :: m)
    (names : c.unit = u ∧ c.wire = w) (first : ∀ d ∈ l, ¬(d.unit = u ∧ d.wire = w)) :
    wireMade set h u w v retried r = { r with
      candidates := l ++ { c.bonded h v with reason := (directedReason set v.ball v.stitch retried).getD c.reason } :: m } := by
  rw [wireMade, if_neg (by simp [live]), split, candidateIndex_append_cons names first]
  simp only [modifyAt_append_cons]
  rfl

theorem wireMade_undirected (live : r.scrapped = false) (new : ∀ d ∈ r.candidates, ¬(d.unit = u ∧ d.wire = w))
    (plain : directedReason set v.ball v.stitch retried = none) : wireMade set h u w v retried r = r := by
  refine (if_neg (by simp [live])).trans ?_
  simp only [candidateIndex_eq_none new, plain]

theorem wireMade_directed {x : CandidateReason} (live : r.scrapped = false)
    (new : ∀ d ∈ r.candidates, ¬(d.unit = u ∧ d.wire = w)) (hx : directedReason set v.ball v.stitch retried = some x) :
    wireMade set h u w v retried r =
      insertDirected r (Candidate.bonded h v { unit := u, wire := w, reason := x, status := .bonded }) := by
  refine (if_neg (by simp [live])).trans ?_
  simp only [candidateIndex_eq_none new, hx, Candidate.bonded]

end

theorem wireMade_program (set : ReasonSet) (h : Head) (u w : Nat) (v : VoteRecord) (retried : Bool) (r : StripRecord) :
    (wireMade set h u w v retried r).program = r.program :=
  congrArg (·.2.1) (wireMade_key set h u w v retried r)

/-! ### Wire end reports (R52) -/

/-- The marks of a unit after a report for wire `w` (R52 step 1). -/
def UnitRecord.marks (x : UnitRecord) (w : Nat) (done : Bool) : List Nat := if done then insertMark x.done w else x.done

/-- The record of the strip at BOND after head `h`'s report for wire `w` of unit `u` (R52 step 1, R117). -/
def State.counted (s : State) (h : Head) (u w : Nat) (done : Bool) (r : StripRecord) : StripRecord :=
  if done then
    wireMade (PlanInForce (s.plm.plans.getD r.program {})) h u w (s.vcu.votes.get h) (s.head h).retried
      { r with wiresBonded := min 65535 (r.wiresBonded + 1) }
  else { r with wiresMissed := min 65535 (r.wiresMissed + 1) }

/-- Head `h` has reported a wire of unit `u`: the unit's record is `y`, the strip's `r`, and the head's votes are gone. -/
def State.reported (s : State) (h : Head) (u : Nat) (y : UnitRecord) (r : StripRecord) : State :=
  clearVotes h ((s.putUnit u y).setStrip .bond (some r))

theorem counted_program (h : Head) (u w : Nat) (done : Bool) (r : StripRecord) (s : State) :
    (s.counted h u w done r).program = r.program := by
  unfold State.counted
  split
  · exact wireMade_program ..
  · rfl

section
variable {h : Head} {u : Nat} {x : UnitRecord} {r : StripRecord}

/-- A report writes the unit's marks, the strip's counts and candidates, and the vote record (R52 step 1, R101, R117). -/
theorem wireOutcome_eq (hx : s.unit? u = some x) (hr : s.trc.bond = some r) (w : Nat) (done : Bool) :
    wireOutcome h u w done s = s.reported h u { x with done := x.marks w done } (s.counted h u w done r) := by
  cases done with
  | true =>
    simp only [wireOutcome, if_true, modUnit_eq hx, bondProgram_eq hr]
    exact congrArg (clearVotes h) (modStrip_eq (p := .bond) (by exact hr) _)
  | false =>
    have kept : s.putUnit u { x with done := x.marks w false } = s := putUnit_self hx
    rw [State.reported, kept]
    exact congrArg (clearVotes h) (modStrip_eq (p := .bond) hr _)

/-- A further change of the reported unit. -/
theorem modUnit_reported (hx : s.unit? u = some x) (y : UnitRecord) (r : StripRecord) (f : UnitRecord → UnitRecord) :
    (s.reported h u y r).modUnit u f = s.reported h u (f y) r :=
  (modUnit_eq (s := s.reported h u y r) (unit?_putUnit hx y) f).trans
    (congrArg (fun t : State => clearVotes h (t.setStrip .bond (some r))) (putUnit_putUnit u y (f y) s))

theorem skipClaimed_reported (hx : s.unit? u = some x) (y : UnitRecord) (r : StripRecord) :
    skipClaimed u (s.reported h u y r) =
      s.reported h u { y with state := .skipped, skipPending := false, claimant := none, rebond := none }
        { r with skip := r.skip ||| 1#64 <<< u } := by
  rw [skipClaimed, modUnit_reported hx]
  rfl

theorem allDone_iff {wires : Nat} : x.allDone wires = true ↔ ∀ w < wires, w ∈ x.done := by
  simp [UnitRecord.allDone]

theorem finishUnit_reported (hx : s.unit? u = some x) (y : UnitRecord) (r : StripRecord) (wires : Nat) :
    finishUnit u wires (s.reported h u y r) =
      s.reported h u
        { y with state := if ∀ w < wires, w ∈ y.done then .done else .partial_, claimant := none, rebond := none } r := by
  rw [finishUnit, modUnit_reported hx]
  simp only [allDone_iff]

end

/-- The unit of a claim after the head's report (R52 steps 1 and 2). -/
def UnitRecord.stepped (x : UnitRecord) (done : Bool) : UnitRecord :=
  { x with done := x.marks x.resume done, resume := x.resume + 1 }

/-- What follows the report of a normal claim, first that applies (R52 steps 3 to 6). -/
theorem wireEndReport_normal {h : Head} {u : Nat} {x : UnitRecord} {r : StripRecord} (hc : s.claimOf h = some u)
    (hx : s.unit? u = some x) (hr : s.trc.bond = some r) (normal : x.rebond = none) (done own : Bool) :
    let wires := (s.program r.program).wireCount
    let y := x.stepped done
    let c := s.counted h u x.resume done r
    wireEndReport h done own s =
      if x.skipPending then
        closeClaim h own (s.reported h u { y with state := .skipped, skipPending := false, claimant := none }
          { c with skip := c.skip ||| 1#64 <<< u })
      else if wires ≤ x.resume + 1 then
        closeClaim h own (s.reported h u
          { y with state := if ∀ w < wires, w ∈ y.done then .done else .partial_, claimant := none } c)
      else
        let t := if s.held r.program then addReason .program h (s.reported h u y c) else s.reported h u y c
        if own then atBoundary h t else t := by
  intro wires y c
  have outcome : (wireOutcome h u x.resume done s).modUnit u (fun x => { x with resume := x.resume + 1 }) = s.reported h u y c := by
    rw [wireOutcome_eq hx hr, modUnit_reported hx]
    rfl
  have held : (s.reported h u y c).held (s.reported h u y c).bondProgram = s.held r.program :=
    congrArg s.held (counted_program h u x.resume done r s)
  have kept : y.rebond = none := normal
  simp only [wireEndReport, hc, hx, normal, bondProgram_eq hr]
  rw [outcome, held, skipClaimed_reported hx, finishUnit_reported hx, kept]

@[simp] theorem addReason_usc (r : HoldReason) (h : Head) (s : State) : (addReason r h s).usc = s.usc := by
  unfold addReason
  split <;> rfl

/-- Settles O13: the hand-over is `wireMade_listed`, `wireMade_undirected` and `wireMade_directed`, the report `wireEndReport_normal`. -/
theorem wireEndReportsStepTheUnit : Obligations.WireEndReportsStepTheUnit := by
  refine ⟨fun _ _ _ => mem_insertMark, ?handover, ?report⟩
  case handover =>
    intro set h u w v retried r t shows reason bonded pair planned
    have hreason : directedReason set v.ball v.stitch retried = reason := directedReason_eq ..
    refine ⟨wireMade_scrapped, fun live => ⟨fun l c m split names first => ?_,
      fun new none_ => wireMade_undirected live new (hreason.trans none_), fun new x hx => ?_⟩⟩
    · rw [← hreason]
      exact wireMade_listed live split names first
    · intro made
      have inserted : t = insertDirected r made := wireMade_directed live new (hreason.trans hx)
      rw [inserted]
      exact ⟨insertDirected_of_room, fun full l c m split hc last => insertDirected_replaces full split hc last,
        insertDirected_overflows⟩
  case report =>
    intro h done own s u x r hc hx hr normal wires e y counted reported after
    have names : y.claimant = some h := claimant_of_claimOf (x := x) hc hx
    have claims : (reported y counted).claimOf h = some u := claimOf_putUnit hc names
    have goesOn (t : State) (ht : t.usc = (reported y counted).usc) : (if own then atBoundary h t else t) = after t := by
      rw [atBoundary_of_claim ((claimOf_congr ht h).trans claims)]
    rw [← goesOn _ rfl, ← goesOn _ (addReason_usc ..), wireEndReport_normal hc hx hr normal,
      ← apply_ite fun t : State => if own then atBoundary h t else t]
    rfl

/-! ### Rebond claims (R58, R108) -/

/-- A rebond claim ends with its report, and the scan that waited for it walks on (R58, R108). -/
theorem wireEndReport_rebond {h : Head} {u w : Nat} {x : UnitRecord} {r : StripRecord} (hc : s.claimOf h = some u)
    (hx : s.unit? u = some x) (hr : s.trc.bond = some r) (rebond : x.rebond = some w) (done own : Bool) :
    let wires := (s.program r.program).wireCount
    let marks := x.marks w done
    let t := s.reported h u
      { x with done := marks, state := if ∀ v < wires, v ∈ marks then .done else .partial_, claimant := none, rebond := none }
      (s.counted h u w done r)
    let ended : State := { t with vcu := { t.vcu with pendingWire := none, rebondHead := none } }
    let asked := reaskParked h.other (if own then atBoundary h ended else ended)
    wireEndReport h done own s = if s.vcu.scan = some .rebond then walk u w asked else asked := by
  intro wires marks t ended asked
  have finished : finishUnit u wires (wireOutcome h u w done s) = t := by
    rw [wireOutcome_eq hx hr, finishUnit_reported hx]
  simp only [wireEndReport, hc, hx, rebond, endRebond, bondProgram_eq hr, finished, wires, decide_eq_true_eq]
  rfl

/-- Settles O14: the report is `wireEndReport_rebond`, and the head's own next step `atBoundary_eq`. -/
theorem rebondClaimsResumeTheScan : Obligations.RebondClaimsResumeTheScan := by
  intro h done own s u w x r hc hx hr rebond wires e marks y counted ended next asked
  have boundary : (if own then atBoundary h ended else ended) = next := by
    rw [atBoundary_eq]
    cases own <;> rfl
  have asks : reaskParked h.other next = asked := rfl
  rw [← asks, ← boundary, wireEndReport_rebond hc hx hr rebond]
  rfl

end Sys2Proof.Machine
end

section
/-! SUPPORT. SKIP_UNIT (R55, R56). -/

namespace Sys2Proof.Machine

variable {s : State}

/-! ### The checks of SKIP_UNIT (R55) -/

theorem onSkipUnit_notFound {seq n : Nat} (h : s.findStrip seq = none) : onSkipUnit seq n s = refuse .notFound s := by
  rw [onSkipUnit, h]

section
variable {seq n : Nat} {p : Position} {r : StripRecord}

theorem onSkipUnit_badIndex (found : s.findStrip seq = some (p, r))
    (out : (s.program r.program).rows * (s.program r.program).columns ≤ n) : onSkipUnit seq n s = refuse .badIndex s := by
  simp only [onSkipUnit, found]
  exact if_pos out

/-- Past the checks of the strip and of the unit number, the strip's flag and state decide (the first table of R55). -/
theorem onSkipUnit_inside (found : s.findStrip seq = some (p, r))
    (inside : n < (s.program r.program).rows * (s.program r.program).columns) :
    onSkipUnit seq n s =
      if r.scrapped then refuse .badState s
      else if r.state ∈ [.idHold, .preheat, .waitBond] then accept (s.modStrip p fun r => { r with skip := markUnit r.skip n })
      else if r.state = .bonding then skipBonding n s else refuse .badState s := by
  simp only [onSkipUnit, found]
  refine (if_neg (Nat.not_le.mpr inside)).trans ?_
  congr 1
  cases r.state <;> rfl

/-! ### A unit of a strip in BONDING (R55, R56) -/

theorem skipBonding_refused {x : UnitRecord} (hx : s.unit? n = some x) (h : x.state = .done ∨ x.state = .partial_) :
    skipBonding n s = refuse .badState s := by
  rcases h with h | h <;> simp only [skipBonding, hx, h]

theorem skipBonding_marked {x : UnitRecord} (hx : s.unit? n = some x)
    (h : x.state = .skipped ∨ x.state = .claimed ∧ x.skipPending = true) : skipBonding n s = accept s := by
  rcases h with h | ⟨h, marked⟩
  · simp only [skipBonding, hx, h]
  · simp only [skipBonding, hx, h, marked, if_true]

theorem skipBonding_pending {x : UnitRecord} (hx : s.unit? n = some x) (h : x.state = .pending) :
    skipBonding n s = accept (evaluateChecking (reaskParked .b (reaskParked .a
      (markSkipped n (s.putUnit n { x with state := .skipped }))))) := by
  simp only [skipBonding, hx, h, skipPendingUnit, modUnit_eq hx]

/-- A claim stands on with skip pending, unless its head is in HOLD (R56). -/
theorem skipBonding_claimed {x : UnitRecord} {h : Head} (hx : s.unit? n = some x) (hs : x.state = .claimed)
    (new : x.skipPending = false) (hh : x.claimant = some h) :
    let t := s.putUnit n { x with skipPending := true }
    skipBonding n s = accept
      (if (s.head h).state = .hold then if (s.head h).nsb = none then skipNow h true t else endNsb h t else t) := by
  intro t
  have decides : (if (s.head h).nsb.isSome then endNsb h t else skipNow h true t) =
      if (s.head h).nsb = none then skipNow h true t else endNsb h t := by
    cases (s.head h).nsb <;> rfl
  have claimed : skipBonding n s = accept (skipClaim n h s) := by
    simp only [skipBonding, hx, hs, new, hh, Bool.false_eq_true, if_false]
  rw [claimed, ← decides, skipClaim, modUnit_eq hx]

end

/-- The decision of a head in HOLD ends with its not-done report (R74). -/
theorem endNsb_of_hold {h : Head} (hold : (s.head h).state = .hold) :
    endNsb h s = wireEndReport h false true
      ((clearAlarm .nsol (.head h) (clearAlarm .nsop (.head h)
        (s.modHead h fun c => { c with nsb := none, hold := c.hold.put .nsb false }))).modHead h fun c =>
          { c with missed := min 65535 (c.missed + 1) }) := by
  rw [endNsb, hold]
  rfl

/-- A claim that ends at once with its unit SKIPPED (R56). -/
theorem skipNow_of_claim {h : Head} {u : Nat} {x : UnitRecord} (hc : s.claimOf h = some u) (hx : s.unit? u = some x)
    (own : Bool) :
    skipNow h own s = closeClaim h own (markSkipped u
      (s.putUnit u { x with state := .skipped, skipPending := false, claimant := none, rebond := none })) := by
  rw [skipNow, hc]
  simp only [skipClaimed, modUnit_eq hx]

/-- Settles O48: `onSkipUnit_inside` is the table of the strip's states, the `skipBonding` lemmas that of the unit's. -/
theorem skippedUnitsLeaveTheirClaims : Obligations.SkippedUnitsLeaveTheirClaims := by
  intro s u tag seq n serves
  have serve {x : State} {c : ResultCode} (hx : onSkipUnit seq n u = (x, { result := c })) : serves x c :=
    serves_of_eq (f := onSkipUnit seq n) (exec_stripOpSkipUnit tag seq n s) hx
  refine ⟨fun noStrip => serve (onSkipUnit_notFound (findStrip_eq_none noStrip)), fun p r hr hs only => ?strip, fun h own t => ?claim⟩
  case strip =>
    intro units marked record
    have found := findStrip_eq_some hr hs only
    refine ⟨fun out => serve (onSkipUnit_badIndex found out), fun inside closed => serve ?_, fun inside live waits => serve ?_,
      fun inside live bonding hp x hx => ?_⟩
    · rw [onSkipUnit_inside found inside]
      rcases closed with scrapped | state
      · exact if_pos scrapped
      · have passed : r.state ∉ [.idHold, .preheat, .waitBond] ∧ r.state ≠ .bonding := by
          revert state
          cases r.state <;> decide
        rw [if_neg passed.1, if_neg passed.2, ite_self]
        rfl
    · rw [onSkipUnit_inside found inside, modStrip_eq hr]
      exact (if_neg (by simp [live])).trans (if_pos waits)
    · have bonded : onSkipUnit seq n u = skipBonding n u := by
        rw [onSkipUnit_inside found inside, live, bonding]
        rfl
      refine ⟨fun ended => serve (bonded.trans (skipBonding_refused hx ended)),
        fun already => serve (bonded.trans (skipBonding_marked hx already)), fun pending => ?_, fun claimed new h names => ?_⟩
      · intro ask
        exact serve (bonded.trans (skipBonding_pending hx pending))
      · intro t
        refine serve (bonded.trans ((skipBonding_claimed hx claimed new names).trans (congrArg accept ?_)))
        refine ite_congr rfl (fun hold => ?_) fun _ => rfl
        exact ite_congr rfl (fun _ => rfl) fun _ => endNsb_of_hold hold
  case claim =>
    refine ⟨fun free => by rw [skipNow, free], fun v x hc hx => skipNow_of_claim hc hx own⟩

end Sys2Proof.Machine
end

section
/-! SUPPORT. Statistics and the capability check (R129 to R132), the program hold (R133) and their requests (R130, R131, R135). -/

namespace Sys2Proof.Machine

variable {s : State}

/-! ### The root that R131 rounds down -/

/-- Each bit from `n - 1` down keeps the root between `acc` and `acc + 2 ^ n`. -/
theorem isqrtBits_spec {x n acc : Nat} (low : acc * acc ≤ x) (high : x < (acc + 2 ^ n) * (acc + 2 ^ n)) :
    let d := isqrtBits x n acc
    d * d ≤ x ∧ x < (d + 1) * (d + 1) := by
  induction n generalizing acc with
  | zero => exact ⟨low, high⟩
  | succ n ih =>
    unfold isqrtBits
    split
    · rename_i fits
      refine ih fits ?_
      rwa [Nat.add_assoc, ← Nat.two_mul, ← Nat.pow_succ']
    · exact ih low (Nat.lt_of_not_le ‹_›)

/-- `isqrt` gives the largest integer whose square does not exceed `x`. -/
theorem isqrt_spec (x : Nat) : isqrt x * isqrt x ≤ x ∧ x < (isqrt x + 1) * (isqrt x + 1) := by
  refine isqrtBits_spec (Nat.zero_le x) ?_
  calc x < 2 ^ (x.log2 + 1) := Nat.lt_log2_self
    _ ≤ 2 ^ ((x.log2 / 2 + 1) + (x.log2 / 2 + 1)) := Nat.pow_le_pow_right (by decide) (by omega)
    _ = (0 + 2 ^ (x.log2 / 2 + 1)) * (0 + 2 ^ (x.log2 / 2 + 1)) := by rw [Nat.pow_add, Nat.zero_add]

/-- There is one such integer. -/
theorem eq_isqrt {x d : Nat} (h : d * d ≤ x ∧ x < (d + 1) * (d + 1)) : d = isqrt x := by
  obtain ⟨low, high⟩ := isqrt_spec x
  exact Nat.le_antisymm (Nat.le_of_lt_succ (Nat.mul_self_lt_mul_self_iff.mp (h.1.trans_lt high)))
    (Nat.le_of_lt_succ (Nat.mul_self_lt_mul_self_iff.mp (low.trans_lt h.2)))

/-! ### Derived values (R131) -/

/-- `d` is the deviation of the statistics `z` (R131). -/
abbrev Stats.deviates (z : Stats) (d : Nat) : Prop :=
  let q := (z.n * z.sumSq - z.sum * z.sum) / (z.n * (z.n - 1))
  d * d ≤ q ∧ q < (d + 1) * (d + 1)

theorem Stats.mean_eq (z : Stats) : z.mean = if z.n = 0 then none else some (z.sum / z.n) := by
  rw [Stats.mean, ← ite_not]
  exact if_congr (by omega) rfl rfl

theorem Stats.sd_eq {z : Stats} {d : Nat} (h : 2 ≤ z.n → z.deviates d) : z.sd = if z.n < 2 then none else some d := by
  by_cases few : z.n < 2
  · rw [if_pos few]
    exact if_neg (Nat.not_le.mpr few)
  · have two := Nat.not_lt.mp few
    rw [if_neg few, eq_isqrt (h two)]
    exact if_pos two

theorem Stats.margin_eq {z : Stats} {d : Nat} (h : 2 ≤ z.n → z.deviates d) :
    z.margin = if z.n < 2 then none else some ((z.sum / z.n : Nat) - 3 * (d : Int)) := by
  rw [Stats.margin, Stats.mean_eq, Stats.sd_eq h]
  by_cases few : z.n < 2
  · rw [if_pos few, if_pos few]
    generalize (if z.n = 0 then none else some (z.sum / z.n)) = mean
    cases mean <;> rfl
  · rw [if_neg few, if_neg few, if_neg (by omega)]

/-! ### Counted forces (R129, R132) -/

theorem stats_setStats {p : Nat} {z : Stats} (hp : p < s.plm.stats.length) : (s.setStats p z).stats p = z := by
  simp [State.stats, hp]

theorem setStats_setStats (p : Nat) (y z : Stats) (s : State) : (s.setStats p y).setStats p z = s.setStats p z := by
  simp [State.setStats]

/-- The statistics with one more force (R129 step 2). -/
theorem statsCount_of_room {z : Stats} (f : Nat) (room : z.n ≠ 65535) :
    z.count f = { z with
      n := z.n + 1, sum := z.sum + f, sumSq := z.sumSq + f * f, min := some ((z.min.map (min · f)).getD f),
      max := some ((z.max.map (max · f)).getD f) } := by
  rw [Stats.count, if_neg room]
  cases z.min <;> cases z.max <;> rfl

/-- The check of new statistics, where the limits are in force and the forces are enough (R132). -/
theorem capabilityCheck_of_checked {p d : Nat} {z : Stats} (hp : p < s.plm.stats.length)
    (checks : (s.plm.limits.getD p {}).valid = true ∧ (s.plm.limits.getD p {}).capCount ≤ z.n) (two : 2 ≤ z.n)
    (hd : z.deviates d) :
    let e := s.plm.limits.getD p {}
    let margin : Int := (z.sum / z.n : Nat) - 3 * d
    capabilityCheck p (s.setStats p z) =
      if margin < e.capLimit then
        if z.failing then s.setStats p z
        else raiseAlarm .pullCapability (.program p) margin.toNat (s.setStats p { z with failing := true })
      else if z.failing then clearAlarm .pullCapability (.program p) (s.setStats p { z with failing := false })
      else s.setStats p z := by
  intro e margin
  have derived : z.margin = some margin := (Stats.margin_eq fun _ => hd).trans (if_neg (Nat.not_lt.mpr two))
  simp only [capabilityCheck, stats_setStats hp, setStats_setStats, derived]
  exact if_pos checks

theorem capabilityCheck_of_not {p : Nat} {z : Stats} (hp : p < s.plm.stats.length)
    (unchecked : ¬((s.plm.limits.getD p {}).valid = true ∧ (s.plm.limits.getD p {}).capCount ≤ z.n)) :
    capabilityCheck p (s.setStats p z) = s.setStats p z := by
  simp only [capabilityCheck, stats_setStats hp]
  exact if_neg unchecked

theorem countForce_of_full {p : Nat} (f : Nat) (full : (s.stats p).n = 65535) :
    countForce p f s = s.setStats p { s.stats p with saturated := true } := by
  refine (if_pos full).trans ?_
  rw [Stats.count, if_pos full]

theorem countForce_of_room {p : Nat} (f : Nat) (room : (s.stats p).n ≠ 65535) :
    countForce p f s = capabilityCheck p (s.setStats p ((s.stats p).count f)) := if_neg room

/-! ### The program hold (R133) -/

/-- The limits of a failure mode, or the default limits (R114). -/
theorem modeLimit_limitsOf {p m : Nat} (low : 1 ≤ m) (high : m ≤ 5) :
    let e := s.plm.limits.getD p {}
    modeLimit (s.limitsOf p) m =
      if e.valid then [e.m1, e.m2, e.m3, e.m4, e.m5].getD (m - 1) {} else if m = 1 ∨ m = 5 then { rejectAlways := true } else {} := by
  intro e
  have chosen : modeLimit (s.limitsOf p) m =
      if e.valid then modeLimit e m else modeLimit { m1 := { rejectAlways := true }, m5 := { rejectAlways := true }, failLimit := 1 } m :=
    apply_ite (modeLimit · m) ..
  rw [chosen]
  interval_cases m <;> rfl

theorem failLimit_limitsOf (p : Nat) (s : State) :
    (s.limitsOf p).failLimit = if (s.plm.limits.getD p {}).valid then (s.plm.limits.getD p {}).failLimit else 1 :=
  apply_ite LimitsEntry.failLimit ..

theorem weighHold_eq {p m : Nat} {r : StripRecord} (hr : s.trc.post = some r) :
    let t := s.setStrip .post (some { r with pullFails := r.pullFails + 1 })
    weighHold p m s =
      if (s.limitsOf p).failLimit ≤ r.pullFails + 1 ∨ (modeLimit (s.limitsOf p) m).rejectAlways = true then
        raiseAlarm .pullFail (.program p) r.seq (t.setProgState p .held)
      else t := by
  rw [weighHold, modStrip_eq (p := .post) hr]
  rfl

/-! ### Requests (R130, R131, R135) -/

theorem statsReport_eq {p d : Nat} (hd : 2 ≤ (s.stats p).n → (s.stats p).deviates d) :
    let x := s.stats p
    s.statsReport p =
      { stats := x, mean := if x.n = 0 then none else some (x.sum / x.n), sd := if x.n < 2 then none else some d,
        margin := if x.n < 2 then none else some ((x.sum / x.n : Nat) - 3 * (d : Int)),
        state := s.plm.progState.getD p .running, strips := s.strips.countP fun r => r.program == p } := by
  simp only [State.statsReport, Stats.mean_eq, Stats.sd_eq hd, Stats.margin_eq hd, State.stripCount, List.countP_eq_length_filter]

theorem onProgramRelease_of_lt {p : Nat} (h : p < 8) :
    onProgramRelease p s =
      (if s.plm.progState.getD p .running = .held then releaseProgram p s else s,
        { result := if s.plm.progState.getD p .running = .held then .ok else .badState }) := by
  refine (if_neg (Nat.not_le.mpr h)).trans ((if_congr decide_eq_true_iff rfl rfl).trans ?_)
  split <;> rfl

/-- Settles O56: the deviation is `isqrt` (`eq_isqrt`), a counted force the `countForce` lemmas, a FAIL `weighHold_eq`. -/
theorem forcesAreCountedAndWeighed : Obligations.ForcesAreCountedAndWeighed := by
  intro s p x e put deviates
  refine ⟨fun o f m => ?record, fun hp f => ?force, fun m r low high hr => ?hold, fun b tag => ⟨?beyond, ?within, ?all⟩⟩
  case record =>
    refine ⟨fun h => ?_, fun hf hm hv => by simp only [weighRecord, hf, hm, hv], fun hf hm hv => by simp only [weighRecord, hf, hm, hv]⟩
    rcases h with h | h <;> simp only [weighRecord, h]
  case force =>
    intro y checked
    have counts (room : x.n ≠ 65535) : countForce p f s = capabilityCheck p (put y) :=
      (countForce_of_room f room).trans (congrArg (fun z => capabilityCheck p (s.setStats p z)) (statsCount_of_room f room))
    refine ⟨countForce_of_full f, fun room unchecked => (counts room).trans (capabilityCheck_of_not hp unchecked),
      fun room checks two d hd => (counts room).trans (capabilityCheck_of_checked hp checks (two.trans checks.2) hd)⟩
  case hold =>
    intro limit t
    rw [weighHold_eq hr, failLimit_limitsOf, modeLimit_limitsOf low high]
    rfl
  case beyond =>
    intro out
    exact ⟨serves_of_eq (f := onStatsRead p) (exec_statsRead tag p b) (if_neg (Nat.not_lt.mpr out)),
      serves_of_eq (f := onStatsReset (.program p)) (exec_statsReset tag _ b) (if_neg (Nat.not_lt.mpr out)),
      serves_of_eq (f := onProgramRelease p) (exec_programRelease tag p b) (if_pos out)⟩
  case within =>
    intro inside
    refine ⟨fun d hd => ?_, serves_of_eq (f := onStatsReset (.program p)) (exec_statsReset tag _ b) (if_pos inside),
      serves_of_eq (f := onProgramRelease p) (exec_programRelease tag p b) (onProgramRelease_of_lt inside)⟩
    intro a takes
    rw [exec_statsRead]
    refine act_serve_answers_of_eq (f := onStatsRead p) takes ((if_pos inside).trans ?_)
    rw [statsReport_eq hd]
    rfl
  case all => exact serves_of_eq (f := onStatsReset .all) (exec_statsReset tag .all b) rfl

end Sys2Proof.Machine
end

section
/-! SUPPORT. The laws of a run (Laws 6, 9, 10 and 12, R113, R116, the capacities of the queues) held together, and what keeps them: the
work of a block, the closing of a step, and the link interface's own work. -/

namespace Sys2Proof.Machine

variable {s t : State}

/-! ### The laws together -/

/-- The laws that stand at the end of Sys2Proof/Safety.lean, but for Law 10. -/
structure OtherLaws (s : State) : Prop where
  queues : s.queuesBounded
  drives : s.oneDriveEach
  alarms : s.alarmsLawful
  log : s.logLawful
  cands : s.candidatesLawful
  gate : s.gateLawful

/-- All of them. -/
structure Lawful (s : State) : Prop extends OtherLaws s where
  stop : s.stopLawful

theorem Lawful.off (l : Lawful s) : s.offLawful := l.stop.1

/-- Capacities, where no queue has grown but that of the notices. -/
theorem queuesBounded_of_link (link : t.link = s.link) (notices : s.lif.notices.length ≤ 16 → t.lif.notices.length ≤ 16)
    (h : s.queuesBounded) : t.queuesBounded := by
  obtain ⟨uf, fu, replies, requests, n⟩ := h
  have same {α : Type} (g : Lif → α) : g t.link = g s.link := congrArg g link
  exact ⟨(same (·.ufQueue.length)).trans_le uf, (same (·.fuQueue.length)).trans_le fu, (same (·.replies.length)).trans_le replies,
    (same (·.requests.length)).trans_le requests, notices n⟩

/-- The heads that are on keep their nodes where none has left OFF, the roles are the same and no frame has joined the queue. -/
theorem gateLawful_of_off (off : ∀ h, (s.head h).state = .off → (t.head h).state = .off)
    (forwarding : t.lif.forwarding = s.lif.forwarding) (queue : ∀ f ∈ t.lif.ufQueue, f ∈ s.lif.ufQueue) (h : s.gateLawful) :
    t.gateLawful := by
  intro k on
  obtain ⟨a, ha, free⟩ := h k fun e => on (off k e)
  exact ⟨a, (congrArg (addrIn · (.head k)) forwarding).trans ha, fun f hf => free f (queue f hf)⟩

/-- The work of a block keeps the laws, be Law 10 open or not. -/
theorem Work.otherLaws (w : Work s t) (l : OtherLaws s) : OtherLaws t where
  queues := queuesBounded_of_link w.link w.notices l.queues
  drives := w.drives l.drives
  alarms := w.alarms l.alarms
  log := w.log l.log
  cands := w.cands l.cands
  gate := gateLawful_of_off w.off (congrArg Lif.forwarding w.link :)
    (fun _ => ((congrArg Lif.ufQueue w.link :) : t.lif.ufQueue = s.lif.ufQueue) ▸ id) l.gate

theorem Work.replies (w : Work s t) : t.lif.replies = s.lif.replies := (congrArg Lif.replies w.link :)

/-- The work of a block keeps the laws. -/
theorem Work.lawful (w : Work s t) (l : Lawful s) : Lawful t := by
  obtain ⟨-, estop, stopped⟩ := l.stop
  refine ⟨w.otherLaws l.toOtherLaws, w.law, fun running asserted => ?_, fun cell h => w.off h (stopped ?_ h)⟩
  · have cell := estop (w.inReset ▸ running) (w.estop ▸ asserted)
    rcases w.cell with e | ⟨drain, -⟩
    · exact e.trans cell
    · exact nomatch drain.symm.trans cell
  · rcases w.cell with e | ⟨-, ready⟩
    · exact e.symm.trans cell
    · exact nomatch ready.symm.trans cell

/-- Shown flags are no matter for the alarm list's law. -/
theorem alarmsLawful_of_shownFrom (h : List.Forall₂ AlarmEntry.shownFrom s.alc.list t.alc.list) (l : s.alarmsLawful) :
    t.alarmsLawful := by
  have face {e e' : AlarmEntry} (k : e.shownFrom e') : e'.code = e.code ∧ e'.scope = e.scope ∧ e'.state = e.state := by
    rcases k with rfl | rfl <;> exact ⟨rfl, rfl, rfl⟩
  obtain ⟨room, once, events⟩ := l
  refine ⟨h.length_eq ▸ room, ?_, ?_⟩
  · rw [List.pairwise_iff_getElem] at once ⊢
    intro i j hi hj before
    obtain ⟨ci, si, -⟩ := face (h.get (h.length_eq ▸ hi) hi)
    obtain ⟨cj, sj, -⟩ := face (h.get (h.length_eq ▸ hj) hj)
    simp only [List.get_eq_getElem] at ci si cj sj
    rw [ci, si, cj, sj]
    exact once i j _ _ before
  · intro e' he' event
    obtain ⟨i, hi, rfl⟩ := List.getElem_of_mem he'
    obtain ⟨code, -, state⟩ := face (h.get (h.length_eq ▸ hi) hi)
    simp only [List.get_eq_getElem] at code state
    exact state.trans (events _ (List.getElem_mem _) (code ▸ event))

/-- What keeps everything but screens, replies and frames on their way out keeps the laws, the queues given. -/
theorem Keeps.lawful (k : Keeps s t) (queues : t.queuesBounded) (drives : t.oneDriveEach)
    (queue : ∀ f ∈ t.lif.ufQueue, f ∈ s.lif.ufQueue) (l : Lawful s) : Lawful t where
  queues := queues
  drives := drives
  alarms := alarmsLawful_of_shownFrom k.alarms l.alarms
  log := by unfold State.logLawful; rw [k.plm]; exact l.log
  stop := by unfold State.stopLawful State.offLawful State.head State.chan; rw [k.heads, k.channels, k.ccs]; exact l.stop
  cands := by unfold State.candidatesLawful State.strips; rw [k.plm, k.trc]; exact l.cands
  gate := gateLawful_of_off (fun h => by rw [State.head, State.head, k.heads]; exact id) k.forwarding queue l.gate

/-! ### The transmitters (R168) -/

/-- No queue has grown. -/
structure Lif.Within (m l : Lif) : Prop where
  drives : m.drives <:+ l.drives
  ufQueue : m.ufQueue <:+ l.ufQueue
  fuQueue : m.fuQueue <:+ l.fuQueue
  replies : m.replies <:+ l.replies
  notices : m.notices <:+ l.notices
  requests : m.requests <:+ l.requests

theorem Lif.Within.refl (l : Lif) : l.Within l := by
  constructor <;> exact List.suffix_rfl

theorem Lif.Within.trans {a b c : Lif} (h : b.Within a) (k : c.Within b) : c.Within a :=
  ⟨k.drives.trans h.drives, k.ufQueue.trans h.ufQueue, k.fuQueue.trans h.fuQueue, k.replies.trans h.replies,
    k.notices.trans h.notices, k.requests.trans h.requests⟩

/-- A transmitter takes its frame from the front of a queue. -/
theorem suffix_of_cons {α : Type} {x : α} {l rest : List α} (h : l = x :: rest) : rest <:+ l := h ▸ List.suffix_cons x rest

theorem pickF_within (l : Lif) : (pickF l).Within l := by
  unfold pickF
  split
  · exact { Lif.Within.refl l with drives := suffix_of_cons ‹_› }
  · split
    · exact { Lif.Within.refl l with }
    · split
      · exact { Lif.Within.refl l with ufQueue := suffix_of_cons ‹_› }
      · exact .refl l

theorem pickForwarded_within (l : Lif) : (pickForwarded l).Within l := by
  unfold pickForwarded
  split
  · exact { Lif.Within.refl l with fuQueue := suffix_of_cons ‹_› }
  · exact .refl l

theorem pickU_within (l : Lif) : (pickU l).Within l := by
  unfold pickU
  split
  · split
    · exact pickForwarded_within l
    · exact { Lif.Within.refl l with replies := suffix_of_cons ‹_› }
  · split
    · split
      · exact pickForwarded_within l
      · exact { Lif.Within.refl l with notices := suffix_of_cons ‹_› }
    · exact pickForwarded_within l

theorem kickF_within (s : State) : (kickF s).lif.Within s.lif := by
  unfold kickF
  dsimp only
  split
  · exact pickF_within _
  · exact .refl _

theorem kickU_within (s : State) : (kickU s).lif.Within s.lif := by
  unfold kickU
  dsimp only
  split
  · exact pickU_within _
  · exact .refl _

/-- The capacities of queues that have not grown. -/
theorem queuesBounded_of_within (w : t.lif.Within s.lif) (h : s.queuesBounded) : t.queuesBounded := by
  obtain ⟨uf, fu, replies, requests, notices⟩ := h
  exact ⟨w.ufQueue.length_le.trans uf, w.fuQueue.length_le.trans fu, w.replies.length_le.trans replies,
    w.requests.length_le.trans requests, w.notices.length_le.trans notices⟩

/-- What keeps everything but screens and frames on their way out keeps the laws, where no queue has grown. -/
theorem Keeps.lawful_of_within (k : Keeps s t) (w : t.lif.Within s.lif) (l : Lawful s) : Lawful t :=
  k.lawful (queuesBounded_of_within w l.queues) (l.drives.sublist w.drives.sublist) (fun _ hf => w.ufQueue.subset hf) l

theorem kickU_lawful (l : Lawful s) : Lawful (kickU s) := (kickU_keeps s).lawful_of_within (kickU_within s) l

theorem kick_lawful (l : Lawful s) : Lawful (kick s) :=
  (kick_keeps s).lawful_of_within ((kickF_within s).trans (kickU_within _)) l

/-- The making of screen frames touches no queue but that of the part's own frames. -/
theorem within_of_own {l : List OwnFrame} (h : t.lif = { s.lif with own := l }) : t.lif.Within s.lif :=
  h ▸ { Lif.Within.refl s.lif with }

/-- The closing of a step keeps the laws. -/
theorem finish_lawful (l : Lawful s) : Lawful (finish s) :=
  kick_lawful ((makeFrames_keeps s).lawful_of_within (within_of_own (makeFrames_lif s)) l)

/-- The making of one frame changes the part's own frames alone of LIF. -/
theorem makeFrame_lif (k : Term) (s : State) : (makeFrame k s).lif = { s.lif with own := (makeFrame k s).lif.own } := by
  have keeps := (makeFrame_keeps k s).toKeeps
  have apart : (makeFrame k s).lif = ((makeFrame k s).withLink s.lif).lif := congrArg State.lif (makeFrame_withLink k s s.lif)
  rw [apart]
  simp only [State.withLink, keeps.forwarding, keeps.uCounts, keeps.fCounts]

theorem makeFrame_lawful (k : Term) (l : Lawful s) : Lawful (makeFrame k s) :=
  (makeFrame_keeps k s).lawful_of_within (within_of_own (makeFrame_lif k s)) l

/-! ### Replies (R168, R169) -/

/-- Replies that the reply list has room for. -/
theorem queueReplies_lawful {m : List Mrep} (room : s.lif.replies.length + m.length ≤ 8) (l : Lawful s) :
    Lawful (queueReplies m s) := by
  induction m generalizing s with
  | nil => exact l
  | cons x m ih =>
    rw [List.length_cons] at room
    obtain ⟨uf, fu, -, requests, notices⟩ := l.queues
    refine ih (by simp; omega) { l with queues := ⟨uf, fu, ?_, requests, notices⟩ }
    simp
    omega

theorem replyFrames_length (tag op : Byte) (a : Answer) (n : Nat) : (replyFrames tag op a n).length = n := by
  simp [replyFrames]

theorem replyRoom_iff {n : Nat} : s.replyRoom n = true ↔ s.lif.replies.length + n ≤ 8 := decide_eq_true_iff

theorem replyNow_lawful (tag op : Byte) (a : Answer) (l : Lawful s) : Lawful (replyNow tag op a s) := by
  unfold replyNow
  split
  · rename_i room
    exact queueReplies_lawful (replyFrames_length tag op a 1 ▸ replyRoom_iff.mp room) l
  · exact { l with }

theorem takeRequest_lawful {tag : Byte} {r : Request} (h : s.takeRequest tag r = some t) (l : Lawful s) : Lawful t := by
  have q := takeRequest_queues h
  have fewer := (takeRequest_suffix h).length_le
  unfold State.takeRequest at h
  split at h
  · cases h
    exact l
  · split at h
    · cases h
      obtain ⟨uf, fu, replies, requests, notices⟩ := l.queues
      exact { l with queues := ⟨uf, fu, replies, fewer.trans requests, notices⟩ }
    · cases h

theorem takeRequest_replies {tag : Byte} {r : Request} (h : s.takeRequest tag r = some t) : t.lif.replies = s.lif.replies := by
  unfold State.takeRequest at h
  split at h
  · cases h
    rfl
  · split at h
    · cases h
      rfl
    · cases h

/-- A block's work on a request: it keeps the laws, and leaves the reply list to LIF. -/
def Serving (f : State → Served) : Prop := ∀ s, Lawful s → Lawful (f s).1 ∧ (f s).1.lif.replies = s.lif.replies

theorem serving_of_work {f : State → Served} (h : ∀ s, State.offLawful s → Work s (f s).1) : Serving f := fun s l =>
  ⟨(h s l.off).lawful l, (h s l.off).replies⟩

/-- Work that answers with what it finds. -/
theorem serving_of_same {f : State → Served} (h : ∀ s, (f s).1 = s) : Serving f := fun s l =>
  ⟨(h s).symm ▸ l, congrArg (·.lif.replies) (h s)⟩

theorem applyRequest_lawful {f : State → Served} (hf : Serving f) (tag : Byte) (r : Request) (l : Lawful s) :
    Lawful (applyRequest tag r f s) := by
  unfold applyRequest
  split
  · exact l
  · rename_i t taken
    obtain ⟨served, replies⟩ := hf t (takeRequest_lawful taken l)
    dsimp only
    split
    · rename_i room
      refine queueReplies_lawful ?_ served
      rw [replies, takeRequest_replies taken, replyFrames_length]
      exact replyRoom_iff.mp room
    · exact l

theorem answerUnowned_lawful (n : Nat) (l : Lawful s) : Lawful (answerUnowned n s) := by
  induction n generalizing s with
  | zero => exact l
  | succ n ih =>
    unfold answerUnowned
    split
    · exact l
    · split
      · split
        · exact ih (applyRequest_lawful (serving_of_same fun _ => rfl) _ _ l)
        · exact l
      · exact l

theorem serve_lawful {f : State → Served} (hf : Serving f) (tag : Byte) (r : Request) (l : Lawful s) :
    Lawful (serve tag r f s) := answerUnowned_lawful _ (applyRequest_lawful hf tag r l)

/-! ### Gathering (R169) -/

theorem joinQueue_lawful (tag : Byte) (r : Request) (l : Lawful s) : Lawful (joinQueue tag r s) := by
  unfold joinQueue
  split
  · rename_i room
    obtain ⟨uf, fu, replies, -, notices⟩ := l.queues
    refine answerUnowned_lawful _ { l with queues := ⟨uf, fu, replies, ?_, notices⟩ }
    simpa [Config.requestRoom] using room
  · exact replyNow_lawful _ _ _ l

theorem gather_lawful (g : Gathering) (last : Bool) (reads : Option Request) (l : Lawful s) : Lawful (gather g last reads s) := by
  unfold gather
  dsimp only
  split
  · split
    · exact joinQueue_lawful _ _ { l with }
    · exact joinQueue_lawful _ _ { l with }
  · exact { l with }

theorem badGathering_lawful (tag : Byte) (l : Lawful s) : Lawful (badGathering tag s) :=
  replyNow_lawful _ _ _ { l with }

theorem onMreq_lawful (f : MreqFrame) (l : Lawful s) : Lawful (onMreq f s) := by
  unfold onMreq
  split
  · exact gather_lawful _ _ _ l
  · split
    · exact badGathering_lawful _ l
    · split
      · exact gather_lawful _ _ _ l
      · exact badGathering_lawful _ l

/-! ### Frames at the two ports (R162 to R168) -/

/-- A frame of a field node is dropped, comes to its block, or is forwarded up (R165). -/
theorem fieldArrive_lawful (f : LinkFrame) (l : Lawful s) : Lawful (fieldArrive f s) := by
  unfold fieldArrive
  split
  · exact l
  · split
    · exact (deliver_work _ f l.off).lawful l
    · unfold forwardUp
      split
      · rename_i room
        obtain ⟨uf, -, replies, requests, notices⟩ := l.queues
        refine { l with queues := ⟨uf, ?_, replies, requests, notices⟩ }
        simpa [Config.fuRoom] using room
      · exact { l with }

theorem onFPort_lawful (f : RxFrame) (l : Lawful s) : Lawful (onFPort f s) := by
  unfold onFPort
  split
  · exact { l with }
  · exact { l with }
  · exact fieldArrive_lawful _ l

/-- The address that holds a role reads it. -/
theorem roleAt_of_addrOf {r : Role} {a : Nat} (h : s.addrOf r = some a) : s.roleAt a = r := by
  obtain ⟨inside, holds, -⟩ := List.findIdx?_eq_some_iff_getElem.mp h
  obtain ⟨valid, role⟩ := by simpa using holds
  rw [State.roleAt, roleIn, List.getElem?_eq_getElem inside]
  exact (if_pos valid).trans role

/-- A frame that drives a head's node is gated while the head is on (R166). -/
theorem gated_of_drivesHead {h : Head} {a : Nat} {f : LinkFrame} (on : (s.head h).state ≠ .off) (ha : s.addrOf (.head h) = some a)
    (drives : f.drivesHead a = true) : s.gated f = true := by
  obtain ⟨kind, dst⟩ : (f.kind = 0x10 ∨ f.kind = 0x13) ∧ (f.dst.toNat = a ∨ f.dst = 63) := by
    simpa [LinkFrame.drivesHead] using drives
  have roles : gateRoles f.kind = [.head .a, .head .b] := if_pos kind
  have owned : s.owned (.head h) = true := decide_eq_true on
  have aimed : Role.head h ∈ [Role.head .a, .head .b] := by cases h <;> simp
  unfold State.gated
  rw [roles]
  split
  · exact List.any_eq_true.mpr ⟨_, aimed, by simp [ha, owned]⟩
  · rename_i one
    rw [(dst.resolve_right one), roleAt_of_addrOf ha, owned, Bool.and_true]
    exact List.contains_iff_mem.mpr aimed

theorem forwardDown_lawful {f : LinkFrame} (free : ¬s.gated f = true) (l : Lawful s) : Lawful (forwardDown f s) := by
  unfold forwardDown
  split
  · rename_i room
    obtain ⟨-, fu, replies, requests, notices⟩ := l.queues
    refine { l with queues := ⟨?_, fu, replies, requests, notices⟩, gate := fun h on => ?_ }
    · simpa [Config.ufRoom] using room
    · obtain ⟨a, ha, waiting⟩ := l.gate h on
      refine ⟨a, ha, fun g hg => ?_⟩
      rcases List.mem_append.mp hg with hg | hg
      · exact waiting g hg
      · rw [List.mem_singleton.mp hg]
        exact Bool.eq_false_of_not_eq_true fun drives => free (gated_of_drivesHead on ha drives)
  · exact { l with }

theorem onUPort_lawful (f : RxFrame) (l : Lawful s) : Lawful (onUPort f s) := by
  unfold onUPort
  split
  · exact { l with }
  · exact { l with }
  · unfold hostArrive
    split
    · exact l
    · split
      · split
        · unfold onMreqPayload
          split
          · exact onMreq_lawful _ l
          · exact l
        · exact l
      · split
        · exact replyNow_lawful _ _ _ l
        · exact forwardDown_lawful ‹_› l

theorem screenSent_lawful (r : Role) (l : Lawful s) : Lawful (screenSent r s) := by
  unfold screenSent
  split
  · exact { l with }
  all_goals exact l

theorem alarmSent_lawful (b : OwnBody) (l : Lawful s) : Lawful (alarmSent b s) := by
  unfold alarmSent
  split
  · exact (showAlarm_keeps _ _ s).lawful_of_within (.refl _) l
  · exact l

theorem onFSent_lawful (l : Lawful s) : Lawful (onFSent s) := by
  have sent : Lawful { s with lif := { s.lif with fTx := none } } := { l with }
  unfold onFSent
  split
  · exact alarmSent_lawful _ (screenSent_lawful _ sent)
  · exact sent

theorem onUSent_lawful (l : Lawful s) : Lawful (onUSent s) :=
  answerUnowned_lawful _ (kickU_lawful { l with })

end Sys2Proof.Machine
end

section
/-! SUPPORT. What Cell Control, the resets, ENABLE and the writes of tables keep of the laws of a run. -/

namespace Sys2Proof.Machine

variable {s t : State}

/-! ### Cell Control (R174, R175) -/

/-- A change of Cell Control that obeys Law 10. -/
theorem setCcs_lawful (c : Ccs) (asserted : c.inReset = false → c.estop = true → c.cell = .stopped)
    (stopped : c.cell = .stopped → ∀ h, (s.head h).state = .off) (l : Lawful s) : Lawful { s with ccs := c } :=
  { l with stop := ⟨l.off, asserted, stopped⟩ }

/-- With the cell not STOPPED the part is in reset, or the E-stop line is released (Law 10). -/
theorem estop_of_not_stopped (l : Lawful s) (cell : s.ccs.cell ≠ .stopped) : s.ccs.inReset = false → ¬s.ccs.estop = true :=
  fun running asserted => cell (l.stop.2.1 running asserted)

/-- A cell that is not STOPPED goes to another such state. -/
theorem setCell_lawful {c : CellState} (moved : s.ccs.cell ≠ .stopped) (next : c ≠ .stopped) (l : Lawful s) :
    Lawful { s with ccs := { s.ccs with cell := c } } :=
  setCcs_lawful _ (fun running asserted => absurd asserted (estop_of_not_stopped l moved running)) (fun e => absurd e next) l

theorem goOff_off (h : Head) (s : State) : ((goOff h s).head h).state = .off := by
  unfold goOff
  split
  · assumption
  · exact congrArg HeadCtx.state (State.head_modHead_self _ h _)

/-- Both heads are OFF after each has gone OFF. -/
theorem eachHead_goOff_off (l : s.offLawful) (h : Head) : ((eachHead goOff s).head h).state = .off := by
  have both (g : Head) (u : State) (lu : u.offLawful) : ((goOff g.other (goOff g u)).head h).state = .off := by
    have first := goOff_work g lu
    by_cases e : h = g
    · subst e
      exact (goOff_work _ first.law).off h (goOff_off h u)
    · have : h = g.other := by cases h <;> cases g <;> first | rfl | exact absurd rfl e
      subst this
      exact goOff_off _ _
  unfold eachHead
  split
  · exact both .a s l
  · dsimp only
    split
    · exact both .a _ l
    · exact both .b _ l

/-- Cell Control as the cell enters STOPPED (R174). -/
def Ccs.toStopped (c : Ccs) : Ccs := { c with cell := .stopped, feedPause := false }

/-- What follows the change of the cell state is work of the blocks, after which both heads are OFF (R174). -/
theorem enterStopped_work (l : s.offLawful) :
    Work { s with ccs := s.ccs.toStopped } (enterStopped s) ∧ ∀ h, ((enterStopped s).head h).state = .off := by
  have first : Work { s with ccs := s.ccs.toStopped } (eachHead goOff { s with ccs := s.ccs.toStopped }) :=
    eachHead_Work (fun h _ => goOff_work h) l
  have rest : Work (eachHead goOff { s with ccs := s.ccs.toStopped }) (enterStopped s) := by
    refine .thenHead ?_ (clearAlarm_work _ _)
    refine .thenHead ?_ (clearAlarm_work _ _)
    exact (resetHeat_work first.law).thenHead (clearAlarm_work _ _)
  exact ⟨first.trans rest, fun h => rest.off h (eachHead_goOff_off (s := { s with ccs := s.ccs.toStopped }) l h)⟩

/-- Law 10 holds again once both heads have gone OFF. -/
theorem enterStopped_lawful (o : OtherLaws s) (l : s.offLawful) : Lawful (enterStopped s) := by
  obtain ⟨w, off⟩ := enterStopped_work l
  have cell : (enterStopped s).ccs.cell = .stopped := w.cell.resolve_right fun e => nomatch e.1
  exact ⟨w.otherLaws { o with }, w.law, fun _ _ => cell, fun _ => off⟩

theorem enterStopped_replies (l : s.offLawful) : (enterStopped s).lif.replies = s.lif.replies :=
  (enterStopped_work l).1.replies

/-- The work on a request, begun with a change that keeps the laws and the reply list. -/
theorem Work.serves {m : State} (w : Work m t) (l : Lawful m) (same : m.lif.replies = s.lif.replies) :
    Lawful t ∧ t.lif.replies = s.lif.replies :=
  ⟨w.lawful l, w.replies.trans same⟩

theorem onArm_serving : Serving onArm := by
  intro s l
  unfold onArm
  split
  · rename_i stopped
    let m : State := { s with ccs := { s.ccs with cell := .ready } }
    have moved : Lawful m := setCcs_lawful _ (fun _ asserted => absurd asserted (by simp [stopped.2])) nofun l
    exact (modHeat_work (s := m) (fun h => { h with timer := some s.now }) moved.off).serves moved rfl
  · exact ⟨l, rfl⟩

theorem onStart_serving : Serving onStart := by
  intro s l
  unfold onStart
  split
  · rename_i ready
    let m : State := { s with ccs := { s.ccs with cell := .run } }
    have moved : Lawful m := setCell_lawful (by simp [ready]) nofun l
    refine Work.serves (m := m) (.thenHead ?_ (eachHead_work fun h _ => askUnit_work h)) moved rfl
    exact .ite (fun _ => .refl moved.off) fun _ => (raiseAlarm_work _ _ _ moved.off).work
  · exact ⟨l, rfl⟩

theorem onDrain_serving : Serving onDrain := by
  intro s l
  unfold onDrain
  split
  · rename_i run
    let m : State := { s with ccs := { s.ccs with cell := .drain } }
    have moved : Lawful m := setCell_lawful (by simp [run]) nofun l
    exact (drainCheck_work moved.off).serves moved rfl
  · exact ⟨l, rfl⟩

theorem onStop_serving : Serving onStop := by
  intro s l
  unfold onStop
  split
  · exact ⟨l, rfl⟩
  · dsimp only [accept]
    exact ⟨enterStopped_lawful l.toOtherLaws l.off, enterStopped_replies l.off⟩

/-- The line is asserted: ESTOP is raised before the cell enters STOPPED, and Law 10 is open until then (R175). -/
theorem assertEstop_lawful (l : Lawful s) : Lawful (assertEstop s) := by
  let m : State := { s with ccs := { s.ccs with estop := true } }
  have raised := raiseAlarm_work .estop .cell 0 (s := m) l.off
  show Lawful (if _ then _ else _)
  split
  · rename_i e
    have stopped : s.ccs.cell = .stopped := by rwa [raised.ccs] at e
    exact raised.work.lawful (setCcs_lawful _ (fun _ _ => stopped) (fun _ => l.stop.2.2 stopped) l)
  · exact enterStopped_lawful (raised.work.otherLaws { l with }) raised.law

theorem releaseEstop_lawful (l : Lawful s) : Lawful (releaseEstop s) := by
  have released : Lawful { s with ccs := { s.ccs with estop := false } } := setCcs_lawful _ nofun l.stop.2.2 l
  exact (clearAlarm_work .estop .cell released.off).work.lawful released

/-- One more millisecond (R176, R24). -/
theorem tick_lawful (l : Lawful s) : Lawful (countDwell { s with ccs := { s.ccs with timebase := s.ccs.timebase + 1 } }) := by
  have later : Lawful { s with ccs := { s.ccs with timebase := s.ccs.timebase + 1 } } := setCcs_lawful _ l.stop.2.1 l.stop.2.2 l
  refine Work.lawful ?_ later
  unfold countDwell
  refine .ite (fun _ => .then ?_ dwellCheck_work) fun _ => .refl later.off
  exact modStrip_Work_same _ _ later.off fun _ => rfl

/-! ### The resets (R176) -/

theorem raiseEstop_lawful (l : Lawful s) : Lawful (raiseEstopIfAsserted s) := by
  unfold raiseEstopIfAsserted
  split
  · exact (raiseAlarm_work _ _ _ l.off).work.lawful l
  · exact l

/-- A part whose heads, channels, alarms, track and pull request are as after reset, with what it keeps of its tables, its log and
its frames. -/
structure Restarted (s : State) : Prop where
  cell : s.ccs.cell = .stopped
  heads : s.heads = ⟨{}, {}⟩
  channels : s.channels = ⟨{}, {}⟩
  alarms : s.alc.list = []
  strips : s.strips = []
  queues : s.queuesBounded
  drives : s.oneDriveEach
  log : s.logLawful
  plans : ∀ e ∈ s.plm.plans, planLawful e

theorem Restarted.lawful (r : Restarted s) : Lawful s := by
  have head (h : Head) : s.head h = {} := by rw [State.head, r.heads]; cases h <;> rfl
  have off (h : Head) : (s.head h).state = .off := by rw [head]
  have rest (h : Head) : (s.chan h).state = .disabled ∧ (s.head h).awaited = none := by
    rw [head, State.chan, r.channels]
    cases h <;> exact ⟨rfl, rfl⟩
  exact {
    queues := r.queues
    drives := r.drives
    alarms := by rw [State.alarmsLawful, r.alarms]; exact ⟨by simp, .nil, by simp⟩
    log := r.log
    cands := ⟨r.plans, by simp [r.strips]⟩
    gate := fun h on => absurd (off h) on
    stop := ⟨fun h _ => rest h, fun _ _ => r.cell, fun _ => off⟩ }

/-- The plans as they are after a full reset. -/
theorem planLawful_replicate (n : Nat) : ∀ e ∈ List.replicate n ({} : PlanEntry), planLawful e := fun e he => by
  rw [List.eq_of_mem_replicate he]
  exact ⟨by simp, by simp, List.nodup_nil, List.nodup_nil⟩

theorem fullReset_lawful (c : FullCause) (s : State) : Lawful (fullReset c s) := by
  let m : State := { ccs := { cause := causeOf c, estop := s.ccs.estop }, free := s.free, pending := s.pending }
  have r : Restarted m :=
    { cell := rfl, heads := rfl, channels := rfl, alarms := rfl, strips := rfl, drives := .nil, plans := planLawful_replicate 8
      queues := by simp [State.queuesBounded, m]
      log := ⟨by simp [m], by simp [m], by simp [m], by simp [m]⟩ }
  exact kick_lawful (raiseEstop_lawful ((notify_work _ r.lawful.off).work.lawful r.lawful))

theorem restartHead_lawful (old : State) (h : Head) (l : Lawful s) : Lawful (restartHead old h s) := by
  unfold restartHead
  split
  · exact l
  · have w : HeadWork s (sendDrive h 0 false s) := sendDrive_work _ _ _ l.off
    exact (HeadWork.ite (fun _ => w.then (sendOwn_work _ _)) fun _ => w).work.lawful l

theorem restartTerm_lawful (old : State) (k : Term) (l : Lawful s) : Lawful (restartTerm old k s) := by
  unfold restartTerm
  dsimp only
  split
  · exact { l with }
  · exact { l with }

theorem eachTerm_lawful {f : Term → State → State} (hf : ∀ k s, Lawful s → Lawful (f k s)) (l : Lawful s) :
    Lawful (eachTerm f s) := hf .t4 _ (hf .t3 _ (hf .t2 _ (hf .t1 _ l)))

theorem restarted_lawful (tag : Byte) (l : Lawful s) : Lawful (s.restarted tag) := by
  exact Restarted.lawful
    { cell := rfl, heads := rfl, channels := rfl, alarms := rfl, strips := rfl, drives := .nil, plans := l.cands.1
      queues := by simp [State.queuesBounded, State.restarted, Lif.restarted]
      log := ⟨l.log.1, nofun, l.log.2.2⟩ }

theorem restartPart_lawful (tag : Byte) (l : Lawful s) : Lawful (restartPart tag s) := by
  unfold restartPart
  dsimp only
  refine kick_lawful (eachTerm_lawful (fun k _ => restartTerm_lawful s k) (raiseEstop_lawful ?_))
  have heads := restartHead_lawful s .b (restartHead_lawful s .a (restarted_lawful tag l))
  exact (notify_work _ heads.off).work.lawful heads

theorem onRestart_lawful (tag : Byte) (l : Lawful s) : Lawful (onRestart tag s) := by
  unfold onRestart
  split
  · split
    · exact restartPart_lawful tag l
    · exact l
  · exact l

/-! ### ENABLE (R64) -/

theorem Head.eq_or_eq_other (h k : Head) : k = h ∨ k = h.other := by
  cases h <;> cases k <;> simp [Head.other]

/-- A head that ENABLE takes out of OFF, with its reasons to hold; the frames that drive its node leave the queue (R64, R166). -/
def State.enabled (s : State) (h : Head) (a : Nat) : State :=
  let t := s.setChan h { s.chan h with state := .idle }
  ({ t with lif := { s.lif with ufQueue := s.lif.ufQueue.filter fun f => !f.drivesHead a } } : State).modHead h fun c =>
    { c with hold := s.standing h, state := .hold }

theorem enable_eq {h : Head} {a : Nat} (ha : s.addrOf (.head h) = some a) :
    enable h s = if (s.standing h).isEmpty then enterIdle h (s.enabled h a) else s.enabled h a := by
  have addr : (s.setChan h { s.chan h with state := .idle }).addrOf (.head h) = some a := ha
  simp only [enable, dropGated, addr]
  rfl

theorem enabled_lawful {h : Head} {a : Nat} (cell : s.ccs.cell ≠ .stopped) (ha : s.addrOf (.head h) = some a) (l : Lawful s) :
    Lawful (s.enabled h a) := by
  have on : ((s.enabled h a).head h).state = .hold := congrArg HeadCtx.state (State.head_modHead_self _ h _)
  have head : (s.enabled h a).head h.other = s.head h.other := State.head_modHead_other _ h _
  have chan : (s.enabled h a).chan h.other = s.chan h.other := State.chan_setChan_other _ h _
  obtain ⟨uf, fu, replies, requests, notices⟩ := l.queues
  refine { l with
    queues := ⟨(List.length_filter_le ..).trans uf, fu, replies, requests, notices⟩
    gate := fun k _ => ?_
    stop := ⟨fun k off => ?_, fun running asserted => absurd asserted (estop_of_not_stopped (s := s) l cell running),
      fun e => absurd e cell⟩ }
  · rcases Head.eq_or_eq_other h k with rfl | rfl
    · exact ⟨a, ha, fun f hf => by simpa using (List.mem_filter.mp hf).2⟩
    · rename_i stays
      rw [head] at stays
      obtain ⟨b, hb, free⟩ := l.gate _ stays
      exact ⟨b, hb, fun f hf => free f (List.mem_of_mem_filter hf)⟩
  · rcases Head.eq_or_eq_other h k with rfl | rfl
    · exact nomatch on.symm.trans off
    · rw [head] at off
      rw [head, chan]
      exact l.off _ off

theorem enable_lawful {h : Head} {a : Nat} (cell : s.ccs.cell ≠ .stopped) (ha : s.addrOf (.head h) = some a) (l : Lawful s) :
    Lawful (enable h s) ∧ (enable h s).lif.replies = s.lif.replies := by
  have lawful := enabled_lawful cell ha l
  have on : ((s.enabled h a).head h).state ≠ .off :=
    ne_of_eq_of_ne (congrArg HeadCtx.state (State.head_modHead_self _ h _)) nofun
  rw [enable_eq ha]
  split
  · exact (enterIdle_work lawful.off on).work.serves lawful rfl
  · exact ⟨lawful, rfl⟩

theorem onEnable_serving (h : Head) : Serving (onEnable h) := by
  intro s l
  unfold onEnable
  split
  · exact ⟨l, rfl⟩
  · split
    · exact ⟨l, rfl⟩
    · split
      · exact ⟨l, rfl⟩
      · rename_i cell held
        obtain ⟨a, ha⟩ := Option.ne_none_iff_exists'.mp (mt Option.isNone_iff_eq_none.mpr held)
        exact enable_lawful cell ha l

theorem onHeadOp_serving (o : HeadOp) (h : Option Head) : Serving (onHeadOp o h) := by
  cases h with
  | none => exact serving_of_same fun _ => rfl
  | some h =>
    cases o with
    | enable => exact onEnable_serving h
    | disable => exact serving_of_work fun _ => goOff_work h
    | pause => exact serving_of_work fun _ => onHeadPause_work h
    | resume => exact serving_of_work fun _ => onHeadResume_work h
    | clearFault => exact serving_of_work fun _ => onClearFault_work h

end Sys2Proof.Machine
end

section
/-! SUPPORT. What the reads and writes of tables, and the requests for lists, keep of the laws of a run. -/

namespace Sys2Proof.Machine

variable {s t : State}

/-! ### Stores (R170) -/

theorem mem_storeFrom {α : Type} {l es : List α} {i : Nat} {x : α} (h : x ∈ storeFrom l i es) : x ∈ l ∨ x ∈ es := by
  induction es generalizing l i with
  | nil => exact .inl h
  | cons e es ih =>
    rcases ih h with old | new
    · rcases List.mem_or_eq_of_mem_set old with old | rfl
      · exact .inl old
      · exact .inr (List.mem_cons_self ..)
    · exact .inr (List.mem_cons_of_mem _ new)

/-- A write stores only where no entry fails its check. -/
theorem writeTable_serves {α : Type} {lo hi first count : Nat} {entries : List α} {fails : Option (ResultCode × Nat)}
    {store : State → State} (l : Lawful s)
    (stores : fails = none → Lawful (store s) ∧ (store s).lif.replies = s.lif.replies) :
    Lawful (writeTable lo hi first count entries fails store s).1 ∧
      (writeTable lo hi first count entries fails store s).1.lif.replies = s.lif.replies := by
  unfold writeTable
  split
  · exact ⟨l, rfl⟩
  · split
    · exact ⟨l, rfl⟩
    · split
      · exact ⟨l, rfl⟩
      · split
        · exact ⟨l, rfl⟩
        · exact stores rfl

theorem readTable_same (n : TableName) (lo hi first count : Nat) (d : ReplyData) (s : State) :
    (readTable n lo hi first count d s).1 = s := by
  unfold readTable
  split
  · rfl
  · split <;> rfl

theorem readUnit_same (first count : Nat) (s : State) : (readUnit first count s).1 = s := by
  unfold readUnit
  split
  · rfl
  · split
    · rfl
    · exact readTable_same ..

theorem readCandidate_same (p : Position) (first count : Nat) (s : State) : (readCandidate p first count s).1 = s := by
  unfold readCandidate
  split
  · rfl
  · split
    · rfl
    · exact readTable_same ..

/-! ### The forwarding table (R161, R164) -/

theorem eachTerm_Work {f : Term → State → State} (hf : ∀ k s, State.offLawful s → Work s (f k s)) (l : s.offLawful) :
    Work s (eachTerm f s) := by
  refine .then ?_ (hf .t4 _)
  refine .then ?_ (hf .t3 _)
  refine .then ?_ (hf .t2 _)
  exact hf .t1 _ l

theorem roleChange_work (before : List ForwardingEntry) (k : Term) (l : s.offLawful) : Work s (roleChange before k s) := by
  unfold roleChange
  dsimp only
  split
  · exact .ite (fun _ => .refl l) fun _ => modTerm_Work _ _ l
  · exact .ite (fun _ => modTerm_Work _ _ l) fun _ => .refl l

/-- An entry that is stored with a role is valid (R164). -/
theorem storedForwarding_valid {e : ForwardingWrite} {h : Head} (role : (storedForwarding e).role = .head h) :
    (storedForwarding e).valid = true := by
  unfold storedForwarding at *
  split
  · rfl
  · rename_i invalid
    rw [if_neg invalid] at role
    exact nomatch role

/-- The checks on an entry that bear on the node of a head that is on: its own address keeps the role, and no other takes it. -/
theorem checkForwarding_head {h : Head} {e : ForwardingWrite} {table : List ForwardingEntry} {a i : Nat}
    (on : (s.head h).state ≠ .off) (inside : a < table.length) (ha : roleIn table a = .head h)
    (passes : checkForwarding s table i e = none) : (storedForwarding e).role = .head h ↔ i = a := by
  have active : s.active (.head h) = true := decide_eq_true on
  simp only [checkForwarding, firstBroken_cons] at passes
  split at passes
  · split at passes
    · split at passes
      · rename_i once idle
        constructor
        · intro role
          by_contra other
          rw [role] at once
          have shared : sharedRole (.head h) = false := by simp [sharedRole]
          have held : heldElsewhere table i (.head h) = true :=
            List.any_eq_true.mpr ⟨a, List.mem_range.mpr inside, by simp [Ne.symm other, ha]⟩
          simp [shared, held] at once
        · rintro rfl
          rw [ha, active] at idle
          simpa [eq_comm] using idle
      · cases passes
    · cases passes
  · cases passes

/-- The node of a head that is on holds its address through a write of the forwarding table (R164). -/
theorem addrIn_storeFrom {h : Head} {entries : List ForwardingWrite} {table : List ForwardingEntry} {a i : Nat}
    (on : (s.head h).state ≠ .off) (ha : addrIn table (.head h) = some a)
    (passes : firstFailingIn (checkForwarding s) storedForwarding table i entries = none) :
    addrIn (storeFrom table i (entries.map storedForwarding)) (.head h) = some a := by
  induction entries generalizing table i with
  | nil => exact ha
  | cons e es ih =>
    unfold firstFailingIn at passes
    split at passes
    · cases passes
    · rename_i check
      refine ih ?_ passes
      obtain ⟨inside, holds, before⟩ := List.findIdx?_eq_some_iff_getElem.mp ha
      obtain ⟨valid, role⟩ := by simpa using holds
      have read : roleIn table a = .head h := by
        rw [roleIn, List.getElem?_eq_getElem inside]
        exact (if_pos valid).trans role
      have key := checkForwarding_head on inside read check
      refine List.findIdx?_eq_some_iff_getElem.mpr ⟨by simpa using inside, ?_, fun j hj => ?_⟩
      · rw [List.getElem_set]
        split
        · rename_i same
          simp [key.mpr same, storedForwarding_valid (key.mpr same)]
        · exact holds
      · rw [List.getElem_set]
        split
        · rename_i same
          have other : (storedForwarding e).role ≠ .head h := fun k => by have := key.mp k; omega
          simp [other]
        · exact before j hj

theorem writeForwarding_serving (first count : Nat) (entries : List ForwardingWrite) :
    Serving (writeForwarding first count entries) := fun s l => writeTable_serves l fun passes => by
  let m : State :=
    { s with lif := { s.lif with forwarding := storeFrom s.lif.forwarding first (entries.map storedForwarding) } }
  have stored : Lawful m :=
    { l with
      gate := fun h on =>
        have ⟨a, ha, free⟩ := l.gate h on
        ⟨a, addrIn_storeFrom on ha passes, free⟩ }
  exact (eachTerm_Work (s := m) (fun k _ => roleChange_work _ k) stored.off).serves stored rfl

/-! ### The other tables -/

theorem firstFailing_eq_none {α : Type} {check : α → Option ResultCode} {entries : List α} {i : Nat}
    (h : firstFailing (fun _ => check) i entries = none) : ∀ e ∈ entries, check e = none := by
  induction entries generalizing i with
  | nil => exact nofun
  | cons e es ih =>
    unfold firstFailing at h
    split at h
    · cases h
    · rename_i passes
      exact List.forall_mem_cons.mpr ⟨passes, ih h⟩

theorem nodup_of_noDuplicates {l : List Nat} (h : noDuplicates l = true) : l.Nodup := by
  induction l with
  | nil => exact List.nodup_nil
  | cons x xs ih =>
    obtain ⟨new, rest⟩ := by simpa [noDuplicates] using h
    exact List.nodup_cons.mpr ⟨new, ih rest⟩

/-- A plan that passes its check is stored lawful (R113). -/
theorem storedPlan_lawful {e : PlanEntry} (h : checkPlan e = none) : planLawful (storedPlan e) := by
  unfold storedPlan
  split
  · rename_i valid
    simp only [checkPlan, firstBroken_cons, valid] at h
    split at h
    · rename_i fits
      simp only [Bool.not_true, Bool.false_or, Bool.and_eq_true, decide_eq_true_eq] at fits
      obtain ⟨⟨⟨⟨⟨⟨-, units⟩, -⟩, unitsOnce⟩, wires⟩, -⟩, wiresOnce⟩ := fits
      exact ⟨units, wires, nodup_of_noDuplicates unitsOnce, nodup_of_noDuplicates wiresOnce⟩
    · cases h
  · exact planLawful_replicate 1 _ (List.mem_singleton.mpr rfl)

theorem writePlan_serving (first count : Nat) (entries : List PlanEntry) : Serving (writePlan first count entries) :=
  fun _ l => writeTable_serves l fun passes => by
    refine ⟨{ l with cands := ⟨fun e he => ?_, l.cands.2⟩ }, rfl⟩
    rcases mem_storeFrom he with old | new
    · exact l.cands.1 e old
    · obtain ⟨x, hx, rfl⟩ := List.mem_map.mp new
      exact storedPlan_lawful (firstFailing_eq_none passes x hx)

theorem writeKind_serving (first count : Nat) (entries : List (Option KindAction)) : Serving (writeKind first count entries) :=
  fun _ l => writeTable_serves l fun _ => ⟨{ l with }, rfl⟩

theorem writeCellParameter_serving (first count : Nat) (entries : List ParamValue) :
    Serving (writeCellParameter first count entries) := fun s l => writeTable_serves l fun _ => by
  let m : State := { s with ccs := { s.ccs with params := putParams s.ccs.params first entries } }
  have set : Lawful m := setCcs_lawful _ l.stop.2.1 l.stop.2.2 l
  refine Work.serves (m := m) ?_ set rfl
  exact .ite (fun _ => dwellCheck_work set.off) fun _ => .refl set.off

theorem writeLot_serving (first count : Nat) (entries : List LotWrite) : Serving (writeLot first count entries) := by
  intro s l
  unfold writeLot
  split
  · exact writeTable_serves l fun _ => ⟨{ l with }, rfl⟩
  · exact ⟨l, rfl⟩

theorem writeProgram_serving (first count : Nat) (entries : List ProgramEntry) : Serving (writeProgram first count entries) :=
  fun _ l => writeTable_serves l fun _ => ⟨{ l with }, rfl⟩

theorem writeWire_serving (first count : Nat) (entries : List WireEntry) : Serving (writeWire first count entries) :=
  fun _ l => writeTable_serves l fun _ => ⟨{ l with }, rfl⟩

theorem writeRecipe_serving (first count : Nat) (entries : List RecipeEntry) : Serving (writeRecipe first count entries) :=
  fun _ l => writeTable_serves l fun _ => ⟨{ l with }, rfl⟩

theorem writeLimits_serving (first count : Nat) (entries : List LimitsEntry) : Serving (writeLimits first count entries) :=
  fun _ l => writeTable_serves l fun _ => ⟨{ l with }, rfl⟩

theorem setLevels_work (i : Nat) (levels : List (Option Level)) (l : s.offLawful) : Work s (setLevels i levels s) := by
  induction levels generalizing i s with
  | nil => exact .refl l
  | cons _ levels ih => exact (modTerm_Work _ _ l).then (ih _)

theorem writeTerminal_serving (first count : Nat) (entries : List (Option Level)) :
    Serving (writeTerminal first count entries) :=
  fun _ l => writeTable_serves l fun _ => (setLevels_work first entries l.off).serves l rfl

theorem redraw_work (touched : State → Nat → Bool) (k : Term) (l : s.offLawful) : Work s (redraw touched k s) := by
  unfold redraw
  exact .ite (fun _ => modTerm_Work _ _ l) fun _ => .refl l

theorem writePage_serving (first count : Nat) (entries : List PageEntry) : Serving (writePage first count entries) :=
  fun s l => writeTable_serves l fun _ => by
    let m : State := { s with tmc := { s.tmc with pages := storeFrom s.tmc.pages first entries } }
    have stored : Lawful m := { l with }
    exact (eachTerm_Work (s := m) (fun k _ => redraw_work _ k) stored.off).serves stored rfl

theorem writeTile_serving (first count : Nat) (entries : List TileEntry) : Serving (writeTile first count entries) :=
  fun s l => writeTable_serves l fun _ => by
    let m : State := { s with tmc := { s.tmc with tiles := storeFrom s.tmc.tiles first entries } }
    have stored : Lawful m := { l with }
    exact (eachTerm_Work (s := m) (fun k _ => redraw_work _ k) stored.off).serves stored rfl

theorem writeKeyMap_serving (first count : Nat) (entries : List KeyEntry) : Serving (writeKeyMap first count entries) :=
  fun _ l => writeTable_serves l fun _ => ⟨{ l with }, rfl⟩

/-! ### Lists and counters (R125, R126, R130, R147, R172) -/

theorem onPullRead_same (count : Nat) (s : State) : (onPullRead count s).1 = s := by
  unfold onPullRead
  split <;> rfl

theorem onStatsRead_same (p : Nat) (s : State) : (onStatsRead p s).1 = s := by
  unfold onStatsRead
  split <;> rfl

theorem onPullRelease_work (n : Nat) (l : s.offLawful) : Work s (onPullRelease n s).1 := by
  unfold onPullRelease
  split
  · exact releaseRecords_work _ l
  · exact .refl l

theorem onStatsReset_work (sel : StatsSel) (l : s.offLawful) : Work s (onStatsReset sel s).1 := by
  have every (ps : List Nat) : Work s (ps.foldl (fun t p => resetStats p t) s) := by
    induction ps generalizing s with
    | nil => exact .refl l
    | cons p ps ih => exact (resetStats_work p l).then fun l' => ih l'
  cases sel with
  | all => simpa only [onStatsReset, accept] using every (List.range 8)
  | program p => exact .served (fun _ => resetStats_work p l) fun _ => .refl l

theorem markShown_shownFrom (first count i : Nat) (l : List AlarmEntry) :
    List.Forall₂ AlarmEntry.shownFrom l (markShown first count l i) := by
  induction l generalizing i with
  | nil => exact .nil
  | cons e l ih =>
    refine .cons ?_ (ih _)
    split
    · exact .inr rfl
    · exact .inl rfl

theorem onAlarmRead_serving (first count : Nat) : Serving (onAlarmRead first count) := by
  intro s l
  unfold onAlarmRead
  split
  · exact ⟨l, rfl⟩
  · split
    · exact ⟨l, rfl⟩
    · exact ⟨{ l with alarms := alarmsLawful_of_shownFrom (markShown_shownFrom first count 0 _) l.alarms }, rfl⟩

theorem onStatusRead_serving (n : Nat) : Serving (onStatusRead n) := by
  intro s l
  unfold onStatusRead readCause
  split
  · dsimp only [acceptWith]
    split
    · exact ⟨setCcs_lawful _ l.stop.2.1 l.stop.2.2 l, rfl⟩
    · exact ⟨l, rfl⟩
  · exact ⟨l, rfl⟩

theorem onCountersClear_serving : Serving onCountersClear := fun _ l => ⟨{ l with }, rfl⟩

end Sys2Proof.Machine
end

section
/-! SUPPORT. Every command answers a next state and keeps the laws of a run. -/

namespace Sys2Proof.Machine

variable {s t : State}

/-- The command answers a next state, and keeps the laws. -/
def KeepsLaws (o : Out) (s : State) : Prop := ∃ t, o = .next t ∧ (Lawful s → Lawful t)

theorem act_keepsLaws {f : State → State} (hf : Lawful s → Lawful (f s)) : KeepsLaws (act f s) s := by
  unfold act
  split
  · exact ⟨s, rfl, id⟩
  · exact ⟨_, rfl, fun l => finish_lawful (hf l)⟩

theorem act_work_keepsLaws {f : State → State} (hf : s.offLawful → Work s (f s)) : KeepsLaws (act f s) s :=
  act_keepsLaws fun l => (hf l.off).lawful l

theorem act_serve_keepsLaws {f : State → Served} (hf : Serving f) (tag : Byte) (r : Request) :
    KeepsLaws (act (serve tag r f) s) s := act_keepsLaws (serve_lawful hf tag r)

theorem estopAssert_keepsLaws (s : State) : KeepsLaws (execEstopAssert s) s := by
  unfold execEstopAssert
  split
  · rename_i held
    exact ⟨_, rfl, fun l => setCcs_lawful _ (fun running => nomatch held.symm.trans running) l.stop.2.2 l⟩
  · refine ⟨_, rfl, fun l => finish_lawful ?_⟩
    split
    · exact l
    · exact assertEstop_lawful l

theorem estopRelease_keepsLaws (s : State) : KeepsLaws (execEstopRelease s) s := by
  unfold execEstopRelease
  split
  · exact ⟨_, rfl, fun l => setCcs_lawful _ nofun l.stop.2.2 l⟩
  · refine ⟨_, rfl, fun l => finish_lawful ?_⟩
    split
    · exact releaseEstop_lawful l
    · exact l

theorem restart_keepsLaws (tag : Byte) (s : State) : KeepsLaws (execRestart tag s) s := by
  unfold execRestart
  split
  · exact ⟨_, rfl, id⟩
  · exact ⟨_, rfl, onRestart_lawful tag⟩

/-- While the reset line is asserted Law 10 asks nothing of the E-stop line (R176). -/
theorem assertReset_lawful (l : Lawful s) : Lawful (assertReset s) :=
  { l with stop := ⟨l.off, nofun, l.stop.2.2⟩ }

/-- Every command answers a next state and keeps the laws: one line for each, by what its meaning is made of. -/
theorem exec_keepsLaws (c : Instr) (s : State) : KeepsLaws (exec c s) s := by
  cases c with
  | fullReset cause => exact ⟨_, rfl, fun _ => fullReset_lawful cause s⟩
  | estopAssert => exact estopAssert_keepsLaws s
  | estopRelease => exact estopRelease_keepsLaws s
  | resetLineAsserted => exact ⟨_, rfl, assertReset_lawful⟩
  | restart tag => exact restart_keepsLaws tag s
  | millisecondTick =>
    rw [exec_millisecondTick]
    exact act_keepsLaws tick_lawful
  | dwellComplete => exact act_work_keepsLaws dwellCheck_work
  | fPortFrame f => exact act_keepsLaws (onFPort_lawful f)
  | uPortFrame f => exact act_keepsLaws (onUPort_lawful f)
  | fPortFrameSent => exact act_keepsLaws onFSent_lawful
  | uPortFrameSent => exact act_keepsLaws onUSent_lawful
  | tileIntervalExpiry k => exact act_keepsLaws (makeFrame_lawful k)
  | mreq f => exact act_keepsLaws (onMreq_lawful f)
  | magIn | magOut | stripIn | feedFault | outputMagIn | outputMagOut | moveDone | trackFault | ejected | outputFeedFault
  | heatSample | touchdown | usSample | bondEnd | wireDone | aborted | motionFault | pullResult | screenKey =>
    exact act_keepsLaws (fieldArrive_lawful _)
  | pushGrant => exact act_work_keepsLaws grantPush_work
  | movePbGrant => exact act_work_keepsLaws grantMovePb_work
  | moveBpGrant => exact act_work_keepsLaws grantMoveBp_work
  | ejectGrant => exact act_work_keepsLaws grantEject_work
  | pushTimeout => exact act_work_keepsLaws onPushTimeout_work
  | moveTimeout => exact act_work_keepsLaws onMoveTimeout_work
  | heatSignalTimerExpiry => exact act_work_keepsLaws onHeatTimer_work
  | pullReq => exact act_work_keepsLaws onPullReq_work
  | pullRequestTimeout => exact act_work_keepsLaws onPullTimeout_work
  | startupTimeout h => exact act_work_keepsLaws fun l => (onStartupTimeout_work h l).work
  | lossWindowExpiry h => exact act_work_keepsLaws fun l => (onLossWindow_work h l).work
  | headDeadlineExpiry h => exact act_work_keepsLaws fun l => (onDeadline_work h l).work
  | cellCmdArm => exact act_serve_keepsLaws onArm_serving _ _
  | cellCmdStart => exact act_serve_keepsLaws onStart_serving _ _
  | cellCmdDrain => exact act_serve_keepsLaws onDrain_serving _ _
  | cellCmdPause => exact act_serve_keepsLaws (serving_of_work fun _ => onPause_work) _ _
  | cellCmdResume => exact act_serve_keepsLaws (serving_of_work fun _ => onResume_work) _ _
  | cellCmdStop => exact act_serve_keepsLaws onStop_serving _ _
  | headOpEnable | headOpDisable | headOpPause | headOpResume | headOpClearFault =>
    exact act_serve_keepsLaws (onHeadOp_serving _ _) _ _
  | stripOpAcceptId => exact act_serve_keepsLaws (serving_of_work fun _ => onAcceptId_work _) _ _
  | stripOpScrap => exact act_serve_keepsLaws (serving_of_work fun _ => onScrap_work _) _ _
  | stripOpSkipUnit => exact act_serve_keepsLaws (serving_of_work fun _ => onSkipUnit_work _ _) _ _
  | stripOpNsbResume => exact act_serve_keepsLaws (serving_of_work fun _ => onNsbResume_work _) _ _
  | stripOpRebondWire => exact act_serve_keepsLaws (serving_of_work fun _ => onRebondWire_work _) _ _
  | stripOpWaiveWire => exact act_serve_keepsLaws (serving_of_work fun _ => onWaiveWire_work _) _ _
  | slotOpAcceptSensed | slotOpSkipSlot => exact act_serve_keepsLaws (serving_of_work fun _ => onSlotOp_work _ _) _ _
  | programRelease => exact act_serve_keepsLaws (serving_of_work fun _ => onProgramRelease_work _) _ _
  | pullAdd => exact act_serve_keepsLaws (serving_of_work fun _ => onPullAdd_work _ _ _) _ _
  | pullRead => exact act_serve_keepsLaws (serving_of_same (onPullRead_same _)) _ _
  | pullRelease => exact act_serve_keepsLaws (serving_of_work fun _ => onPullRelease_work _) _ _
  | statsRead => exact act_serve_keepsLaws (serving_of_same (onStatsRead_same _)) _ _
  | statsReset => exact act_serve_keepsLaws (serving_of_work fun _ => onStatsReset_work _) _ _
  | alarmRead => exact act_serve_keepsLaws (onAlarmRead_serving _ _) _ _
  | alarmAck => exact act_serve_keepsLaws (serving_of_work fun _ => onAlarmAck_work _ _) _ _
  | statusRead => exact act_serve_keepsLaws (onStatusRead_serving _) _ _
  | countersClear => exact act_serve_keepsLaws onCountersClear_serving _ _
  | tableWriteForwarding => exact act_serve_keepsLaws (writeForwarding_serving _ _ _) _ _
  | tableWriteKind => exact act_serve_keepsLaws (writeKind_serving _ _ _) _ _
  | tableWriteCellParameter => exact act_serve_keepsLaws (writeCellParameter_serving _ _ _) _ _
  | tableWriteLot => exact act_serve_keepsLaws (writeLot_serving _ _ _) _ _
  | tableWriteProgram => exact act_serve_keepsLaws (writeProgram_serving _ _ _) _ _
  | tableWriteWire => exact act_serve_keepsLaws (writeWire_serving _ _ _) _ _
  | tableWriteRecipe => exact act_serve_keepsLaws (writeRecipe_serving _ _ _) _ _
  | tableWritePlan => exact act_serve_keepsLaws (writePlan_serving _ _ _) _ _
  | tableWriteLimits => exact act_serve_keepsLaws (writeLimits_serving _ _ _) _ _
  | tableWriteTerminal => exact act_serve_keepsLaws (writeTerminal_serving _ _ _) _ _
  | tableWritePage => exact act_serve_keepsLaws (writePage_serving _ _ _) _ _
  | tableWriteTile => exact act_serve_keepsLaws (writeTile_serving _ _ _) _ _
  | tableWriteKeyMap => exact act_serve_keepsLaws (writeKeyMap_serving _ _ _) _ _
  | tableWriteUnit | tableWriteCandidate => exact act_serve_keepsLaws (serving_of_same fun _ => rfl) _ _
  | tableReadUnit => exact act_serve_keepsLaws (serving_of_same (readUnit_same _ _)) _ _
  | tableReadCandidate => exact act_serve_keepsLaws (serving_of_same (readCandidate_same _ _ _)) _ _
  | tableReadForwarding | tableReadKind | tableReadCellParameter | tableReadLot | tableReadProgram | tableReadWire
  | tableReadRecipe | tableReadPlan | tableReadLimits | tableReadTerminal | tableReadPage | tableReadTile | tableReadKeyMap =>
    exact act_serve_keepsLaws (serving_of_same fun _ => readTable_same ..) _ _

theorem lawful_iff :
    Lawful s ↔ s.queuesBounded ∧ s.oneDriveEach ∧ s.alarmsLawful ∧ s.logLawful ∧ s.stopLawful ∧ s.candidatesLawful ∧
      s.gateLawful :=
  ⟨fun l => ⟨l.queues, l.drives, l.alarms, l.log, l.stop, l.cands, l.gate⟩,
   fun ⟨queues, drives, alarms, log, stop, cands, gate⟩ => ⟨⟨queues, drives, alarms, log, cands, gate⟩, stop⟩⟩

/-- Settles O59: a step idles or runs one command, and `exec_keepsLaws` is what every command does. -/
theorem everyStepKeepsTheLaws : Obligations.EveryStepKeepsTheLaws := by
  intro s
  have keeps : KeepsLaws (step s) s := by
    unfold step
    split
    · exact ⟨s, rfl, id⟩
    · rename_i c rest _
      obtain ⟨t, next, lawful⟩ := exec_keepsLaws c { s with pending := rest }
      exact ⟨t, next, fun l => lawful { l with }⟩
  obtain ⟨t, next, lawful⟩ := keeps
  refine ⟨⟨t, next⟩, fun queues drives alarms log stop cands gate u hu => ?_⟩
  obtain rfl : t = u := by simpa using next.symm.trans hu
  exact lawful_iff.mp (lawful (lawful_iff.mpr ⟨queues, drives, alarms, log, stop, cands, gate⟩))

end Sys2Proof.Machine
end

section
/-! SUPPORT. Hold reasons (R62, R63), the commands to the nodes and the start of a wire (R46, R57, R67), and HEAD_OP (R64 to R66,
R77). -/

namespace Sys2Proof.Machine

variable {s : State}

/-! ### Changes of a head -/

theorem modHead_congr {h : Head} {f g : HeadCtx → HeadCtx} (e : f (s.head h) = g (s.head h)) : s.modHead h f = s.modHead h g := by
  unfold State.modHead
  rw [show f (s.heads.get h) = g (s.heads.get h) from e]

theorem modHead_modHead (h : Head) (f g : HeadCtx → HeadCtx) (s : State) :
    (s.modHead h f).modHead h g = s.modHead h fun c => g (f c) := by
  simp [State.modHead]

/-- A frame that is made is the same whatever the head holds. -/
theorem modHead_sendOwn (h : Head) (f : HeadCtx → HeadCtx) (r : Role) (b : OwnBody) (s : State) :
    (sendOwn r b s).modHead h f = sendOwn r b (s.modHead h f) := by
  simp only [sendOwn_eq]
  rfl

/-! ### Hold reasons (R62, R63) -/

theorem addReason_eq (r : HoldReason) (h : Head) (s : State) :
    addReason r h s =
      if (s.head h).state = .off then s
      else s.modHead h fun c =>
        { c with hold := c.hold.put r true, state := if c.state = .idle ∨ c.state = .parked then .hold else c.state } := by
  unfold addReason
  split <;> rename_i e
  · rw [if_pos e]
  all_goals
    rw [if_neg (by simp [e])]
    refine modHead_congr ?_
    simp [e]

theorem removeReason_eq (r : HoldReason) (h : Head) (s : State) :
    let t := s.modHead h fun c => { c with hold := c.hold.put r false }
    removeReason r h s =
      if (s.head h).hold.has r = false then s
      else if (s.head h).state ≠ .hold ∨ (t.head h).hold ≠ {} then t else leaveHold h t := by
  intro t
  have state : (t.head h).state = (s.head h).state := by simp [t]
  have leaves : ((t.head h).state = .hold ∧ (t.head h).hold.isEmpty = true) ↔ ¬((s.head h).state ≠ .hold ∨ (t.head h).hold ≠ {}) := by
    rw [state, holdSet_isEmpty_iff, not_or, not_not, not_not]
  unfold removeReason
  by_cases has : (s.head h).hold.has r = true
  · exact (if_pos has).trans (((if_congr leaves rfl rfl).trans (ite_not ..)).trans (if_neg (by simp [has])).symm)
  · exact (if_neg has).trans (if_pos (by simpa using has)).symm

theorem has_put (r q : HoldReason) (b : Bool) (l : HoldSet) : (l.put r b).has q = if r = q then b else l.has q := by
  cases r <;> cases q <;> rfl

/-- Settles O9: the two operations have an equation each, and a set is what its seven flags say. -/
theorem holdReasonsActAtBoundaries : Obligations.HoldReasonsActAtBoundaries :=
  fun r q h s b l => ⟨addReason_eq r h s, removeReason_eq r h s, has_put r q b l, rfl⟩

/-! ### Commands to the nodes (R60) -/

/-- A command with its new number, and the event awaited for it. -/
theorem awaitEvent_commandHead (h : Head) (cmd : HeadCmd) (e : AwaitedEvent) (ms : Nat) (s : State) :
    awaitEvent h e ms (commandHead h cmd s) =
      sendOwn (.head h) (.headCmd cmd ((s.head h).cmdNo + 1))
        (s.modHead h fun c =>
          { c with cmdNo := c.cmdNo + 1, awaited := some { event := e, deadline := s.ccs.timebase + BitVec.ofNat 32 ms } }) := by
  have now : (commandHead h cmd s).ccs = s.ccs := by
    rw [commandHead, sendHeadCmd, sendOwn_eq]
    rfl
  rw [awaitEvent, State.now, now, commandHead, sendHeadCmd, modHead_sendOwn, modHead_modHead, State.head_modHead_self]

/-! ### Starting a wire (R46, R57, R67) -/

section
variable {h : Head} {u : Nat} {r : StripRecord} {x : UnitRecord}

theorem startWire_of_held (hr : s.trc.bond = some r) (hx : s.unit? u = some x) (held : s.held r.program = true) :
    startWire h u s = holdForProgram h s := by
  simp only [startWire, hr, hx]
  exact if_pos held

theorem startWire_of_running (hr : s.trc.bond = some r) (hx : s.unit? u = some x) (running : s.held r.program = false) :
    let w := x.claimedWire
    let e := s.wireEntry r.program w
    startWire h u s =
      sendOwn (.head h)
        (.headCmd
          (.wireGo (s.site1 r.program u w) (s.site2 r.program u w) e.dieLevel e.loopCode (s.recipe e.ballRecipe).bondForce
            (s.recipe e.stitchRecipe).bondForce)
          ((s.head h).cmdNo + 1))
        ((clearVotes h s).modHead h fun c =>
          { c with wire := some { seq := r.seq, unit := u, wire := w }, phase := .ball, retries := 0, retried := false
                   cmdNo := c.cmdNo + 1, state := .moving, abandoning := false
                   awaited := some { event := .touchdown, deadline := s.ccs.timebase + 200 } }) := by
  intro w e
  simp only [startWire, hr, hx]
  refine (if_neg (by simp [running])).trans ?_
  have cleared (f : HeadCtx → HeadCtx) : clearVotes h (s.modHead h f) = (clearVotes h s).modHead h f := rfl
  rw [cleared, awaitEvent_commandHead, modHead_modHead, State.head_modHead_self]
  rfl

end

/-- Settles O11: the two outcomes are `startWire_of_held` and `startWire_of_running`. -/
theorem startingAWireSendsWireGo : Obligations.StartingAWireSendsWireGo := by
  intro h u s r x hr hx
  refine ⟨startWire_of_held hr hx, fun running => ?_⟩
  intro p w e ox oy
  have wire : w = x.claimedWire := by
    unfold UnitRecord.claimedWire
    cases hb : x.rebond <;> simp only [w, hb] <;> rfl
  rw [startWire_of_running hr hx running, ← wire]
  rfl

/-! ### HEAD_OP (R64 to R66, R77) -/

theorem alarmHolds_iff {h : Head} :
    s.alarmHolds h = true ↔
      ∃ e ∈ s.alc.list, isStop e.code = true ∧ e.state ≠ .activeAcked ∧ (e.scope = .head h ∨ e.scope = .cell) := by
  simp only [State.alarmHolds, State.stopped, AlarmEntry.effective, Bool.or_eq_true, List.any_eq_true, Bool.and_eq_true,
    decide_eq_true_eq, ← exists_or, ← and_or_left, and_assoc]

/-- A frame drives the node of a head that has one. -/
theorem drivesHead_eq {h : Head} {a : Nat} (ha : s.addrOf (.head h) = some a) (f : LinkFrame) :
    f.drivesHead a =
      ((f.kind == 0x10 || f.kind == 0x13) && (some f.dst.toNat == s.addrOf (.head h) || f.dst == 63)) := by
  rw [ha]
  rfl

/-- What ENABLE answers (R64). -/
theorem onEnable_eq (h : Head) (s : State) :
    onEnable h s =
      (if (s.head h).state ≠ .off ∨ s.ccs.cell = .stopped ∨ s.addrOf (.head h) = none then s else enable h s,
       { result := if (s.head h).state ≠ .off then .badState
                   else if s.ccs.cell = .stopped then .badState
                   else if s.addrOf (.head h) = none then .notFound else .ok }) := by
  unfold onEnable
  by_cases on : (s.head h).state ≠ .off
  · simp only [if_pos on, if_pos (Or.inl on)]
    rfl
  · by_cases stopped : s.ccs.cell = .stopped
    · simp only [on, false_or, stopped, true_or, if_true]
      rfl
    · by_cases gone : s.addrOf (.head h) = none
      · simp only [on, stopped, gone, or_true, if_true, Option.isNone_none]
        rfl
      · simp only [Option.isNone_iff_eq_none, gone, on, stopped, or_false, if_false]
        rfl

/-- The channel of a head whose fault is cleared leaves TRIPPED (R77 step 1). -/
def untrip (h : Head) (s : State) : State :=
  if (s.chan h).state = .tripped then s.setChan h { s.chan h with state := .idle } else s

theorem untrip_usc (h : Head) (s : State) : (untrip h s).usc = s.usc := by
  unfold untrip
  split <;> rfl

theorem clearFault_eq (h : Head) (s : State) :
    let a := untrip h s
    let b :=
      if (s.head h).faulted.isSome then
        wireEndReport h false false (a.modHead h fun c => { c with missed := min 65535 (c.missed + 1) })
      else if (s.head h).nsb.isNone ∧ ((s.claimOf h).bind s.unit?).any (·.skipPending) then skipNow h false a else a
    clearFault h s =
      (clearAlarm .headFault (.head h) (b.modHead h fun c => { c with faulted := none, cause := none })).modHead h fun c =>
        { c with hold := { c.hold with faultCleared := true }, state := .hold } := by
  intro a b
  have claim : a.claimOf h = s.claimOf h := claimOf_congr (untrip_usc h s) h
  have unit : a.unit? = s.unit? := by
    funext u
    unfold State.unit? State.units
    rw [untrip_usc]
  simp only [b, ← claim, ← unit]
  rfl

/-- A request for one head, where the head's part is known. -/
theorem ite_served {p : Prop} [Decidable p] (x y : State) (c d : ResultCode) :
    (if p then (x, { result := c }) else (y, { result := d }) : Served) =
      (if p then x else y, { result := if p then c else d }) := by
  split <;> rfl

/-- Settles O8: each operation has an equation, `onEnable_eq` and `clearFault_eq` those of ENABLE and CLEAR_FAULT. -/
theorem headOperationsFollowTheirTables : Obligations.HeadOperationsFollowTheirTables := by
  intro s u tag
  refine ⟨serves_of_eq (exec_headOpEnable tag none s) rfl, serves_of_eq (exec_headOpDisable tag none s) rfl,
    serves_of_eq (exec_headOpPause tag none s) rfl, serves_of_eq (exec_headOpResume tag none s) rfl,
    serves_of_eq (exec_headOpClearFault tag none s) rfl, fun h => ⟨alarmHolds_iff, ?enable, ?disable, ?pause, ?resume, ?clearFault⟩⟩
  case enable =>
    intro set gated idle on
    refine serves_of_eq (exec_headOpEnable tag (some h) s) ((onEnable_eq h u).trans ?_)
    congr 1
    refine ite_congr rfl (fun _ => rfl) fun passes => ?_
    obtain ⟨a, ha⟩ := Option.ne_none_iff_exists'.mp (not_or.mp (not_or.mp passes).2).2
    have enabled : u.enabled h a = on := by
      simp only [State.enabled, drivesHead_eq ha]
      rfl
    rw [enable_eq ha, enabled]
    exact if_congr holdSet_isEmpty_iff rfl rfl
  case disable => exact serves_of_eq (exec_headOpDisable tag (some h) s) rfl
  case pause => exact serves_of_eq (exec_headOpPause tag (some h) s) (ite_served ..)
  case resume => exact serves_of_eq (exec_headOpResume tag (some h) s) (ite_served ..)
  case clearFault =>
    intro ctx a b d
    refine serves_of_eq (exec_headOpClearFault tag (some h) s) ((ite_served ..).trans ?_)
    congr 1
    exact ite_congr rfl (fun _ => clearFault_eq h u) fun _ => rfl

end Sys2Proof.Machine
end

section
/-! SUPPORT. The alarm conditions that clear, and the decisions on a wire that a head awaits (R74). -/

namespace Sys2Proof.Machine

variable {s : State}

/-! ### The clear of a condition (R142) -/

/-- An entry that a clear takes off the list is acknowledged and has no stop effect left, so a clear of any scope changes the list
and the notices alone. -/
theorem clearAlarm_eq (c : AlarmCode) (sc : AlarmScope) (s : State) :
    clearAlarm c sc s = { s with alc := (clearAlarm c sc s).alc, lif := (clearAlarm c sc s).lif } := by
  cases h : s.findAlarm c sc with
  | none => simp only [clearAlarm, h]
  | some i =>
    obtain ⟨e, he, -⟩ := findAlarm_eq_some h
    simp only [clearAlarm, h, he]
    cases acked : e.state with
    | active => simp only [alarmNotice, notify_eq]; rfl
    | activeAcked =>
      have spent : e.effective = false := by simp [AlarmEntry.effective, acked]
      simp only [removeAlarm, he, spent, alarmNotice, notify_eq]
      rfl
    | cleared => rfl

theorem clearAlarm_usc (c : AlarmCode) (sc : AlarmScope) (s : State) : (clearAlarm c sc s).usc = s.usc := by
  rw [clearAlarm_eq]

theorem takeNsb_usc (h : Head) (s : State) : (takeNsb h s).usc = s.usc := by
  unfold takeNsb clearNsb
  rw [clearAlarm_usc, clearAlarm_usc]
  rfl

/-! ### The wire that a head awaits (R74) -/

theorem findStrip_of_mem {r : StripRecord} {seq : Nat} (hr : r ∈ s.strips) (hs : r.seq = seq) :
    ∃ x, s.findStrip seq = some x := by
  refine Option.ne_none_iff_exists'.mp fun none_ => ?_
  have missing := List.findSome?_eq_none_iff.mp none_
  obtain ⟨p, hp⟩ : ∃ p, s.strip p = some r := by
    simp only [State.strips, List.mem_append, Option.mem_toList] at hr
    rcases hr with (hr | hr) | hr
    exacts [⟨.preheat, hr⟩, ⟨.bond, hr⟩, ⟨.post, hr⟩]
  have := missing p (by cases p <;> simp)
  simp [hp, hs] at this

/-- A head's pending decision names this wire. -/
def HeadCtx.awaits (c : HeadCtx) (w : WireRef) : Prop := ∃ d, c.nsb = some d ∧ d.wire = w

theorem nsb_any_iff {c : HeadCtx} {w : WireRef} : (c.nsb.any fun d => decide (d.wire = w)) = true ↔ c.awaits w := by
  simp [HeadCtx.awaits, Option.any_eq_true]

theorem nsbHead_eq_none {w : WireRef} (no : ∀ h, ¬(s.head h).awaits w) : s.nsbHead w = none :=
  List.find?_eq_none.mpr fun h _ => no h ∘ nsb_any_iff.mp

theorem nsbHead_eq_some {w : WireRef} {h : Head} (this : (s.head h).awaits w) (only : ¬(s.head h.other).awaits w) :
    s.nsbHead w = some h := by
  have yes := nsb_any_iff.mpr this
  have no := Bool.eq_false_of_not_eq_true (only ∘ nsb_any_iff.mp)
  unfold State.nsbHead
  cases h with
  | a => rw [List.find?_cons, yes]
  | b =>
    change ((s.head .a).nsb.any fun d => decide (d.wire = w)) = false at no
    rw [List.find?_cons, no, List.find?_cons, yes]

theorem rebondNsb_eq (h : Head) (s : State) :
    rebondNsb h s =
      if ((takeNsb h s).head h).state = .hold ∧ ((takeNsb h s).head h).hold = {} then leaveHold h (takeNsb h s)
      else takeNsb h s :=
  if_congr (and_congr_right fun _ => holdSet_isEmpty_iff) rfl rfl

theorem waiveNsb_eq {w : WireRef} {x : UnitRecord} (h : Head) (hx : s.unit? w.unit = some x) :
    waiveNsb h w s =
      reportMissed h (decide ((s.head h).state = .hold))
        { takeNsb h s with
          usc := { (takeNsb h s).usc with units := some (s.units.set w.unit (x.recordWaiver w.wire)) } } := by
  have same : (takeNsb h s).units = s.units := by rw [State.units, takeNsb_usc]; rfl
  have unit : (takeNsb h s).unit? w.unit = some x := by rw [State.unit?, same]; exact hx
  rw [waiveNsb, waive, modUnit_eq unit, State.putUnit, same]
  rfl

/-- Settles O49: the decision goes to the head that `nsbHead` finds, and `takeNsb` leaves the unit records alone. -/
theorem nsbDecisionsEndTheHold : Obligations.NsbDecisionsEndTheHold := by
  intro s u tag seq unit wire w awaits took missed
  have resume {x : State} {c : ResultCode} (hx : onNsbResume w u = (x, { result := c })) :=
    serves_of_eq (exec_stripOpNsbResume tag seq unit wire s) hx
  have waive {x : State} {c : ResultCode} (hx : onWaiveWire w u = (x, { result := c })) :=
    serves_of_eq (exec_stripOpWaiveWire tag seq unit wire s) hx
  have rebond {x : State} {c : ResultCode} (hx : onRebondWire w u = (x, { result := c })) :=
    serves_of_eq (exec_stripOpRebondWire tag seq unit wire s) hx
  refine ⟨fun _ _ => mem_insertMark, fun noStrip => ?missing, fun ⟨r, hr, hs⟩ nobody => ?other, fun ⟨r, hr, hs⟩ h this only => ?awaited⟩
  case missing =>
    have missing : u.findStrip w.seq = none := findStrip_eq_none noStrip
    exact ⟨resume (by simp only [onNsbResume, missing]; rfl), waive (by simp only [onWaiveWire, missing]; rfl),
      rebond (by simp only [onRebondWire, missing]; rfl)⟩
  case other =>
    obtain ⟨_, found⟩ : ∃ x, u.findStrip w.seq = some x := findStrip_of_mem hr hs
    exact resume (by simp only [onNsbResume, found, nsbHead_eq_none nobody]; rfl)
  case awaited =>
    obtain ⟨_, found⟩ : ∃ x, u.findStrip w.seq = some x := findStrip_of_mem hr hs
    have head : u.nsbHead w = some h := nsbHead_eq_some this only
    refine ⟨resume (by simp only [onNsbResume, found, head]; rfl), fun x hx => waive ?_, rebond ?_⟩
    · simp only [onWaiveWire, found, head, waiveNsb_eq (w := w) h hx]
      rfl
    · simp only [onRebondWire, found, head, rebondNsb_eq]
      rfl

end Sys2Proof.Machine
end

section
/-! SUPPORT. The wire cycle: bonds voted and moved on (R68 to R73, R84, R99, R100), and the ends of a wire and the faults (R71, R73,
R75, R76). -/

namespace Sys2Proof.Machine

variable {s : State}

/-! ### The event of a head node (R165) -/

/-- A frame of an own kind from the node of a head that is not OFF comes to the head, also while the cell is STOPPED. -/
theorem fieldArrive_of_head {f : LinkFrame} {h : Head} (role : s.roleAt f.src.toNat = .head h) (on : (s.head h).state ≠ .off)
    (own : isOwnKind f.kind = true) : fieldArrive f s = deliverHead h f s := by
  have pass : s.kindAction f.kind ≠ .drop := by simp [State.kindAction, isOwnKind_lt own]
  have consumed : s.consumes (.head h) f = true := by simp [State.consumes, State.owned, State.onlyExtended, own, on]
  rw [fieldArrive, if_neg pass, role, if_pos consumed]
  rfl

theorem headEvent_ends {src : Byte} {h : Head} {x : State} (e : HeadEvt) (hi : s.ccs.inReset = false)
    (role : s.roleAt src.toNat = .head h) (on : (s.head h).state ≠ .off) (hx : onHeadEvt h e s = x) :
    Ends (act (fieldArrive (eventFrame src 0x11 [] (.headEvt e))) s) x :=
  act_ends_of_eq hi ((fieldArrive_of_head role on rfl).trans hx)

/-! ### The start of a bond (R68, R84) -/

theorem recipeIndex_eq (p w : Nat) (phase : Phase) (s : State) :
    s.recipeIndex p w phase = if phase = .stitch then (s.wireEntry p w).stitchRecipe else (s.wireEntry p w).ballRecipe := by
  cases phase <;> rfl

theorem startBond_eq {h : Head} {r : StripRecord} {w : WireRef} (hr : s.trc.bond = some r) (hw : (s.head h).wire = some w) :
    let e := s.wireEntry r.program w.wire
    let k := if (s.head h).phase = .stitch then e.stitchRecipe else e.ballRecipe
    startBond h s =
      sendDrive h (s.recipe k).dlow false
        ((s.setChan h ((s.chan h).start k (s.recipe k))).modHead h fun c => { c with awaited := none, state := .bonding }) := by
  intro e k
  have index : s.recipeIndex s.bondProgram (((s.head h).wire.map (·.wire)).getD 0) (s.head h).phase = k := by
    rw [recipeIndex_eq, bondProgram_eq hr, hw]
    rfl
  rw [startBond, index]
  rfl

theorem onTouchdown_of_not {h : Head} {n : Byte} (no : (s.head h).state ≠ .moving ∨ n ≠ (s.head h).cmdNo) :
    onTouchdown h n s = s := if_neg (not_and_or.mpr no)

theorem onTouchdown_of_moving {h : Head} {n : Byte} (moving : (s.head h).state = .moving) (number : n = (s.head h).cmdNo) :
    onTouchdown h n s = startBond h s := if_pos ⟨moving, number⟩

/-! ### The vote (R99, R100) -/

theorem running_iff {c : Channel} : c.running = true ↔ c.state = .startup ∨ c.state = .regulate := by simp [Channel.running]

theorem voteOn_eq (c : Option Verdict) (e d : Verdict) :
    let against := c.toList.count .nonStick + [e, d].count .nonStick
    voteOn c e d =
      { continuity := c, energy := e, deformation := d, count := c.toList.length + 2
        result := if 2 ≤ against then .nonStick else .stick, dissent := decide (against = 1) } := by
  simp only [voteOn, List.count_append, List.length_append]
  rfl

theorem onBondEnd_of_not {h : Head} {n : Byte} (reading : Continuity) (deformation : Nat)
    (no : (s.head h).state ≠ .bonding ∨ n ≠ (s.head h).cmdNo ∨ ((s.chan h).state = .startup ∨ (s.chan h).state = .regulate)) :
    onBondEnd h n reading deformation s = s := by
  refine if_neg fun ⟨bonding, number, ended⟩ => ?_
  rw [Bool.not_eq_true', ← Bool.not_eq_true, running_iff] at ended
  exact no.elim (· bonding) (·.elim (· number) ended)

theorem onBondEnd_of_bonding {h : Head} {n : Byte} {b : BondSummary} (reading : Continuity) (deformation : Nat)
    (bonding : (s.head h).state = .bonding) (number : n = (s.head h).cmdNo)
    (ended : ¬((s.chan h).state = .startup ∨ (s.chan h).state = .regulate)) (hb : (s.chan h).lastSummary = some b) :
    onBondEnd h n reading deformation s = bondVoted h b reading deformation s := by
  have stopped : (!(s.chan h).running) = true := by rwa [Bool.not_eq_true', ← Bool.not_eq_true, running_iff]
  rw [onBondEnd, if_pos ⟨bonding, number, stopped⟩, hb]

/-! ### The command that a vote leads to (R70, R72, R73) -/

/-- A head is sent a command with its next number as its context becomes `d`. -/
def State.ordered (s : State) (h : Head) (cmd : HeadCmd) (d : HeadCtx) : State :=
  sendOwn (.head h) (.headCmd cmd ((s.head h).cmdNo + 1)) (s.modHead h fun c => { d with cmdNo := c.cmdNo + 1 })

theorem awaitEvent_ordered {f : HeadCtx → HeadCtx} (h : Head) (cmd : HeadCmd) (e : AwaitedEvent) (ms : Nat)
    (same : (f (s.head h)).cmdNo = (s.head h).cmdNo) :
    awaitEvent h e ms (commandHead h cmd (s.modHead h f)) =
      s.ordered h cmd
        { f (s.head h) with awaited := some { event := e, deadline := s.ccs.timebase + BitVec.ofNat 32 ms } } := by
  rw [awaitEvent_commandHead, modHead_modHead, State.head_modHead_self, same]
  refine congrArg _ (modHead_congr ?_)
  dsimp only
  rw [same]
  rfl

/-- A vote of STICK keeps the ball bond's entry and goes on to the stitch bond, or the stitch bond's and forms the loop. -/
theorem onStick_eq (h : Head) (entry : VoteEntry) (s : State) :
    let c := s.head h
    let kept := { s with vcu := { s.vcu with votes := s.vcu.votes.set h ((s.vcu.votes.get h).enter c.phase entry) } }
    onStick h entry s =
      if c.phase = .stitch then
        kept.ordered h .finish
          { c with
            state := .forming, abandoning := false
            awaited := some { event := .wireDone, deadline := s.ccs.timebase + 100 } }
      else
        kept.ordered h .continue_
          { c with
            phase := .stitch, retries := 0, state := .moving
            awaited := some { event := .touchdown, deadline := s.ccs.timebase + 200 } } :=
  if_congr Iff.rfl (awaitEvent_ordered h _ _ _ rfl) (awaitEvent_ordered h _ _ _ rfl)

/-- A vote of NON_STICK retries the bond while the recipe allows it, and else abandons the wire. -/
theorem onNonStick_eq {r : StripRecord} (h : Head) (retryCount : Nat) (hr : s.trc.bond = some r) :
    let c := s.head h
    let counted :=
      { s with trc := { s.trc with bond := some { r with wiresRetried := satAdd 65535 r.wiresRetried 1 } } }
    onNonStick h retryCount s =
      if c.retries < retryCount then
        counted.ordered h (.retry c.phase)
          { c with
            retries := c.retries + 1, retried := true, retriesSent := satAdd 65535 c.retriesSent 1, state := .moving
            awaited := some { event := .touchdown, deadline := s.ccs.timebase + 200 } }
      else
        s.ordered h .abandon
          { c with
            state := .forming, abandoning := true
            awaited := some { event := .wireDone, deadline := s.ccs.timebase + 100 } } := by
  intro c counted
  refine if_congr Iff.rfl ?_ (awaitEvent_ordered h _ _ _ rfl)
  have apart (f : HeadCtx → HeadCtx) (x : Option StripRecord) :
      (s.modHead h f).setStrip .bond x = (s.setStrip .bond x).modHead h f := rfl
  rw [modStrip_eq (p := .bond) (by exact hr), apart]
  exact awaitEvent_ordered (s := counted) h _ _ _ rfl

/-- A command does not say what the head's context was, its number apart. -/
theorem ordered_modHead {h : Head} {f : HeadCtx → HeadCtx} (cmd : HeadCmd) (d : HeadCtx)
    (same : (f (s.head h)).cmdNo = (s.head h).cmdNo) : (s.modHead h f).ordered h cmd d = s.ordered h cmd d := by
  rw [State.ordered, modHead_modHead, State.head_modHead_self, same]
  refine congrArg _ (modHead_congr ?_)
  rw [same]

/-- The head's last vote is `v`. -/
def State.recordVote (s : State) (h : Head) (v : LastVote) : State :=
  { s with vcu := { s.vcu with last := s.vcu.last.set h (some v) } }

/-- What a vote leads to (R70, R72, R73). -/
theorem bondVoted_eq {h : Head} {r : StripRecord} (b : BondSummary) (reading : Continuity) (deformation : Nat)
    (hr : s.trc.bond = some r) :
    let c := s.head h
    let v := s.voteFor h b reading deformation
    let voted := s.recordVote h v
    let entry : VoteEntry := { summary := b, dissent := v.dissent }
    let kept := { voted with vcu := { voted.vcu with votes := voted.vcu.votes.set h ((voted.vcu.votes.get h).enter c.phase entry) } }
    let counted :=
      { voted with trc := { voted.trc with bond := some { r with wiresRetried := satAdd 65535 r.wiresRetried 1 } } }
    let within (e : AwaitedEvent) (ms : BitVec 32) : Option Awaited := some { event := e, deadline := s.ccs.timebase + ms }
    bondVoted h b reading deformation s =
      match v.result with
      | .stick =>
        if c.phase = .stitch then
          kept.ordered h .finish { c with state := .forming, abandoning := false, awaited := within .wireDone 100 }
        else
          kept.ordered h .continue_ { c with phase := .stitch, retries := 0, state := .moving, awaited := within .touchdown 200 }
      | .nonStick =>
        if c.retries < (s.recipe b.recipe).retryCount then
          counted.ordered h (.retry c.phase)
            { c with
              retries := c.retries + 1, retried := true, retriesSent := satAdd 65535 c.retriesSent 1, state := .moving
              awaited := within .touchdown 200 }
        else voted.ordered h .abandon { c with state := .forming, abandoning := true, awaited := within .wireDone 100 } := by
  intro c v voted entry kept counted within
  let t := voted.modHead h fun c => { c with awaited := none }
  have head : t.head h = { c with awaited := none } := State.head_modHead_self ..
  have order (u : State) (cmd : HeadCmd) (d : HeadCtx) :
      (u.modHead h fun c => { c with awaited := none }).ordered h cmd d = u.ordered h cmd d := ordered_modHead cmd d rfl
  have unfolds : bondVoted h b reading deformation s =
      match v.result with
      | .stick => onStick h entry t
      | .nonStick => onNonStick h (s.recipe b.recipe).retryCount t := rfl
  rw [unfolds]
  cases v.result with
  | stick =>
    refine (onStick_eq h entry t).trans ?_
    rw [head]
    exact if_congr Iff.rfl (order kept _ _) (order kept _ _)
  | nonStick =>
    refine (onNonStick_eq h _ (s := t) hr).trans ?_
    rw [head]
    exact if_congr Iff.rfl (order counted _ _) (order voted _ _)

theorem voteFor_eq {h : Head} {r : StripRecord} {w : WireRef} (b : BondSummary) (reading : Continuity) (deformation : Nat)
    (hr : s.trc.bond = some r) (hw : (s.head h).wire = some w) :
    s.voteFor h b reading deformation =
      voteOn (continuityVerdict (s.wireEntry r.program w.wire).noContinuity reading) (energyVerdict b)
        (deformationVerdict (s.recipe b.recipe) deformation) := by
  rw [State.voteFor, bondProgram_eq hr, hw]
  rfl

/-- Settles O51: the bond starts by `startBond_eq`, and the vote's three outcomes are those of `bondVoted_eq`. -/
theorem bondsAreVotedAndMovedOn : Obligations.BondsAreVotedAndMovedOn := by
  intro s src n h w r hi role on c ch running within
  have touchdown {x : State} (hx : onTouchdown h n s = x) : Ends (exec (.touchdown src n) s) x :=
    headEvent_ends (.touchdown n) hi role on hx
  have bondEnd {reading : Continuity} {d : Nat} {x : State} (hx : onBondEnd h n reading d s = x) :
      Ends (exec (.bondEnd src n reading d) s) x := headEvent_ends (.bondEnd n reading d) hi role on hx
  refine ⟨fun no => touchdown (onTouchdown_of_not no), fun reading d no => bondEnd (onBondEnd_of_not reading d no),
    fun hr hw phase => ?_⟩
  intro e k
  refine ⟨fun moving number => touchdown ((onTouchdown_of_moving moving number).trans (startBond_eq hr hw)), ?_⟩
  intro bonding number ended b hb reading deformation continuity energy squeeze against vote voted order entry votes keep
  refine bondEnd ((onBondEnd_of_bonding reading deformation bonding number ended hb).trans ?_)
  have hv : s.voteFor h b reading deformation = vote :=
    (voteFor_eq b reading deformation hr hw).trans (voteOn_eq continuity energy squeeze)
  refine (bondVoted_eq b reading deformation hr).trans ?_
  rw [hv]
  by_cases sticks : against < 2
  · have result : vote.result = .stick := if_neg (Nat.not_le.mpr sticks)
    rw [result, if_pos sticks]
    dsimp only
    rcases phase with ball | stitch
    · have other : (s.head h).phase ≠ .stitch := by simp [show (s.head h).phase = .ball from ball]
      rw [if_neg other, if_pos ball, show (s.head h).phase = .ball from ball]
      rfl
    · have other : c.phase ≠ .ball := by simp [stitch]
      rw [if_pos (show (s.head h).phase = .stitch from stitch), if_neg other, show (s.head h).phase = .stitch from stitch]
      rfl
  · have result : vote.result = .nonStick := if_pos (Nat.not_lt.mp sticks)
    rw [result, if_neg sticks]
    rfl

/-! ### Faults (R75) -/

theorem sendDrive_eq (h : Head) (d : Nat) (e : Bool) (s : State) :
    sendDrive h d e s = { s with lif := (sendDrive h d e s).lif } := by
  unfold sendDrive
  split <;> rfl

theorem headWorking_iff {st : HeadState} : st.working = true ↔ st = .moving ∨ st = .bonding ∨ st = .forming := by
  cases st <;> simp [HeadState.working]

theorem toFault_eq (cause : FaultCause) (c : HeadCtx) :
    c.toFault cause =
      { c with
        awaited := none, wire := none, phase := .none, cause := some cause, state := .fault
        faulted := if c.state = .moving ∨ c.state = .bonding ∨ c.state = .forming then c.wire else none } := by
  simp only [HeadCtx.toFault, headWorking_iff]

/-- The bond that runs at a fault is ended with drive 0 (R75 step 1). -/
def State.bondEnded (s : State) (h : Head) : State :=
  if (s.chan h).state = .startup ∨ (s.chan h).state = .regulate then stopBond h .idle s else s

theorem stopBond_eq (h : Head) (st : ChannelState) (s : State) :
    stopBond h st s = { s with channels := s.channels.set h ((s.chan h).stop st), lif := (stopBond h st s).lif } :=
  sendDrive_eq h 0 false (s.setChan h ((s.chan h).stop st))

theorem bondEnded_eq (h : Head) (s : State) :
    s.bondEnded h = { s with channels := (s.bondEnded h).channels, lif := (s.bondEnded h).lif } := by
  unfold State.bondEnded
  split
  · rw [stopBond_eq]
  · rfl

/-- A fault ends the bond, sends ABORT, keeps the wire in progress as the faulted wire and raises HEAD_FAULT. -/
theorem headFault_eq (h : Head) (cause : FaultCause) (s : State) :
    let c := s.head h
    let aborted := sendOwn (.head h) (.headCmd .abort c.cmdNo) (s.bondEnded h)
    headFault h cause s =
      raiseAlarm .headFault (.head h) (faultDetail cause)
        { aborted.modHead h fun _ => c.toFault cause with vcu := { s.vcu with votes := s.vcu.votes.set h {} } } := by
  intro c aborted
  have ended : (if (s.chan h).running then stopBond h .idle s else s) = s.bondEnded h := if_congr running_iff rfl rfl
  have head : (s.bondEnded h).head h = c := by rw [bondEnded_eq]; rfl
  have same : aborted.head h = c := by
    simp only [aborted, sendOwn_eq]
    exact head
  have vcu : (aborted.modHead h (·.toFault cause)).vcu = s.vcu := by
    simp only [aborted, sendOwn_eq]
    rw [bondEnded_eq]
    rfl
  unfold headFault
  dsimp only
  rw [ended, sendHeadCmd, head, clearVotes, vcu, modHead_congr (g := fun _ => c.toFault cause) (congrArg _ same)]

theorem onMotionFault_eq {h : Head} (on : (s.head h).state ≠ .off) :
    onMotionFault h s =
      if (s.head h).state = .fault then raiseAlarm .headFault (.head h) 4 s else headFault h .motion s := by
  unfold onMotionFault
  cases e : (s.head h).state with
  | off => exact absurd e on
  | fault => rfl
  | idle | parked | moving | bonding | forming | hold => rfl

/-! ### The end of a wire (R71, R73) -/

theorem onWireDone_of_not {h : Head} {n : Byte} (no : (s.head h).state ≠ .forming ∨ n ≠ (s.head h).cmdNo) :
    onWireDone h n s = s := if_neg (not_and_or.mpr no)

theorem onWireDone_finished {h : Head} {n : Byte} (forming : (s.head h).state = .forming) (number : n = (s.head h).cmdNo)
    (sticks : (s.head h).abandoning = false) : onWireDone h n s = wireFinished h s := by
  rw [onWireDone, if_pos ⟨forming, number⟩, sticks]

theorem onWireDone_abandoned {h : Head} {n : Byte} {w : WireRef} (forming : (s.head h).state = .forming)
    (number : n = (s.head h).cmdNo) (abandoned : (s.head h).abandoning = true) (hw : (s.head h).wire = some w) :
    onWireDone h n s = nsbHold h w s := by
  rw [onWireDone, if_pos ⟨forming, number⟩, abandoned, hw]

theorem nsbCode_eq (p : Phase) : nsbCode p = if p = .stitch then .nsol else .nsop := by
  cases p <;> rfl

theorem awaitLimit_eq (e : AwaitedEvent) :
    awaitLimit e = match e with
      | .touchdown => 200
      | .bondEnd => 50
      | .wireDone => 100 := by
  cases e <;> rfl

theorem onDeadline_of_awaited {h : Head} {a : Awaited} (ha : (s.head h).awaited = some a) :
    onDeadline h s =
      if awaitLimit a.event ≤ (s.ccs.timebase - (a.deadline - BitVec.ofNat 32 (awaitLimit a.event))).toNat then
        headFault h .timeout s
      else s := by
  rw [onDeadline, ha]
  exact if_congr decide_eq_true_iff rfl rfl

/-- Settles O52: a fault is `headFault_eq` whatever its cause, and each event of a head has an equation. -/
theorem wiresEndDoneHeldOrFaulted : Obligations.WiresEndDoneHeldOrFaulted := by
  intro s h c ch fault
  have faults (cause : FaultCause) : headFault h cause s = fault cause (faultDetail cause) := by
    rw [headFault_eq, toFault_eq]
    rfl
  refine ⟨faults .trip, faults .sampleLoss, faults .timeout, faults .motion, fun hi => ⟨fun src n role on => ?event, ?deadline⟩⟩
  case event =>
    have wireDone {x : State} (hx : onWireDone h n s = x) : Ends (exec (.wireDone src n) s) x :=
      headEvent_ends (.wireDone n) hi role on hx
    refine ⟨fun no => wireDone (onWireDone_of_not no), fun forming number => ?_, headEvent_ends (.aborted n) hi role on rfl,
      headEvent_ends .motionFault hi role on ((onMotionFault_eq on).trans (ite_congr rfl (fun _ => rfl) fun _ => faults .motion))⟩
    refine ⟨fun sticks => wireDone (onWireDone_finished forming number sticks), fun w abandoned hw => wireDone ?_⟩
    rw [onWireDone_abandoned forming number abandoned hw, nsbHold, nsbCode_eq]
    rfl
  case deadline =>
    refine act_ends_of_eq hi ?_
    cases ha : c.awaited with
    | none => simp only [onDeadline, show (s.head h).awaited = none from ha]
    | some a =>
      rw [onDeadline_of_awaited ha, awaitLimit_eq, faults]
      rfl

end Sys2Proof.Machine
end

section
/-! SUPPORT. The counts of the heads (R61) are kept by all work on claims, units, the scan and the alarms. -/

namespace Sys2Proof.Machine

variable {s : State}

/-- The counts of a head: its wires bonded, its wires missed and its retries sent. -/
def HeadCtx.counts (c : HeadCtx) : Nat × Nat × Nat := (c.bonded, c.missed, c.retriesSent)

def State.counts (s : State) (h : Head) : Nat × Nat × Nat := (s.head h).counts

/-! ### Changes of the state -/

theorem counts_congr {t : State} (heads : t.heads = s.heads) : t.counts = s.counts := by
  funext h
  rw [State.counts, State.head, heads]
  rfl

/-- Any change of a head that keeps its counts. -/
theorem modHead_counts {f : HeadCtx → HeadCtx} (h : Head) (s : State) (hf : ∀ c, (f c).counts = c.counts) :
    (s.modHead h f).counts = s.counts := by
  funext k
  obtain rfl | rfl := Head.eq_or_eq_other h k
  · exact (congrArg _ (State.head_modHead_self ..)).trans (hf _)
  · exact congrArg _ (State.head_modHead_other ..)

@[simp] theorem modUnit_counts (u : Nat) (f : UnitRecord → UnitRecord) (s : State) : (s.modUnit u f).counts = s.counts := rfl

@[simp] theorem modBond_counts (f : StripRecord → StripRecord) (s : State) : (s.modStrip .bond f).counts = s.counts := rfl

@[simp] theorem modTerm_counts (t : Term) (f : TermState → TermState) (s : State) : (s.modTerm t f).counts = s.counts := rfl

@[simp] theorem setAlarms_counts (l : List AlarmEntry) (s : State) : (s.setAlarms l).counts = s.counts := rfl

@[simp] theorem notify_counts (n : Notice) (s : State) : (notify n s).counts = s.counts := by
  rw [notify_eq]; rfl

@[simp] theorem sendOwn_counts (r : Role) (b : OwnBody) (s : State) : (sendOwn r b s).counts = s.counts := by
  rw [sendOwn_eq]; rfl

/-! ### Heads (R49, R60, R62, R63, R67) -/

@[simp] theorem setHeadState_counts (h : Head) (st : HeadState) (s : State) : (setHeadState h st s).counts = s.counts :=
  modHead_counts h s fun _ => rfl

@[simp] theorem clearVotes_counts (h : Head) (s : State) : (clearVotes h s).counts = s.counts := rfl

@[simp] theorem holdForProgram_counts (h : Head) (s : State) : (holdForProgram h s).counts = s.counts :=
  modHead_counts h s fun _ => rfl

@[simp] theorem addReason_counts (r : HoldReason) (h : Head) (s : State) : (addReason r h s).counts = s.counts := by
  rw [addReason_eq]
  split
  · rfl
  · exact modHead_counts h s fun _ => rfl

@[simp] theorem startWire_counts (h : Head) (u : Nat) (s : State) : (startWire h u s).counts = s.counts := by
  cases hr : s.trc.bond with
  | none => simp only [startWire, hr]
  | some r =>
    cases hx : s.unit? u with
    | none => simp only [startWire, hr, hx]
    | some x =>
      cases held : s.held r.program with
      | true => rw [startWire_of_held hr hx held, holdForProgram_counts]
      | false =>
        rw [startWire_of_running hr hx held, sendOwn_counts]
        exact modHead_counts h _ fun _ => rfl

@[simp] theorem askUnit_counts (h : Head) (s : State) : (askUnit h s).counts = s.counts := by
  unfold askUnit claimUnit
  repeat' split
  all_goals simp

@[simp] theorem leaveHold_counts (h : Head) (s : State) : (leaveHold h s).counts = s.counts := by
  unfold leaveHold enterIdle
  split <;> simp

@[simp] theorem removeReason_counts (r : HoldReason) (h : Head) (s : State) : (removeReason r h s).counts = s.counts := by
  have dropped : (s.modHead h fun c => { c with hold := c.hold.put r false }).counts = s.counts := modHead_counts h s fun _ => rfl
  rw [removeReason_eq]
  repeat' split
  · rfl
  · exact dropped
  · exact (leaveHold_counts ..).trans dropped

@[simp] theorem atBoundary_counts (h : Head) (s : State) : (atBoundary h s).counts = s.counts := by
  unfold atBoundary
  split <;> simp

@[simp] theorem reaskParked_counts (h : Head) (s : State) : (reaskParked h s).counts = s.counts := by
  unfold reaskParked
  split <;> simp

@[simp] theorem unpark_counts (h : Head) (s : State) : (unpark h s).counts = s.counts := by
  unfold unpark
  split <;> simp

theorem eachHead_counts {f : Head → State → State} (hf : ∀ h s, (f h s).counts = s.counts) (s : State) :
    (eachHead f s).counts = s.counts := by
  unfold eachHead
  dsimp only
  split
  · rw [hf, hf]
  · split <;> exact (hf _ _).trans (hf _ _)

/-! ### Alarms (R139 to R142, R146) -/

@[simp] theorem effectEnded_counts (sc : AlarmScope) (s : State) : (effectEnded sc s).counts = s.counts := by
  have drop (h : Head) (s : State) : (dropAlarmReason h s).counts = s.counts := by unfold dropAlarmReason; split <;> simp
  cases sc with
  | head h => exact drop h s
  | cell => exact eachHead_counts drop s
  | feeder | track | program => rfl

@[simp] theorem becomeEffective_counts (c : AlarmCode) (sc : AlarmScope) (s : State) :
    (becomeEffective c sc s).counts = s.counts := by
  unfold becomeEffective
  repeat' split
  all_goals simp

@[simp] theorem forceAlarmTiles_counts (k : Nat) (s : State) : (eachTerm (forceAlarmTiles k) s).counts = s.counts := by
  have h (t : Term) (s : State) : (forceAlarmTiles k t s).counts = s.counts := by unfold forceAlarmTiles; split <;> rfl
  simp [eachTerm, h]

@[simp] theorem removeAlarm_counts (i : Nat) (s : State) : (removeAlarm i s).counts = s.counts := by
  unfold removeAlarm alarmNotice
  split
  · dsimp only
    split <;> simp
  · rfl

@[simp] theorem appendAlarm_counts (c : AlarmCode) (sc : AlarmScope) (d : Nat) (s : State) :
    (appendAlarm c sc d s).counts = s.counts := by
  simp [appendAlarm, alarmNotice]

@[simp] theorem repeatAlarm_counts (i : Nat) (e : AlarmEntry) (d : Nat) (s : State) : (repeatAlarm i e d s).counts = s.counts := by
  simp only [repeatAlarm, alarmNotice]
  split <;> simp

@[simp] theorem raiseAlarm_counts (c : AlarmCode) (sc : AlarmScope) (d : Nat) (s : State) :
    (raiseAlarm c sc d s).counts = s.counts := by
  unfold raiseAlarm
  repeat' split
  · simp
  · rfl
  · simp
  · simp
  · exact notify_counts ..

@[simp] theorem clearAlarm_counts (c : AlarmCode) (sc : AlarmScope) (s : State) : (clearAlarm c sc s).counts = s.counts :=
  counts_congr (by rw [clearAlarm_eq])

/-! ### The scan and the claims (R52 to R54, R58, R59, R103 to R109) -/

theorem walkFrom_counts (fuel u w : Nat) (s : State) : (walkFrom fuel u w s).counts = s.counts := by
  induction fuel generalizing u w s with
  | zero => rfl
  | succ fuel ih =>
    rw [walkFrom]
    split
    · unfold releaseStrip
      split
      · exact notify_counts ..
      · rfl
    · split
      · exact (notify_counts ..).trans (raiseAlarm_counts ..)
      · exact ih ..

theorem evaluateChecking_counts (s : State) : (evaluateChecking s).counts = s.counts := by
  unfold evaluateChecking walk
  split
  · split
    · simp [walkFrom_counts]
    · rfl
  · rfl

theorem closeClaim_counts (h : Head) (own : Bool) (s : State) : (closeClaim h own s).counts = s.counts := by
  have counted : State.counts { s with free := s.free + 1 } = s.counts := rfl
  unfold closeClaim
  dsimp only
  repeat' split
  all_goals simp [evaluateChecking_counts, counted]

theorem skipClaimed_counts (u : Nat) (s : State) : (skipClaimed u s).counts = s.counts := rfl

theorem wireOutcome_counts (h : Head) (u w : Nat) (done : Bool) (s : State) : (wireOutcome h u w done s).counts = s.counts := by
  unfold wireOutcome
  split <;> rfl

theorem endRebond_counts (h : Head) (u w : Nat) (done own : Bool) (s : State) : (endRebond h u w done own s).counts = s.counts := by
  let outcome := finishUnit u (s.program s.bondProgram).wireCount (wireOutcome h u w done s)
  let ended := { outcome with vcu := { outcome.vcu with pendingWire := none, rebondHead := none } }
  have kept : ended.counts = s.counts := wireOutcome_counts h u w done s
  have asked : (reaskParked h.other (if own then atBoundary h ended else ended)).counts = s.counts := by
    split <;> simp [kept]
  unfold endRebond walk
  dsimp only
  split
  · exact (walkFrom_counts ..).trans asked
  · exact asked

theorem wireEndReport_counts (h : Head) (done own : Bool) (s : State) : (wireEndReport h done own s).counts = s.counts := by
  unfold wireEndReport
  dsimp only
  repeat' split
  all_goals simp [endRebond_counts, closeClaim_counts, skipClaimed_counts, finishUnit, wireOutcome_counts]

theorem giveUpClaim_counts (h : Head) (s : State) : (giveUpClaim h s).counts = s.counts := by
  unfold giveUpClaim
  repeat' split
  all_goals simp [endRebond_counts, closeClaim_counts, skipClaimed_counts, returnUnit]

/-! ### What a clear leaves in the list (R142) -/

theorem findAlarm_eq_none {c : AlarmCode} {sc : AlarmScope} (h : s.unlists c sc) : s.findAlarm c sc = none :=
  List.findIdx?_eq_none_iff.mpr fun e he => by simpa using h e he

theorem clearAlarm_of_unlists {c : AlarmCode} {sc : AlarmScope} (h : s.unlists c sc) : clearAlarm c sc s = s := by
  rw [clearAlarm, findAlarm_eq_none h]

theorem clearAlarm_list {c : AlarmCode} {sc : AlarmScope} {i : Nat} {e : AlarmEntry} (hi : s.findAlarm c sc = some i)
    (he : s.alc.list[i]? = some e) :
    (clearAlarm c sc s).alc.list =
      match e.state with
      | .active => s.alc.list.set i { e with state := .cleared }
      | .activeAcked => s.alc.list.eraseIdx i
      | .cleared => s.alc.list := by
  simp only [clearAlarm, hi, he]
  cases e.state with
  | active => simp only [alarmNotice, notify_alc]; rfl
  | activeAcked => simp only [removeAlarm_alc]
  | cleared => rfl

/-- After a clear the entry at its position is CLEARED or gone, and the others are as they were. -/
theorem mem_clearAlarm {c : AlarmCode} {sc : AlarmScope} {i : Nat} {x : AlarmEntry} (hi : s.findAlarm c sc = some i)
    (hx : x ∈ (clearAlarm c sc s).alc.list) : x.state = .cleared ∨ ∃ j ≠ i, s.alc.list[j]? = some x := by
  obtain ⟨e, he, -⟩ := findAlarm_eq_some hi
  rw [clearAlarm_list hi he] at hx
  cases state : e.state with
  | activeAcked =>
    rw [state] at hx
    exact .inr (List.mem_eraseIdx_iff_getElem?.mp hx)
  | active =>
    rw [state] at hx
    obtain ⟨j, hj⟩ := List.mem_iff_getElem?.mp hx
    by_cases same : j = i
    · obtain ⟨inside, -⟩ := List.getElem?_eq_some_iff.mp he
      rw [same, List.getElem?_set_self inside] at hj
      exact .inl (Option.some.inj hj ▸ rfl)
    · exact .inr ⟨j, same, by rwa [List.getElem?_set_ne (Ne.symm same)] at hj⟩
  | cleared =>
    rw [state] at hx
    obtain ⟨j, hj⟩ := List.mem_iff_getElem?.mp hx
    by_cases same : j = i
    · rw [same, he] at hj
      exact .inl (Option.some.inj hj ▸ state)
    · exact .inr ⟨j, same, hj⟩

/-- Each listed entry with this code and scope is CLEARED. -/
def State.clearedOf (s : State) (c : AlarmCode) (sc : AlarmScope) : Prop :=
  ∀ e ∈ s.alc.list, e.code = c → e.scope = sc → e.state = .cleared

/-- A clear of any entry leaves a condition that is clear as it is. -/
theorem clearedOf_clearAlarm {c d : AlarmCode} {sc ds : AlarmScope} (h : s.clearedOf c sc) :
    (clearAlarm d ds s).clearedOf c sc := by
  intro e he code scope
  cases hi : s.findAlarm d ds with
  | none => exact h e (by simpa only [clearAlarm, hi] using he) code scope
  | some i =>
    exact (mem_clearAlarm hi he).elim id fun ⟨_, _, listed⟩ => h e (List.mem_of_getElem? listed) code scope

/-- No two positions list the same code and scope (Law 9). -/
theorem alarm_position_unique {i j : Nat} {e f : AlarmEntry} (law : s.alarmsLawful) (he : s.alc.list[i]? = some e)
    (hf : s.alc.list[j]? = some f) (code : e.code = f.code) (scope : e.scope = f.scope) : i = j := by
  obtain ⟨-, apart, -⟩ := law
  obtain ⟨hi, rfl⟩ := List.getElem?_eq_some_iff.mp he
  obtain ⟨hj, rfl⟩ := List.getElem?_eq_some_iff.mp hf
  rw [List.pairwise_iff_getElem] at apart
  rcases Nat.lt_trichotomy i j with before | same | after
  · exact absurd ⟨code, scope⟩ (apart i j hi hj before)
  · exact same
  · exact absurd ⟨code.symm, scope.symm⟩ (apart j i hj hi after)

/-- A clear leaves no entry of its code and scope that stands, since the list has but one (Law 9). -/
theorem clearAlarm_clears (c : AlarmCode) (sc : AlarmScope) (law : s.alarmsLawful) : (clearAlarm c sc s).clearedOf c sc := by
  intro x hx code scope
  cases hi : s.findAlarm c sc with
  | none =>
    have listed : x ∈ s.alc.list := by simpa only [clearAlarm, hi] using hx
    have other := List.findIdx?_eq_none_iff.mp hi x listed
    simp [code, scope] at other
  | some i =>
    obtain ⟨e, he, code', scope'⟩ := findAlarm_eq_some hi
    refine (mem_clearAlarm hi hx).resolve_right fun ⟨j, far, hj⟩ => far ?_
    exact alarm_position_unique law hj he (code.trans code'.symm) (scope.trans scope'.symm)

end Sys2Proof.Machine
end

section
/-! SUPPORT. A head that goes OFF (R54, R65). -/

namespace Sys2Proof.Machine

variable {s : State} {h : Head}

/-! ### A claim given back (R54, R56, R58) -/

theorem giveUpClaim_of_none (hc : s.claimOf h = none) : giveUpClaim h s = s := by
  rw [giveUpClaim, hc]

section
variable {u : Nat} {x : UnitRecord}

theorem giveUpClaim_rebond {w : Nat} (hc : s.claimOf h = some u) (hx : s.unit? u = some x) (rebond : x.rebond = some w) :
    giveUpClaim h s = wireEndReport h false false s := by
  simp only [giveUpClaim, wireEndReport, hc, hx, rebond]

theorem giveUpClaim_returned (hc : s.claimOf h = some u) (hx : s.unit? u = some x) (normal : x.rebond = none)
    (stays : x.skipPending = false) :
    giveUpClaim h s = closeClaim h false (s.putUnit u { x with state := .pending, claimant := none }) := by
  simp only [giveUpClaim, hc, hx, normal, stays, returnUnit, modUnit_eq hx]
  rfl

theorem giveUpClaim_skipped (hc : s.claimOf h = some u) (hx : s.unit? u = some x) (normal : x.rebond = none)
    (skips : x.skipPending = true) :
    giveUpClaim h s =
      closeClaim h false
        { s.putUnit u { x with state := .skipped, skipPending := false, claimant := none } with
          trc := { s.trc with bond := s.trc.bond.map fun r => { r with skip := r.skip ||| 1#64 <<< u } } } := by
  have same : { x with state := .skipped, skipPending := false, claimant := none, rebond := none } =
      { x with state := .skipped, skipPending := false, claimant := none } := by rw [normal]
  simp only [giveUpClaim, hc, hx, normal, skips, if_true, skipClaimed, modUnit_eq hx, same]
  rfl

end

/-! ### The work of a head that goes OFF (R65) -/

/-- The state after the first four steps of a head that goes OFF: its bond, its wire, its report and its vote record are ended. -/
def State.offReported (s : State) (h : Head) : State :=
  let t := stopBond h .disabled s
  let t := if (s.head h).state.working then sendHeadCmd h .abort t else t
  clearVotes h (if (s.head h).owesReport then reportMissed h false t else t)

/-- The state in which a head that goes OFF has given its claim back and its conditions are clear. -/
def State.offCleared (s : State) (h : Head) : State :=
  clearNsb h (clearAlarm .headFault (.head h) (giveUpClaim h (s.offReported h)))

theorem goOff_on (on : (s.head h).state ≠ .off) : goOff h s = (s.offCleared h).modHead h (s.head h).toOff := if_neg on

theorem owesReport_iff {c : HeadCtx} :
    c.owesReport = true ↔
      (c.state = .moving ∨ c.state = .bonding ∨ c.state = .forming) ∨ c.state = .fault ∧ c.faulted ≠ none ∨ c.nsb ≠ none := by
  simp [HeadCtx.owesReport, headWorking_iff, Option.isSome_iff_ne_none, or_assoc]

/-! ### What it keeps -/

theorem stopBond_head (st : ChannelState) (k : Head) (s : State) : (stopBond h st s).head k = s.head k := by
  rw [stopBond_eq]
  rfl

theorem reportMissed_counts (own : Bool) (s : State) :
    (reportMissed h own s).counts h = ((s.head h).bonded, satAdd 65535 (s.head h).missed 1, (s.head h).retriesSent) := by
  rw [reportMissed, wireEndReport_counts, State.counts, State.head_modHead_self]
  rfl

theorem offReported_counts (h : Head) (s : State) :
    let c := s.head h
    (s.offReported h).counts h =
      (c.bonded, if c.owesReport then satAdd 65535 c.missed 1 else c.missed, c.retriesSent) := by
  intro c
  let aborted := if c.state.working then sendHeadCmd h .abort (stopBond h .disabled s) else stopBond h .disabled s
  have head : aborted.head h = c := by
    unfold aborted
    split
    · rw [sendHeadCmd, sendOwn_eq]
      exact stopBond_head ..
    · exact stopBond_head ..
  have unfolds : s.offReported h = clearVotes h (if c.owesReport then reportMissed h false aborted else aborted) := rfl
  rw [unfolds, clearVotes_counts]
  split
  · rw [reportMissed_counts, head]
  · rw [State.counts, head]
    rfl

theorem offCleared_counts (h : Head) (s : State) : (s.offCleared h).counts = (s.offReported h).counts := by
  simp [State.offCleared, clearNsb, giveUpClaim_counts]

theorem offReported_work (h : Head) (hl : s.offLawful) : HeadWork s (s.offReported h) := by
  have stopped : HeadWork s (stopBond h .disabled s) := stopBond_work hl fun _ => rfl
  have aborted : HeadWork s (if (s.head h).state.working then sendHeadCmd h .abort (stopBond h .disabled s) else stopBond h .disabled s) :=
    .ite (fun _ => stopped.then (sendHeadCmd_work h _)) fun _ => stopped
  refine .then ?_ (clearVotes_work h)
  exact .ite (fun _ => aborted.then fun l => reportMissed_work l nofun) fun _ => aborted

theorem giveUpClaim_offReported_work (h : Head) (hl : s.offLawful) : HeadWork s (giveUpClaim h (s.offReported h)) :=
  (offReported_work h hl).then (giveUpClaim_work h)

theorem offCleared_work (h : Head) (hl : s.offLawful) : HeadWork s (s.offCleared h) :=
  ((giveUpClaim_offReported_work h hl).then (clearAlarm_work _ _)).then (clearNsb_work h)

theorem offCleared_chan (h : Head) (hl : s.offLawful) : ((s.offCleared h).chan h).state = .disabled := by
  have stopped : ((stopBond h .disabled s).chan h).state = .disabled := by
    simp [State.chan, stopBond, Channel.stop, State.setChan]
  have w : HeadWork s (stopBond h .disabled s) := stopBond_work hl fun _ => rfl
  exact (goOff_middle h (s.head h).owesReport (s.head h).state.working w.law).chans h stopped

/-- The conditions of the three codes are clear once each is cleared. -/
theorem offCleared_clears {c : AlarmCode} (hl : s.offLawful) (law : s.alarmsLawful) (hc : c = .headFault ∨ c = .nsop ∨ c = .nsol) :
    (s.offCleared h).clearedOf c (.head h) := by
  have given := giveUpClaim_offReported_work h hl
  have faultless := given.then (clearAlarm_work .headFault (.head h))
  have nsopless := faultless.then (clearAlarm_work .nsop (.head h))
  rcases hc with rfl | rfl | rfl
  · exact clearedOf_clearAlarm (clearedOf_clearAlarm (clearAlarm_clears _ _ (given.alarms law)))
  · exact clearedOf_clearAlarm (clearAlarm_clears _ _ (faultless.alarms law))
  · exact clearAlarm_clears _ _ (nsopless.alarms law)

theorem offReported_eq (h : Head) (s : State) :
    let c := s.head h
    let working : Prop := c.state = .moving ∨ c.state = .bonding ∨ c.state = .forming
    let stopped := sendDrive h 0 false (s.setChan h ((s.chan h).stop .disabled))
    let aborted := if working then sendOwn (.head h) (.headCmd .abort c.cmdNo) stopped else stopped
    s.offReported h =
      clearVotes h
        (if working ∨ c.state = .fault ∧ c.faulted ≠ none ∨ c.nsb ≠ none then reportMissed h false aborted else aborted) := by
  intro c working stopped aborted
  have abort : (if c.state.working then sendHeadCmd h .abort (stopBond h .disabled s) else stopBond h .disabled s) = aborted := by
    rw [sendHeadCmd, stopBond_head]
    exact if_congr headWorking_iff rfl rfl
  rw [← abort]
  exact congrArg (clearVotes h) (if_congr owesReport_iff rfl rfl)

theorem offCleared_of_idle {t : State} (ht : s.offReported h = t) (hc : t.claimOf h = none) (fault : t.unlists .headFault (.head h))
    (nsop : t.unlists .nsop (.head h)) (nsol : t.unlists .nsol (.head h)) : s.offCleared h = t := by
  rw [State.offCleared, ht, giveUpClaim_of_none hc, clearNsb, clearAlarm_of_unlists fault, clearAlarm_of_unlists nsop,
    clearAlarm_of_unlists nsol]

/-- Settles O12: the steps are those of `goOff_on`, the counts `offCleared_counts`, the frame `offCleared_work`. -/
theorem goingOffEndsTheHeadsWork : Obligations.GoingOffEndsTheHeadsWork := by
  intro h s
  refine ⟨fun off => if_pos off, fun on => ?_⟩
  intro t c kept chan working due stopped aborted reported v ended
  have reports : s.offReported h = v := offReported_eq h s
  have goes : t = (s.offCleared h).modHead h kept := goOff_on on
  have ends {x : State} (hx : giveUpClaim h v = x) : t = ended x := by
    rw [goes, State.offCleared, reports, hx]
    rfl
  refine ⟨fun none_ => ends (giveUpClaim_of_none none_), fun u x hc hx => ?claim, ?counts, fun hl => ?frame, ?nothing⟩
  case claim =>
    exact ⟨fun w rebond => ends (giveUpClaim_rebond hc hx rebond), fun normal stays => ends (giveUpClaim_returned hc hx normal stays),
      fun normal skips => ends (giveUpClaim_skipped hc hx normal skips)⟩
  case counts =>
    have counted := (congrFun (offCleared_counts h s) h).trans (offReported_counts h s)
    simp only [State.counts, HeadCtx.counts, Prod.mk.injEq] at counted
    obtain ⟨bonded, missed, retries⟩ := counted
    rw [goes, State.head_modHead_self]
    simp only [kept, bonded, missed, retries, owesReport_iff]
    rfl
  case frame =>
    have clears (c : AlarmCode) (law : s.alarmsLawful) := offCleared_clears (h := h) (c := c) hl law
    have disabled := offCleared_chan h hl
    have w := offCleared_work h hl
    rw [goes]
    clear goes ends
    generalize s.offCleared h = x at clears disabled w ⊢
    have link {α : Type} (f : Lif → α) : f x.link = f s.link := congrArg f w.link
    have track {α : Type} (f : Trc → α) : f { x.trc with bond := none } = f { s.trc with bond := none } := congrArg f w.track
    have seq : x.trc.bond.map StripRecord.seq = s.trc.bond.map StripRecord.seq := by
      have keys := congrArg (Option.map (·.1)) w.bond
      rwa [Option.map_map, Option.map_map] at keys
    exact ⟨fun law e he scope code => clears _ law code e he rfl scope, disabled, w.ccs, w.fdc, w.plm, w.recipes, w.programs,
      w.wires, track (·.op), track (·.heat), track (·.preheat), track (·.post), seq, w.pages, w.tiles, w.keys,
      link (·.forwarding), link (·.ufQueue), link (·.fuQueue), link (·.replies), link (·.requests), link (·.fTx), link (·.uTx)⟩
  case nothing =>
    intro rests faultless decided unclaimed fault nsop nsol
    have quiet : ¬working := fun busy => Bool.false_ne_true (rests.symm.trans (headWorking_iff.mpr busy))
    have nothing : ¬due := by simp [due, quiet, faultless, decided]
    have drive := sendDrive_eq h 0 false (s.setChan h chan)
    have same : s.offReported h = { stopped with vcu := { s.vcu with votes := s.vcu.votes.set h {} } } := by
      simp only [reports, v, reported, aborted, if_neg nothing, if_neg quiet]
      rw [show stopped.vcu = s.vcu by simp only [stopped]; rw [drive]; rfl]
    have claim : State.claimOf { stopped with vcu := { s.vcu with votes := s.vcu.votes.set h {} } } h = none := by
      rw [← unclaimed]
      exact claimOf_congr (by simp only [stopped]; rw [drive]; rfl) h
    have alarms : stopped.alc = s.alc := sendDrive_alc ..
    rw [goes, offCleared_of_idle same claim] <;> intro e he
    · exact fault e (alarms ▸ he)
    · exact nsop e (alarms ▸ he)
    · exact nsol e (alarms ▸ he)

end Sys2Proof.Machine
end

section
/-! SUPPORT. The regulator: a sample worked through its fifteen steps (R85 to R92, R95), the startup timeout (R89) and the loss
window (R93). -/

namespace Sys2Proof.Machine

variable {s : State}

/-! ### The sample of a head's node (R85) -/

theorem decodeSample_encodeSample (x : Sample) : decodeSample (encodeSample x) = some x := by
  obtain ⟨feedback, seq, fault⟩ := x
  have halves : feedback.extractLsb' 8 8 ++ feedback.extractLsb' 0 8 = feedback :=
    BitVec.extractLsb'_append_extractLsb'_eq_extractLsb' rfl |>.trans BitVec.extractLsb'_eq_self
  have mark : (if fault then 1 else 0 : Byte).getLsbD 0 = fault := by cases fault <;> rfl
  rw [encodeSample, decodeSample, halves, mark]

theorem onSamplePayload_encodeSample (h : Head) (x : Sample) (s : State) :
    onSamplePayload h (encodeSample x) s = onSample h x.feedback.toNat x.seq x.fault s := by
  rw [onSamplePayload, decodeSample_encodeSample]

theorem usSample_ends {src seq : Byte} {feedback : BitVec 16} {mark : Bool} {h : Head} {x : State} (hi : s.ccs.inReset = false)
    (role : s.roleAt src.toNat = .head h) (on : (s.head h).state ≠ .off) (hx : onSample h feedback.toNat seq mark s = x) :
    Ends (exec (.usSample src feedback seq mark) s) x :=
  act_ends_of_eq hi ((fieldArrive_of_head role on rfl).trans ((onSamplePayload_encodeSample h ⟨feedback, seq, mark⟩ s).trans hx))

/-- A channel context written back as it was. -/
theorem setChan_chan (h : Head) (s : State) : s.setChan h (s.chan h) = s := by
  rw [State.setChan, State.chan, PerHead.set_get]

theorem onSample_of_discarded {h : Head} {raw : Nat} {seq : Byte} {mark : Bool}
    (work : (s.chan h).sample (s.recipe ((s.chan h).recipe.getD 0)) raw seq mark = (s.chan h, .discarded)) :
    onSample h raw seq mark s = s := by
  rw [onSample, work]
  exact setChan_chan h s

theorem onSample_of_tripped {h : Head} {raw : Nat} {seq : Byte} {mark : Bool} {x : Channel}
    (work : (s.chan h).sample (s.recipe ((s.chan h).recipe.getD 0)) raw seq mark = (x, .tripped)) :
    onSample h raw seq mark s = headFault h .trip (sendDrive h 0 false (s.setChan h x)) := by
  rw [onSample, work]

theorem sendDrive_now (h : Head) (d : Nat) (e : Bool) (s : State) : (sendDrive h d e s).now = s.ccs.timebase := by
  rw [sendDrive_eq]
  rfl

theorem onSample_of_ended {h : Head} {raw : Nat} {seq : Byte} {mark : Bool} {x : Channel}
    (work : (s.chan h).sample (s.recipe ((s.chan h).recipe.getD 0)) raw seq mark = (x, .ended)) :
    onSample h raw seq mark s =
      (sendDrive h 0 true (s.setChan h x)).modHead h fun c =>
        { c with awaited := some { event := .bondEnd, deadline := s.ccs.timebase + 50 } } := by
  rw [onSample, work]
  dsimp only
  rw [awaitEvent, sendDrive_now]
  rfl

theorem onSample_of_driven {h : Head} {raw d : Nat} {seq : Byte} {mark : Bool} {x : Channel}
    (work : (s.chan h).sample (s.recipe ((s.chan h).recipe.getD 0)) raw seq mark = (x, .driven d)) :
    onSample h raw seq mark s = sendDrive h d false (s.setChan h x) := by
  rw [onSample, work]

/-! ### Steps 1 to 6: the sample counted, weighed and added up (R85 to R88) -/

section
variable {c : Channel} {r : RecipeEntry} {raw f : Nat} {seq : Byte}

theorem sample_of_not_running {mark : Bool} (no : ¬(c.state = .startup ∨ c.state = .regulate)) :
    c.sample r raw seq mark = (c, .discarded) :=
  if_pos (by rwa [Bool.not_eq_true', ← Bool.not_eq_true, running_iff])

theorem sample_of_fault (run : c.state = .startup ∨ c.state = .regulate) :
    c.sample r raw seq true = (c.trip r .generator, .tripped) := by
  simp [Channel.sample, running_iff.mpr run]

theorem sample_of_repeated (run : c.state = .startup ∨ c.state = .regulate) (again : c.prevSeq = some seq) :
    c.sample r raw seq false = (c, .discarded) := by
  simp [Channel.sample, running_iff.mpr run, again]

theorem sample_of_new (run : c.state = .startup ∨ c.state = .regulate) (fresh : c.prevSeq ≠ some seq) :
    c.sample r raw seq false = (c.count seq).work r (min raw 4095) := by
  simp [Channel.sample, running_iff.mpr run, fresh, feedbackOf]

theorem count_eq (c : Channel) (seq : Byte) :
    c.count seq =
      { c with
        k := c.k + 1, prevSeq := some seq
        sampleGap := c.sampleGap || c.prevSeq.any fun p => decide (1 < (seq - p).toNat) } := by
  cases e : c.prevSeq <;> simp [Channel.count, e]

theorem work_of_trip (high : r.ntrip ≤ (c.weighTrip r f).tripCount) :
    c.work r f = ((c.weighTrip r f).trip r .feedback, .tripped) := if_pos high

theorem work_of_end (low : (c.weighTrip r f).tripCount < r.ntrip) (last : c.k = profileLength r) :
    c.work r f = (((c.weighTrip r f).addEnergy f).finish r, .ended) :=
  (if_neg (Nat.not_le.mpr low)).trans (if_pos last)

theorem work_of_drive (low : (c.weighTrip r f).tripCount < r.ntrip) (more : c.k ≠ profileLength r) :
    let x := ((c.weighTrip r f).addEnergy f).compute r f
    c.work r f = (x, .driven x.dPrev) :=
  (if_neg (Nat.not_le.mpr low)).trans (if_neg more)

end

/-! ### Steps 7 to 15: the computed drive (R89 to R91) -/

/-- The segment that covers sample `k` gives its setpoint. -/
theorem setpointAt_of_covers {segs : List Segment} {j k : Nat} {g : Segment} (hg : segs[j]? = some g)
    (after : ((segs.take j).map (·.length)).sum < k) (upTo : k ≤ ((segs.take j).map (·.length)).sum + g.length) :
    setpointAt segs k = g.setpoint := by
  induction segs generalizing j k with
  | nil => simp at hg
  | cons x rest ih =>
    cases j with
    | zero =>
      obtain rfl : x = g := by simpa using hg
      exact if_pos (by simpa using upTo)
    | succ j =>
      simp only [List.take_succ_cons, List.map_cons, List.sum_cons] at after upTo
      rw [setpointAt, if_neg (by omega)]
      exact ih (by simpa using hg) (by omega) (by omega)

theorem clampInt_eq {lo hi : Int} (x : Int) (le : lo ≤ hi) : clampInt lo hi x = max lo (min hi x) := by
  unfold clampInt
  split_ifs <;> omega

theorem windupHolds_iff {c : Channel} {r : RecipeEntry} {ec : Int} :
    c.windupHolds r ec = true ↔ r.windupHold = true ∧ (c.lim = .high ∧ 0 < ec ∨ c.lim = .low ∧ ec < 0) := by
  simp [Channel.windupHolds]

theorem integrate_eq (c : Channel) (r : RecipeEntry) (ec : Int) :
    c.integrate r ec =
      max (-(r.imax : Int)) (min r.imax
        (if r.windupHold = true ∧ (c.lim = .high ∧ 0 < ec ∨ c.lim = .low ∧ ec < 0) then c.integ else c.integ + ec * r.ki)) := by
  rw [Channel.integrate, clampInt_eq _ (by omega)]
  simp only [windupHolds_iff]

/-- The drive and the limit state of a sample: the step limit acts in STARTUP alone. -/
def outputOf (startup : Prop) [Decidable startup] (r : RecipeEntry) (dPrev : Nat) (d : Nat × LimState) : Nat × LimState :=
  if startup ∧ dPrev + r.sstep < d.1 then (dPrev + r.sstep, .high)
  else if startup ∧ d.1 + r.sstep < dPrev then (dPrev - r.sstep, .low) else d

theorem outputOf_eq (startup : Prop) [Decidable startup] (r : RecipeEntry) (dPrev : Nat) (d : Nat × LimState) :
    outputOf startup r dPrev d = if startup then stepLimit r dPrev d else d := by
  by_cases up : startup <;> simp [outputOf, stepLimit, up]

theorem startupTimeout_eq (c : Channel) (r : RecipeEntry) :
    c.startupTimeout r =
      { c with
        state := if c.state = .startup ∧ c.k = r.tstart then .regulate else c.state
        slowStart := c.slowStart || decide (c.state = .startup ∧ c.k = r.tstart) } := by
  by_cases late : c.state = .startup ∧ c.k = r.tstart
  · simp [Channel.startupTimeout, late]
  · rw [Channel.startupTimeout, if_neg late, if_neg late, decide_eq_false late, Bool.or_false]

section
variable {c : Channel} {r : RecipeEntry} {f sp : Nat} {startup : Prop} [Decidable startup]

theorem exitStartup_eq (run : c.state = .startup ∨ c.state = .regulate) (is : startup ↔ c.state = .startup ∧ f < sp) :
    c.exitStartup f sp =
      { c with
        state := if startup then .startup else .regulate
        startupCount := if startup then satAdd 255 c.startupCount 1 else c.startupCount } := by
  obtain up | down := run
  · by_cases below : f < sp
    · simp [is, Channel.exitStartup, up, below]
    · simp [is, Channel.exitStartup, up, below, Nat.not_lt.mp below]
  · have out : ¬startup := by simp [is, down]
    have left : c.state ≠ .startup := by simp [down]
    rw [Channel.exitStartup, if_neg left, if_neg out, if_neg out, ← down]

theorem clampedError_eq (r : RecipeEntry) (startup : Prop) [Decidable startup] (sp f : Nat) :
    clampedError r startup sp f =
      max (-(r.en : Int)) (min ((sp : Int) - f) (if startup then (r.epStart : Int) else r.ep)) := by
  simp only [clampedError, decide_eq_true_eq]

/-- A computed sample of a running bond, with its error `ec`, its integrator `i` and its output `x`. It is computed in STARTUP while
the feedback is below the setpoint `sp`, and leaves it at sample Tstart. -/
theorem compute_eq {ec i : Int} {x : Nat × LimState} (run : c.state = .startup ∨ c.state = .regulate)
    (hsp : setpointAt (segmentsOf r) c.k = sp) (is : startup ↔ c.state = .startup ∧ f < sp)
    (hec : clampedError r startup sp f = ec) (hi : c.integrate r ec = i)
    (hx : outputOf startup r c.dPrev (clampOutput r (unclampedOutput r ec i)) = x) :
    c.compute r f =
      { c with
        state := if startup ∧ ¬(startup ∧ c.k = r.tstart) then .startup else .regulate
        startupCount := if startup then satAdd 255 c.startupCount 1 else c.startupCount
        slowStart := c.slowStart || decide (startup ∧ c.k = r.tstart)
        integ := i, lim := x.2, peak := max c.peak x.1, lastDrive := some x.1, dPrev := x.1, window := true } := by
  subst hx hi hec
  have stays : (if startup then ChannelState.startup else .regulate) = .startup ↔ startup := by simp
  have next : (if startup ∧ c.k = r.tstart then ChannelState.regulate else if startup then .startup else .regulate) =
      if startup ∧ ¬(startup ∧ c.k = r.tstart) then .startup else .regulate := by
    by_cases due : startup ∧ c.k = r.tstart
    · rw [if_pos due, if_neg fun up => up.2 due]
    · rw [if_neg due, if_congr (and_iff_left due).symm rfl rfl]
  rw [Channel.compute, hsp, exitStartup_eq run is, startupTimeout_eq]
  simp only [stays, ← outputOf_eq, decide_eq_true_eq, next]
  rfl

end

/-! ### The bounds of R96 -/

section
variable {r : RecipeEntry}

theorem clampOutput_within (u : Int) (le : r.dlow ≤ r.dhigh) :
    r.dlow ≤ (clampOutput r u).1 ∧ (clampOutput r u).1 ≤ r.dhigh := by
  unfold clampOutput
  split_ifs <;> omega

theorem outputOf_within {startup : Prop} [Decidable startup] {dPrev : Nat} {d : Nat × LimState}
    (before : r.dlow ≤ dPrev ∧ dPrev ≤ r.dhigh) (within : r.dlow ≤ d.1 ∧ d.1 ≤ r.dhigh) :
    r.dlow ≤ (outputOf startup r dPrev d).1 ∧ (outputOf startup r dPrev d).1 ≤ r.dhigh := by
  unfold outputOf
  split_ifs <;> omega

theorem integrate_within (c : Channel) (r : RecipeEntry) (ec : Int) :
    -(r.imax : Int) ≤ c.integrate r ec ∧ c.integrate r ec ≤ r.imax := by
  rw [integrate_eq]
  omega

end

/-! ### The timers of a bond (R89, R93) -/

theorem onStartupTimeout_eq (h : Head) (s : State) :
    let c := s.chan h
    onStartupTimeout h s =
      if c.state = .startup ∧ 0 < c.k ∧ c.k = (s.recipe (c.recipe.getD 0)).tstart then
        s.setChan h { c with state := .regulate, slowStart := true }
      else s := by
  intro c
  by_cases due : c.state = .startup ∧ c.k = (s.recipe (c.recipe.getD 0)).tstart
  · rw [onStartupTimeout, Channel.startupTimeout, if_pos due]
    exact if_congr ⟨fun some => ⟨due.1, some, due.2⟩, fun all => all.2.1⟩ rfl rfl
  · rw [onStartupTimeout, Channel.startupTimeout, if_neg due, setChan_chan, ite_self,
      if_neg fun all => due ⟨all.1, all.2.2⟩]

theorem onLossWindow_eq (h : Head) (s : State) :
    let c := s.chan h
    onLossWindow h s =
      if (c.state = .startup ∨ c.state = .regulate) ∧ c.window = true then
        headFault h .sampleLoss (sendDrive h 0 false (s.setChan h (c.lose (s.recipe (c.recipe.getD 0)))))
      else s := if_congr (and_congr_left' running_iff) rfl rfl

/-- Settles O53: the branches of `Channel.sample` and `Channel.work` are the outcomes of a sample, and `compute_eq` gives the
context after a computed one. -/
theorem samplesAreWorkedInFifteenSteps : Obligations.SamplesAreWorkedInFifteenSteps := by
  intro s h hi c r running segments length ended tripped
  refine ⟨fun src seq feedback mark role on => ?sample, act_ends_of_eq hi (onStartupTimeout_eq h s),
    act_ends_of_eq hi (onLossWindow_eq h s)⟩
  case sample =>
    intro sample f taken fed
    have ends {x : State} (hx : onSample h feedback.toNat seq mark s = x) : Ends sample x := usSample_ends hi role on hx
    have weighed : (c.count seq).weighTrip r f = taken := by rw [count_eq]; rfl
    refine ⟨fun no => ends (onSample_of_discarded (sample_of_not_running no)), fun run fault => ?generator,
      fun run clean again => ?repeated, fun run clean fresh high => ?feedback, fun run clean fresh low last => ?complete,
      fun run clean fresh low more j g hg after upTo => ?driven⟩
    case generator =>
      subst fault
      exact ends (onSample_of_tripped (sample_of_fault run))
    all_goals subst clean
    case repeated => exact ends (onSample_of_discarded (sample_of_repeated run again))
    all_goals have new : c.sample r feedback.toNat seq false = (c.count seq).work r f := sample_of_new run fresh
    case feedback =>
      have trips := work_of_trip (weighed.symm ▸ high)
      rw [weighed] at trips
      exact ends (onSample_of_tripped (new.trans trips))
    all_goals
      rw [← weighed] at low
    case complete =>
      have completes := work_of_end low last
      rw [weighed] at completes
      exact ends (onSample_of_ended (new.trans completes))
    case driven =>
      intro startup ec held i u d x late
      have integral : fed.integrate r ec = i := integrate_eq fed r ec
      have computed := compute_eq (c := fed) run (setpointAt_of_covers hg after upTo) Iff.rfl
        (clampedError_eq r startup g.setpoint f) integral rfl
      refine ⟨ends (onSample_of_driven (new.trans ?_)),
        fun le low high => outputOf_within ⟨low, high⟩ (clampOutput_within u le), integral ▸ integrate_within fed r ec⟩
      rw [work_of_drive low more, weighed]
      exact congrArg (fun y : Channel => (y, SampleResult.driven y.dPrev)) computed

end Sys2Proof.Machine
end

section
/-! SUPPORT. The coverage scan: the wire at which a walk stops (R103, R104, R109), and the units that a walk rejects (R107). -/

namespace Sys2Proof.Machine

variable {s t : State} {r : StripRecord} {wires u w v k : Nat}

/-! ### Failing wires (R103) -/

/-- Wire `k` of the unit is neither done nor waived, and the unit is not SKIPPED (R103). -/
def UnitRecord.lacks (x : UnitRecord) (k : Nat) : Prop := x.state ≠ .skipped ∧ k ∉ x.done ∧ k ∉ x.waived

/-- Wire `k` of unit `v` fails a walk from unit `u`, wire `w` on over so many wires to the unit (R103). -/
def State.fails (s : State) (wires u w v k : Nat) : Prop :=
  (u < v ∨ v = u ∧ w ≤ k) ∧ k < wires ∧ ∃ x, s.unit? v = some x ∧ x.lacks k

/-- It is the first that does, in unit order and then in wire order (R103). -/
def State.firstFails (s : State) (wires u w v k : Nat) : Prop :=
  s.fails wires u w v k ∧ ∀ v' k', s.fails wires u w v' k' → v < v' ∨ v = v' ∧ k ≤ k'

theorem firstFails_unique {v' k' : Nat} (h : s.firstFails wires u w v k) (h' : s.firstFails wires u w v' k') :
    (v, k) = (v', k') := by
  have before := h.2 v' k' h'.1
  have after := h'.2 v k h.1
  rw [Prod.mk.injEq]
  omega

theorem miss_iff {x : UnitRecord} (unskipped : x.state ≠ .skipped) :
    (decide (w ≤ k) && !x.done.contains k && !x.waived.contains k) = true ↔ w ≤ k ∧ x.lacks k := by
  simp [UnitRecord.lacks, unskipped, and_assoc]

theorem missIn_eq_none_iff {x : UnitRecord} : missIn wires w x = none ↔ ∀ k, w ≤ k → k < wires → ¬x.lacks k := by
  unfold missIn
  split
  · rename_i skipped
    exact iff_of_true rfl fun _ _ _ lacks => lacks.1 skipped
  · rename_i unskipped
    rw [List.find?_eq_none]
    simp only [miss_iff unskipped, List.mem_range]
    exact ⟨fun h k from_ inside lacks => h k inside ⟨from_, lacks⟩, fun h k inside miss => h k miss.1 inside miss.2⟩

theorem missIn_eq_some {x : UnitRecord} (h : missIn wires w x = some k) :
    (w ≤ k ∧ k < wires ∧ x.lacks k) ∧ ∀ j, w ≤ j → j < wires → x.lacks j → k ≤ j := by
  unfold missIn at h
  split at h
  · cases h
  · rename_i unskipped
    obtain ⟨⟨inside, miss⟩, least⟩ :=
      (find?_eq_some_iff_of_pairwise Nat.le_refl (List.pairwise_lt_range.imp Nat.not_le.mpr) fun _ _ => Nat.le_of_not_ge).mp h
    obtain ⟨from_, lacks⟩ := (miss_iff unskipped).mp miss
    exact ⟨⟨from_, List.mem_range.mp inside, lacks⟩,
      fun j hj inside lacks => least j (List.mem_range.mpr inside) ((miss_iff unskipped).mpr ⟨hj, lacks⟩)⟩

/-! ### The next failing wire (R103) -/

/-- A failing wire is one of the unit that the walk is at, or fails the walk from the next unit on. -/
theorem fails_iff_of_unit {x : UnitRecord} (hx : s.unit? u = some x) :
    s.fails wires u w v k ↔ v = u ∧ (w ≤ k ∧ k < wires ∧ x.lacks k) ∨ s.fails wires (u + 1) 0 v k := by
  constructor
  · rintro ⟨after | ⟨rfl, from_⟩, inside, y, hy, lacks⟩
    · exact .inr ⟨by omega, inside, y, hy, lacks⟩
    · obtain rfl := Option.some.inj (hx.symm.trans hy)
      exact .inl ⟨rfl, from_, inside, lacks⟩
  · rintro (⟨rfl, from_, inside, lacks⟩ | ⟨after, inside, y, hy, lacks⟩)
    · exact ⟨.inr ⟨rfl, from_⟩, inside, x, hx, lacks⟩
    · exact ⟨by omega, inside, y, hy, lacks⟩

theorem not_fails_of_drop_eq_nil (past : s.units.drop u = []) : ¬s.fails wires u w v k := by
  rintro ⟨after, -, x, hx, -⟩
  have inside : v < s.units.length := (List.getElem?_eq_some_iff.mp hx).1
  have short : s.units.length ≤ u := List.drop_eq_nil_iff.mp past
  omega

theorem unit?_of_drop_eq_cons {x : UnitRecord} {xs : List UnitRecord} (h : s.units.drop u = x :: xs) :
    s.unit? u = some x ∧ s.units.drop (u + 1) = xs := by
  refine ⟨?_, ?_⟩
  · rw [State.unit?, ← Nat.add_zero u, ← List.getElem?_drop, h]
    rfl
  · rw [← List.tail_drop, h]
    rfl

theorem nextMiss_eq_none_iff {xs : List UnitRecord} (h : s.units.drop u = xs) :
    nextMiss wires xs u w = none ↔ ∀ v k, ¬s.fails wires u w v k := by
  induction xs generalizing u w with
  | nil => exact iff_of_true rfl fun _ _ => not_fails_of_drop_eq_nil h
  | cons x xs ih =>
    obtain ⟨hx, rest⟩ := unit?_of_drop_eq_cons h
    simp only [nextMiss, fails_iff_of_unit hx]
    cases miss : missIn wires w x with
    | none =>
      have passes := missIn_eq_none_iff.mp miss
      simp only [ih rest]
      exact forall₂_congr fun v k => not_congr
        ⟨.inr, (·.resolve_left fun ⟨_, from_, inside, lacks⟩ => passes k from_ inside lacks)⟩
    | some k =>
      obtain ⟨fails, -⟩ := missIn_eq_some miss
      exact iff_of_false nofun fun none_ => none_ u k (.inl ⟨rfl, fails⟩)

theorem firstFails_of_nextMiss {xs : List UnitRecord} (h : s.units.drop u = xs) (found : nextMiss wires xs u w = some (v, k)) :
    s.firstFails wires u w v k := by
  induction xs generalizing u w with
  | nil => cases found
  | cons x xs ih =>
    obtain ⟨hx, rest⟩ := unit?_of_drop_eq_cons h
    unfold State.firstFails
    simp only [nextMiss, fails_iff_of_unit hx] at found ⊢
    cases miss : missIn wires w x with
    | none =>
      rw [miss] at found
      have passes := missIn_eq_none_iff.mp miss
      obtain ⟨fails, first⟩ := ih rest found
      exact ⟨.inr fails, fun v' k' fails' =>
        first v' k' (fails'.resolve_left fun ⟨_, from_, inside, lacks⟩ => passes k' from_ inside lacks)⟩
    | some j =>
      rw [miss] at found
      obtain ⟨rfl, rfl⟩ := Prod.mk.inj (Option.some.inj found)
      obtain ⟨fails, least⟩ := missIn_eq_some miss
      refine ⟨.inl ⟨rfl, fails⟩, fun v' k' fails' => ?_⟩
      rcases fails' with ⟨rfl, from_, inside, lacks⟩ | ⟨after, -⟩
      · exact .inr ⟨rfl, least k' from_ inside lacks⟩
      · omega

/-- The walk looks for the first failing wire (R103). -/
theorem nextMiss_eq_some_iff : nextMiss wires (s.units.drop u) u w = some (v, k) ↔ s.firstFails wires u w v k := by
  refine ⟨firstFails_of_nextMiss rfl, fun first => ?_⟩
  cases found : nextMiss wires (s.units.drop u) u w with
  | none => exact absurd first.1 ((nextMiss_eq_none_iff rfl).mp found v k)
  | some p => rw [firstFails_unique first (firstFails_of_nextMiss rfl found)]

/-! ### One step of a walk (R103, R104, R109) -/

theorem releaseStrip_eq (hr : s.trc.bond = some r) :
    releaseStrip s = notify (.strip r.seq .released)
      { s with vcu := { s.vcu with scan := some .passed, pendingWire := none }
               trc := { s.trc with bond := some { r with state := .released } } } := by
  simp only [releaseStrip, hr]
  exact congrArg (notify _) (modStrip_eq (p := .bond) (by exact hr) _)

/-- Releasing the strip changes the scan, the strip's state and the notice queue. -/
theorem releaseStrip_frame (hr : s.trc.bond = some r) :
    releaseStrip s =
      { s with vcu := { s.vcu with scan := some .passed, pendingWire := none }
               trc := { s.trc with bond := some { r with state := .released } }
               lif := (notify (.strip r.seq .released) s).lif } := by
  rw [releaseStrip_eq hr, notify_eq, notify_eq]

theorem stopScan_eq (hr : s.trc.bond = some r) (v k : Nat) :
    stopScan v k s = notify (.decision (.missedWire { seq := r.seq, unit := v, wire := k }))
      (raiseAlarm .missedWire .track (v * 1000 + k)
        { s with vcu := { s.vcu with scan := some .stopped, pos := some (v, k), pendingWire := some (v, k) } }) := by
  simp only [stopScan, hr]
  rfl

section
variable (fuel : Nat) (hr : s.trc.bond = some r) (hw : (s.program r.program).wireCount = wires)
include hr hw

theorem walkFrom_of_none (passes : ∀ v k, ¬s.fails wires u w v k) : walkFrom (fuel + 1) u w s = releaseStrip s := by
  rw [walkFrom, bondProgram_eq hr, hw, (nextMiss_eq_none_iff rfl).mpr passes]

theorem walkFrom_of_ask (policy : s.ccs.params.policy = .ask) (first : s.firstFails wires u w v k) :
    walkFrom (fuel + 1) u w s = stopScan v k s := by
  simp only [walkFrom, bondProgram_eq hr, hw, nextMiss_eq_some_iff.mpr first, policy]

theorem walkFrom_of_rejectUnit (policy : s.ccs.params.policy = .rejectUnit) (first : s.firstFails wires u w v k) :
    walkFrom (fuel + 1) u w s = walkFrom fuel (v + 1) 0 (rejectUnit v k wires s) := by
  simp only [walkFrom, bondProgram_eq hr, hw, nextMiss_eq_some_iff.mpr first, policy]

end

/-- Settles O16: a walk that meets no failing wire passes (`walkFrom_of_none`), and one under ASK stops at the first
(`walkFrom_of_ask`). -/
theorem theScanStopsAtTheFirstMiss : Obligations.TheScanStopsAtTheFirstMiss := by
  intro s u w r hr policy wires fails
  refine ⟨fun passes => ?_, fun v k this first => ?_⟩
  · exact (walkFrom_of_none _ hr rfl passes).trans (releaseStrip_eq hr)
  · exact (walkFrom_of_ask _ hr rfl policy ⟨this, first⟩).trans (stopScan_eq hr v k)

/-! ### The rejected units (R107) -/

/-- A REJECTED unit: each of its wires not done is waived (R107). -/
def UnitRecord.reject (x : UnitRecord) (wires : Nat) : UnitRecord :=
  { x with rejected := true
           waived := (List.range wires).foldl (fun m v => if x.done.contains v then m else insertMark m v) x.waived }

theorem mem_waived_reject {x : UnitRecord} : k ∈ (x.reject wires).waived ↔ k ∈ x.waived ∨ k < wires ∧ k ∉ x.done := by
  have marks (l m : List Nat) :
      k ∈ l.foldl (fun m v => if x.done.contains v then m else insertMark m v) m ↔ k ∈ m ∨ k ∈ l ∧ k ∉ x.done := by
    induction l generalizing m with
    | nil => simp
    | cons j l ih =>
      rw [List.foldl_cons, ih]
      split
      · rename_i done
        have done : j ∈ x.done := List.contains_iff_mem.mp done
        grind
      · rename_i undone
        have undone : j ∉ x.done := undone ∘ List.contains_iff_mem.mpr
        rw [mem_insertMark]
        grind
  exact (marks (List.range wires) x.waived).trans (by rw [List.mem_range])

/-- What a unit's record is after a walk under REJECT_UNIT from unit `u`, wire `w` on. -/
def State.rejectsUnits (s t : State) (wires u w : Nat) : Prop :=
  ∀ v x, s.unit? v = some x →
    ((∀ k, ¬s.fails wires u w v k) → t.unit? v = some x) ∧ (∀ k, s.fails wires u w v k → t.unit? v = some (x.reject wires))

/-- `t` is `s` with every unit rejected that has a failing wire from unit `u`, wire `w` on; the scan position and the pending wire
are left open. -/
structure State.Rejects (s t : State) (r : StripRecord) (wires u w : Nat) : Prop where
  frame : t = { s with usc := t.usc, vcu := { s.vcu with pos := t.vcu.pos, pendingWire := t.vcu.pendingWire }, trc := t.trc }
  bond : ∃ b, t.trc.bond = some { r with rejectUnits := b } ∧
    (b = true ↔ r.rejectUnits = true ∨ ∃ v k, s.fails wires u w v k)
  units : s.rejectsUnits t wires u w

theorem rejects_self (hr : s.trc.bond = some r) (passes : ∀ v k, ¬s.fails wires u w v k) : s.Rejects s r wires u w where
  frame := rfl
  bond := ⟨r.rejectUnits, hr, (or_iff_left fun ⟨v, k, fails⟩ => passes v k fails).symm⟩
  units v _ hx := ⟨fun _ => hx, fun k fails => absurd fails (passes v k)⟩

theorem rejectUnit_eq {x : UnitRecord} (hr : s.trc.bond = some r) (hx : s.unit? v = some x) (k wires : Nat) :
    rejectUnit v k wires s =
      { s.putUnit v (x.reject wires) with
        vcu := { s.vcu with pos := some (v, k), pendingWire := none }
        trc := { s.trc with bond := some { r with rejectUnits := true } } } := by
  let moved : State := { s with vcu := { s.vcu with pos := some (v, k), pendingWire := none } }
  have rejected := modUnit_eq (s := moved) hx fun x => x.reject wires
  refine (congrArg (State.modStrip · .bond fun r => { r with rejectUnits := true }) rejected).trans ?_
  exact modStrip_eq (p := .bond) (by exact hr) _

theorem unit?_putUnit_ne {j : Nat} (ne : j ≠ v) (y : UnitRecord) : (s.putUnit v y).unit? j = s.unit? j :=
  List.getElem?_set_ne ne.symm

/-- Past the first failing wire's unit, the same wires fail as before it was rejected. -/
theorem fails_rejectUnit_iff {x : UnitRecord} {i j : Nat} (hr : s.trc.bond = some r) (hx : s.unit? v = some x) :
    (rejectUnit v k wires s).fails wires (v + 1) 0 i j ↔ s.fails wires (v + 1) 0 i j := by
  refine and_congr_right fun after => and_congr_right fun _ => ?_
  have same : (rejectUnit v k wires s).unit? i = s.unit? i := by
    rw [rejectUnit_eq hr hx]
    exact unit?_putUnit_ne (by omega) _
  rw [same]

theorem fails_of_firstFails {i j : Nat} (first : s.firstFails wires u w v k) :
    (s.fails wires u w i j → i = v ∨ s.fails wires (v + 1) 0 i j) ∧
      (s.fails wires (v + 1) 0 i j → i ≠ v ∧ s.fails wires u w i j) := by
  obtain ⟨⟨start, -⟩, least⟩ := first
  refine ⟨fun fails => ?_, fun ⟨after, lacks⟩ => ⟨by omega, by omega, lacks⟩⟩
  rcases least i j fails with after | ⟨rfl, -⟩
  · exact .inr ⟨by omega, fails.2⟩
  · exact .inl rfl

/-- The unit of the first failing wire is rejected, and then those of the walk from the next unit on. -/
theorem rejects_of_rejectUnit (hr : s.trc.bond = some r) (first : s.firstFails wires u w v k)
    (rest : (rejectUnit v k wires s).Rejects t { r with rejectUnits := true } wires (v + 1) 0) : s.Rejects t r wires u w := by
  obtain ⟨-, -, x, hx, -⟩ := first.1
  have rejected := rejectUnit_eq hr hx k wires
  obtain ⟨frame, ⟨b, bond, marked⟩, units⟩ := rest
  refine ⟨?frame, ⟨b, bond, iff_of_true (marked.mpr (.inl rfl)) (.inr ⟨v, k, first.1⟩)⟩, fun i y hy => ?units⟩
  case frame =>
    rw [rejected] at frame
    exact frame
  case units =>
    have later {j : Nat} := fails_of_firstFails (i := i) (j := j) first
    have sameFails {j : Nat} := fails_rejectUnit_iff (k := k) (wires := wires) (i := i) (j := j) hr hx
    by_cases here : i = v
    · subst here
      obtain rfl := Option.some.inj (hx.symm.trans hy)
      have unit : (rejectUnit i k wires s).unit? i = some (x.reject wires) := by
        rw [rejected]
        exact unit?_putUnit hx _
      have done : t.unit? i = some (x.reject wires) :=
        (units i _ unit).1 fun j fails => (later.2 (sameFails.mp fails)).1 rfl
      exact ⟨fun passes => absurd first.1 (passes k), fun _ _ => done⟩
    · have unit : (rejectUnit v k wires s).unit? i = some y := by
        rw [rejected]
        exact (unit?_putUnit_ne here _).trans hy
      obtain ⟨kept, reject⟩ := units i y unit
      exact ⟨fun passes => kept fun j fails => passes j (later.2 (sameFails.mp fails)).2,
        fun j fails => reject j (sameFails.mpr ((later.1 fails).resolve_left here))⟩

/-- A walk under REJECT_UNIT goes to the end of the strip: it stops at no failing wire, and the fuel suffices, since each unit is
rejected once (R107, R109). -/
theorem walkFrom_rejects {fuel : Nat} (enough : s.units.length - u < fuel) (hr : s.trc.bond = some r)
    (hw : (s.program r.program).wireCount = wires) (policy : s.ccs.params.policy = .rejectUnit) :
    ∃ t, s.Rejects t r wires u w ∧ walkFrom fuel u w s = releaseStrip t := by
  induction fuel generalizing s r u w with
  | zero => omega
  | succ fuel ih =>
    cases found : nextMiss wires (s.units.drop u) u w with
    | none =>
      have passes := (nextMiss_eq_none_iff rfl).mp found
      exact ⟨s, rejects_self hr passes, walkFrom_of_none fuel hr hw passes⟩
    | some p =>
      obtain ⟨v, k⟩ := p
      have first := nextMiss_eq_some_iff.mp found
      obtain ⟨start, -, x, hx, -⟩ := first.1
      have inside : v < s.units.length := (List.getElem?_eq_some_iff.mp hx).1
      have rejected := rejectUnit_eq hr hx k wires
      have length : (rejectUnit v k wires s).units.length = s.units.length := by
        rw [rejected]
        exact List.length_set ..
      obtain ⟨t, rejects, walked⟩ := ih (s := rejectUnit v k wires s) (u := v + 1) (w := 0) (r := { r with rejectUnits := true })
        (by omega) (by rw [rejected]) (by rw [rejected]; exact hw) (by rw [rejected]; exact policy)
      exact ⟨t, rejects_of_rejectUnit hr first rejects, (walkFrom_of_rejectUnit fuel hr hw policy first).trans walked⟩

theorem noticeQueue_notify_congr (n : Notice) (h : t.lif = s.lif) : (notify n t).noticeQueue = (notify n s).noticeQueue := by
  simp only [notify_eq, State.noticeQueue, h]

/-- Settles O17: the walk rejects its units and then releases the strip (`walkFrom_rejects`). -/
theorem rejectUnitWalksToTheEnd : Obligations.RejectUnitWalksToTheEnd := by
  intro s u w r hr policy wires fails
  obtain ⟨t, ⟨frame, ⟨b, bond, marked⟩, units⟩, walked⟩ : ∃ t, s.Rejects t r wires u w ∧ walk u w s = releaseStrip t :=
    walkFrom_rejects (Nat.lt_succ_of_le (Nat.sub_le ..)) hr rfl policy
  have fails_iff {v : Nat} {x : UnitRecord} (hx : s.unit? v = some x) : fails v x ↔ ∃ k, s.fails wires u w v k := by
    constructor
    · rintro ⟨unskipped, k, inside, from_, lacks⟩
      exact ⟨k, from_, inside, x, hx, unskipped, lacks⟩
    · rintro ⟨k, from_, inside, y, hy, unskipped, lacks⟩
      obtain rfl := Option.some.inj (hx.symm.trans hy)
      exact ⟨unskipped, k, inside, from_, lacks⟩
  have somewhere : (∃ v x, s.unit? v = some x ∧ fails v x) ↔ ∃ v k, s.fails wires u w v k :=
    exists_congr fun v => ⟨fun ⟨x, hx, this⟩ => (fails_iff hx).mp this, fun ⟨k, this⟩ =>
      have ⟨_, _, x, hx, _⟩ := this
      ⟨x, hx, (fails_iff hx).mpr ⟨k, this⟩⟩⟩
  rw [walked, releaseStrip_frame bond]
  refine ⟨rfl, rfl, (congrArg State.alc frame :), (congrArg State.heads frame :),
    noticeQueue_notify_congr _ (congrArg State.lif frame :),
    ⟨b, rfl, marked.trans (or_congr_right somewhere.symm)⟩, fun v x hx => ⟨fun passes => ?_, fun this => ?_⟩⟩
  · exact (units v x hx).1 fun k fails => passes ((fails_iff hx).mpr ⟨k, fails⟩)
  · obtain ⟨k, fails⟩ := (fails_iff hx).mp this
    exact ⟨(x.reject wires).waived, (units v x hx).2 k fails, fun _ => mem_waived_reject⟩

end Sys2Proof.Machine
end

section
/-! SUPPORT. WAIVE_WIRE and REBOND_WIRE as coverage decisions (R105, R106). -/

namespace Sys2Proof.Machine

variable {s : State} {w : WireRef} {r : StripRecord} {x : UnitRecord}

/-! ### The checks of a coverage decision (R105, R106) -/

/-- The program `e` has no such wire: its unit or its wire number is out of range. -/
abbrev WireRef.outside (w : WireRef) (e : ProgramEntry) : Prop := e.rows * e.columns ≤ w.unit ∨ e.wireCount ≤ w.wire

/-- The wire is still ahead of its unit's resume wire (R105). -/
abbrev UnitRecord.ahead (x : UnitRecord) (k : Nat) : Prop :=
  (x.state = .pending ∨ x.state = .claimed ∧ x.rebond = none) ∧ x.resume ≤ k

theorem notPassed_iff {k : Nat} : x.notPassed k = true ↔ x.ahead k := by
  simp [UnitRecord.notPassed]

/-- The unit's record refuses the waiver of a wire (R105). -/
abbrev UnitRecord.refusesWaiver (x : UnitRecord) (k : Nat) : Prop :=
  x.state = .skipped ∨ k ∈ x.done ∨ k ∈ x.waived ∨ x.ahead k ∨ x.rebond = some k

/-- A decision for a strip that is not at BOND, not in BONDING or CHECKING, or scrapped (R105, R106). -/
theorem coverage_closed
    (closed : ∀ r, s.trc.bond = some r → r.seq = w.seq → r.state ≠ .bonding ∧ r.state ≠ .checking ∨ r.scrapped = true) :
    s.waiveFault w = some .badState ∧ s.rebondCheck w = .error .badState := by
  unfold State.waiveFault State.rebondCheck
  cases hr : s.trc.bond with
  | none => exact ⟨rfl, rfl⟩
  | some r =>
    dsimp only
    by_cases hs : r.seq = w.seq
    · rcases closed r hr hs with state | scrapped
      · exact ⟨if_pos (.inr state), if_pos (.inr (.inl state.2))⟩
      · refine ⟨?_, if_pos (.inr (.inr scrapped))⟩
        rw [if_pos scrapped, ite_self]
    · exact ⟨if_pos (.inl hs), if_pos (.inl hs)⟩

section
variable (hr : s.trc.bond = some r) (hs : r.seq = w.seq) (live : r.scrapped = false)
include hr hs live

theorem waiveFault_outside (open_ : r.state = .bonding ∨ r.state = .checking) (out : w.outside (s.program r.program)) :
    s.waiveFault w = some .badIndex := by
  have passed : ¬(r.seq ≠ w.seq ∨ r.state ≠ .bonding ∧ r.state ≠ .checking) := by tauto
  simp only [State.waiveFault, hr, if_neg passed, live, Bool.false_eq_true, if_false]
  exact if_pos out

theorem waiveFault_inside (open_ : r.state = .bonding ∨ r.state = .checking) (inside : ¬w.outside (s.program r.program))
    (hx : s.unit? w.unit = some x) :
    s.waiveFault w = if x.refusesWaiver w.wire then some .badState else none := by
  have passed : ¬(r.seq ≠ w.seq ∨ r.state ≠ .bonding ∧ r.state ≠ .checking) := by tauto
  simp only [State.waiveFault, hr, if_neg passed, live, Bool.false_eq_true, if_false, hx]
  refine (if_neg inside).trans (if_congr ?_ rfl rfl)
  rw [notPassed_iff, List.contains_iff_mem, List.contains_iff_mem]

theorem rebondCheck_outside (checking : r.state = .checking) (out : w.outside (s.program r.program)) :
    s.rebondCheck w = .error .badIndex := by
  have passed : ¬(r.seq ≠ w.seq ∨ r.state ≠ .checking ∨ r.scrapped = true) := by simp [hs, checking, live]
  simp only [State.rebondCheck, hr, if_neg passed]
  exact if_pos out

end

theorem rebondCheck_bonding (hr : s.trc.bond = some r) (bonding : r.state = .bonding) : s.rebondCheck w = .error .badState := by
  simp [State.rebondCheck, hr, bonding]

/-- The scan waits for a decision on this wire and the program and the cell may run (R106). -/
abbrev State.rebondAble (s : State) (p : Nat) (w : WireRef) : Prop :=
  s.vcu.scan = some .stopped ∧ s.vcu.pendingWire = some (w.unit, w.wire) ∧ s.held p = false ∧
    (s.ccs.cell = .run ∨ s.ccs.cell = .drain)

/-- Inside the program's ranges the scan, the program and the cell are checked, and then a head is chosen (R106). -/
theorem rebondCheck_inside (hr : s.trc.bond = some r) (hs : r.seq = w.seq) (live : r.scrapped = false)
    (checking : r.state = .checking) (inside : ¬w.outside (s.program r.program)) (hx : s.unit? w.unit = some x) :
    s.rebondCheck w =
      if s.rebondAble r.program w then (s.rebondChoice x.lastHead).elim (.error .badState) .ok else .error .badState := by
  have passed : ¬(r.seq ≠ w.seq ∨ r.state ≠ .checking ∨ r.scrapped = true) := by simp [hs, checking, live]
  simp only [State.rebondCheck, hr, if_neg passed, hx, Option.bind_some]
  refine (if_neg inside).trans ?_
  have unable : (((s.vcu.scan ≠ some .stopped ∨ s.vcu.pendingWire ≠ some (w.unit, w.wire)) ∨ s.held r.program = true) ∨
      (!s.working) = true) ↔ ¬s.rebondAble r.program w := by
    rw [Bool.not_eq_true', ← Bool.not_eq_true, working_iff, ← Bool.not_eq_false (s.held _)]
    tauto
  rw [← ite_or, ← ite_or, ← ite_not (s.rebondAble r.program w)]
  refine if_congr unable rfl ?_
  cases s.rebondChoice x.lastHead <;> rfl

/-! ### The head of a rebond (R106) -/

theorem rebondChoice_eq_none (a : (s.head .a).state ≠ .idle) (b : (s.head .b).state ≠ .idle) (last : Option Head) :
    s.rebondChoice last = none := by
  have busy : ∀ h, (s.head h).state ≠ .idle := fun h => by cases h <;> assumption
  exact (if_neg (busy _)).trans (if_neg (busy _))

theorem rebondChoice_eq_some {last : Option Head} {h : Head} (idle : (s.head h).state = .idle)
    (chosen : h = if (s.head (last.getD .a)).state = .idle then last.getD .a else (last.getD .a).other) :
    s.rebondChoice last = some h := by
  unfold State.rebondChoice
  dsimp only
  split at chosen
  · rw [if_pos ‹_›, chosen]
  · rw [if_neg ‹_›, ← chosen, if_pos idle]

/-! ### What a coverage decision does (R105, R106) -/

theorem waiveCoverage_eq (hx : s.unit? w.unit = some x) :
    let t := s.putUnit w.unit (x.recordWaiver w.wire)
    waiveCoverage w s =
      if s.vcu.scan = some .stopped ∧ s.vcu.pendingWire = some (w.unit, w.wire) then
        walk w.unit (w.wire + 1) { t with vcu := { t.vcu with pendingWire := none } }
      else t := by
  simp only [waiveCoverage, waive, modUnit_eq hx]
  rfl

theorem rebondCoverage_eq (hx : s.unit? w.unit = some x) (h : Head) :
    rebondCoverage h w s =
      startWire h w.unit { s.putUnit w.unit
          { x with state := .claimed, claimant := some h, lastHead := some h, rebond := some w.wire } with
        vcu := { s.vcu with scan := some .rebond, rebondHead := some h } } :=
  congrArg (startWire h w.unit) (modUnit_eq (s := { s with vcu := { s.vcu with scan := some .rebond, rebondHead := some h } }) hx _)

/-! ### The two requests (R105, R106) -/

section
variable {p : Position × StripRecord} (found : s.findStrip w.seq = some p) (nobody : s.nsbHead w = none)
include found nobody

theorem onWaiveWire_refused {c : ResultCode} (fault : s.waiveFault w = some c) : onWaiveWire w s = refuse c s := by
  simp only [onWaiveWire, found, nobody, fault]

theorem onWaiveWire_accepted (passes : s.waiveFault w = none) : onWaiveWire w s = accept (waiveCoverage w s) := by
  simp only [onWaiveWire, found, nobody, passes]

theorem onRebondWire_refused {c : ResultCode} (fault : s.rebondCheck w = .error c) : onRebondWire w s = refuse c s := by
  simp only [onRebondWire, found, nobody, fault]

theorem onRebondWire_accepted {h : Head} (passes : s.rebondCheck w = .ok h) : onRebondWire w s = accept (rebondCoverage h w s) := by
  simp only [onRebondWire, found, nobody, passes]

end

/-- Settles O50: no head awaits the wire, so the checks are those of a coverage decision (`waiveFault_inside`, `rebondCheck_inside`). -/
theorem coverageDecisionsMoveTheScan : Obligations.CoverageDecisionsMoveTheScan := by
  intro s u tag seq unit wire ⟨r₀, there, sameSeq⟩ others waive rebond
  let w : WireRef := { seq := seq, unit := unit, wire := wire }
  obtain ⟨p, found⟩ : ∃ p, u.findStrip w.seq = some p := findStrip_of_mem there sameSeq
  have nobody : u.nsbHead w = none := nsbHead_eq_none fun h ⟨d, hd, names⟩ => others h d hd names
  have waives {x : State} {c : ResultCode} (hx : onWaiveWire w u = (x, { result := c })) : waive x c :=
    serves_of_eq (exec_stripOpWaiveWire tag seq unit wire s) hx
  have rebonds {x : State} {c : ResultCode} (hx : onRebondWire w u = (x, { result := c })) : rebond x c :=
    serves_of_eq (exec_stripOpRebondWire tag seq unit wire s) hx
  have waiveRefused {c : ResultCode} (fault : u.waiveFault w = some c) : waive u c :=
    waives (onWaiveWire_refused found nobody fault)
  have rebondRefused {c : ResultCode} (fault : u.rebondCheck w = .error c) : rebond u c :=
    rebonds (onRebondWire_refused found nobody fault)
  refine ⟨fun closed => ?closed, fun r hr hs live open_ => ?opened⟩
  case closed =>
    obtain ⟨waiver, rebonding⟩ := coverage_closed (w := w) closed
    exact ⟨waiveRefused waiver, rebondRefused rebonding⟩
  case opened =>
    intro e outside
    refine ⟨fun out => waiveRefused (waiveFault_outside hr hs live open_ out), fun x inside hx => ?waived,
      fun bonding => rebondRefused (rebondCheck_bonding hr bonding), fun checking =>
        ⟨fun out => rebondRefused (rebondCheck_outside hr hs live checking out), fun inside x hx => ?rebonded⟩⟩
    case waived =>
      intro ahead refused t
      have fault := waiveFault_inside (w := w) hr hs live open_ inside hx
      refine ⟨fun refused => waiveRefused (fault.trans (if_pos refused)), fun passes => waives ?_⟩
      rw [onWaiveWire_accepted found nobody (fault.trans (if_neg passes)), waiveCoverage_eq (w := w) hx]
      rfl
    case rebonded =>
      intro able first
      have check := rebondCheck_inside (w := w) hr hs live checking inside hx
      refine ⟨fun unable => rebondRefused (check.trans (if_neg unable)), fun a b => rebondRefused ?_,
        fun h chosen idle able => rebonds ?_⟩
      · rw [check, rebondChoice_eq_none a b, Option.elim_none, ite_self]
      · have passes : u.rebondCheck w = .ok h := by
          rw [check, if_pos able, rebondChoice_eq_some idle chosen, Option.elim_some]
        rw [onRebondWire_accepted found nobody passes, rebondCoverage_eq (w := w) hx]
        rfl

end Sys2Proof.Machine
end

section
/-! SUPPORT. The checks on the entries of the plan, limits, cell parameter, kind and terminal tables (R113, R114, R150, R163, R171). -/

namespace Sys2Proof.Machine

/-- A check of one condition alone. -/
theorem firstBroken_one {b : Bool} {fits : Prop} (h : b = true ↔ fits) :
    (¬fits → firstBroken [(b, .badValue)] = some .badValue) ∧ (fits → firstBroken [(b, .badValue)] = none) :=
  firstBroken_badValue rfl h

/-! ### Plans and limits (R113, R114) -/

theorem noDuplicates_iff {l : List Nat} : noDuplicates l = true ↔ l.Nodup := by
  induction l with
  | nil => simp [noDuplicates]
  | cons x xs ih => simp [noDuplicates, ih]

/-- The conditions on a plan entry that is written valid (R113). -/
theorem planConditions_iff {e : PlanEntry} :
    (!e.valid || (inRange 0 255 e.interval && decide (e.units.length ≤ 4) && e.units.all (inRange 0 63) && noDuplicates e.units &&
      decide (e.wires.length ≤ 8) && e.wires.all (inRange 0 383) && noDuplicates e.wires)) = true ↔
    (e.valid = true →
      e.interval ≤ 255 ∧ e.units.length ≤ 4 ∧ (∀ u ∈ e.units, u ≤ 63) ∧ e.units.Nodup ∧ e.wires.length ≤ 8 ∧
      (∀ w ∈ e.wires, w ≤ 383) ∧ e.wires.Nodup) := by
  cases e.valid
  · simp
  · simp only [Bool.not_true, Bool.false_or, Bool.and_eq_true, List.all_eq_true, inRange_iff, noDuplicates_iff, Nat.zero_le,
      true_and, and_assoc, decide_eq_true_eq, forall_const]

/-- The conditions on a limits entry that is written valid (R114). -/
theorem limitsConditions_iff {e : LimitsEntry} :
    (!e.valid || ([e.m1, e.m2, e.m3, e.m4, e.m5].all (fun m => inRange 0 65000 m.minForce) && inRange 1 8 e.failLimit &&
      inRange 2 255 e.capCount && inRange 0 65000 e.capLimit)) = true ↔
    (e.valid = true →
      (∀ m ∈ [e.m1, e.m2, e.m3, e.m4, e.m5], m.minForce ≤ 65000) ∧ 1 ≤ e.failLimit ∧ e.failLimit ≤ 8 ∧ 2 ≤ e.capCount ∧
      e.capCount ≤ 255 ∧ e.capLimit ≤ 65000) := by
  cases e.valid
  · simp
  · simp only [Bool.not_true, Bool.false_or, Bool.and_eq_true, List.all_eq_true, inRange_iff, Nat.zero_le, true_and, and_assoc,
      forall_const]

/-! ### Cell parameters (R171) -/

/-- The values of the table of R171, branch by branch; the last branch takes every pair that the table does not name. -/
theorem paramFits_iff {i : Nat} {v : ParamValue} :
    paramFits i v = true ↔
      (∃ n, v = .number n ∧
        (i = 0 ∧ n ≤ 5000 ∨ i = 1 ∧ 1 ≤ n ∧ n ≤ 200 ∨ i = 2 ∧ n ≤ 100 ∨ i = 3 ∧ 1 ≤ n ∧ n ≤ 50 ∨ i = 4 ∧ n ≤ 60000 ∨
          (i = 7 ∨ i = 9) ∧ n ≤ 39)) ∨
      (∃ p, v = .policy p ∧ i = 5) ∨ ∃ d, v = .direction d ∧ (i = 6 ∨ i = 8) := by
  unfold paramFits
  split
  case h_11 => grind
  all_goals simp [inRange_iff]

/-- Settles O30: each check is one condition, said by its own lemma. -/
theorem pullAndCellEntriesAreChecked : Obligations.PullAndCellEntriesAreChecked :=
  ⟨fun _ => firstBroken_one planConditions_iff, fun _ => firstBroken_one limitsConditions_iff,
    fun _ _ => firstBroken_one paramFits_iff, fun _ => firstBroken_one Option.isSome_iff_ne_none,
    fun _ => firstBroken_one Option.isSome_iff_ne_none⟩

end Sys2Proof.Machine
end

section
/-! SUPPORT. Pull records join the log, and the work on the strip at POST (R120, R124, R126). -/

namespace Sys2Proof.Machine

variable {s : State}

/-! ### The candidate that takes its record (R116, R124) -/

/-- The list entry `d` as it stands once `c` has taken record number `n`. -/
def Candidate.taken (c : Candidate) (n : Nat) (d : Candidate) : Candidate := if d = c then d.take n else d

theorem taken_pair (c : Candidate) (n : Nat) (d : Candidate) : (c.taken n d).unit = d.unit ∧ (c.taken n d).wire = d.wire := by
  unfold Candidate.taken
  split <;> exact ⟨rfl, rfl⟩

section
variable {l m : List Candidate} {c : Candidate} (lawful : candidatesLawful (l ++ c :: m))
include lawful

/-- No candidate of a lawful list names the pair of a later one. -/
theorem candidatesLawful_before : ∀ d ∈ l, ¬(d.unit = c.unit ∧ d.wire = c.wire) :=
  fun d hd => (List.pairwise_append.mp lawful.2).2.2 d hd c List.mem_cons_self

theorem candidatesLawful_after : ∀ d ∈ m, ¬(c.unit = d.unit ∧ c.wire = d.wire) :=
  (List.pairwise_cons.mp (List.pairwise_append.mp lawful.2).2.1).1

/-- In a lawful list `c` stands once, so it alone takes the record. -/
theorem map_taken_split (n : Nat) : (l ++ c :: m).map (c.taken n) = l ++ c.take n :: m := by
  have other {d : Candidate} (h : d ≠ c) : c.taken n d = d := if_neg h
  have before : l.map (c.taken n) = l.map id :=
    List.map_congr_left fun d hd => other fun e => candidatesLawful_before lawful d hd (e ▸ ⟨rfl, rfl⟩)
  have after : m.map (c.taken n) = m.map id :=
    List.map_congr_left fun d hd => other fun e => candidatesLawful_after lawful d hd (e ▸ ⟨rfl, rfl⟩)
  rw [List.map_append, List.map_cons, before, after, List.map_id, List.map_id, Candidate.taken, if_pos rfl]

end

/-! ### The level notices (R126) -/

/-- The level is 256 or 512, so at most one notice is queued. -/
theorem levelNotices_eq (s : State) :
    levelNotices s =
      if s.plm.log.length = 256 ∧ s.plm.half = false then notify (.pullLog .half) { s with plm := { s.plm with half := true } }
      else if s.plm.log.length = 512 then notify (.pullLog .full) s else s := by
  by_cases half : s.plm.log.length = 256 ∧ s.plm.half = false
  · obtain ⟨length, low⟩ := half
    simp [levelNotices, Config.logHalf, Config.logRoom, length, low]
  · simp only [levelNotices, Config.logHalf, Config.logRoom, half, if_false]

theorem levelNotices_trc (s : State) : (levelNotices s).trc = s.trc := by
  rw [levelNotices_eq]
  split
  · exact notify_trc ..
  · split
    · exact notify_trc ..
    · rfl

@[simp] theorem raiseAlarm_plm (c : AlarmCode) (sc : AlarmScope) (d : Nat) (s : State) : (raiseAlarm c sc d s).plm = s.plm :=
  (congrArg State.plm (raiseAlarm_apart c sc d s) :)

@[simp] theorem clearAlarm_plm (c : AlarmCode) (sc : AlarmScope) (s : State) : (clearAlarm c sc s).plm = s.plm :=
  (congrArg State.plm (clearAlarm_apart c sc s) :)

@[simp] theorem raiseAlarm_trc (c : AlarmCode) (sc : AlarmScope) (d : Nat) (s : State) : (raiseAlarm c sc d s).trc = s.trc :=
  (congrArg State.trc (raiseAlarm_apart c sc d s) :)

/-- What the level notices look at. -/
def State.level (s : State) : List PullRecord × Bool := (s.plm.log, s.plm.half)

theorem capabilityCheck_level (p : Nat) (s : State) : (capabilityCheck p s).level = s.level := by
  unfold capabilityCheck
  dsimp only
  repeat' split
  all_goals simp [State.level]

theorem countForce_level (p f : Nat) (s : State) : (countForce p f s).level = s.level := by
  unfold countForce
  dsimp only
  split
  · rfl
  · exact capabilityCheck_level ..

theorem weighHold_level (p m : Nat) (s : State) : (weighHold p m s).level = s.level := by
  unfold weighHold
  dsimp only
  split <;> simp [State.level]

/-- The statistics and the hold leave the level of the log. -/
theorem weighRecord_level (p : Nat) (o : PullOutcome) (s : State) : (weighRecord p o s).level = s.level := by
  unfold weighRecord
  split
  · exact countForce_level ..
  · exact (weighHold_level ..).trans (countForce_level ..)
  · rfl

/-! ### The append (R124) -/

/-- The state in which `x` has joined the log and `c` has taken its number. -/
def appended (r : StripRecord) (c : Candidate) (x : PullRecord) (s : State) : State :=
  { s with
    trc := { s.trc with post := some { r with candidates := r.candidates.map (c.taken s.plm.nextRecord) } }
    plm := { s.plm with log := s.plm.log ++ [x], nextRecord := (s.plm.nextRecord + 1) % 65536 } }

section
variable {r : StripRecord} {c : Candidate} (hr : s.trc.post = some r) (lawful : candidatesLawful r.candidates)
  (hc : c ∈ r.candidates)
include hr lawful hc

theorem recordCandidate_eq_levelNotices (o : PullOutcome) :
    recordCandidate r c o s = levelNotices (weighRecord r.program o (appended r c (s.pullRecord r c o) s)) := by
  obtain ⟨l, m, split⟩ := List.append_of_mem hc
  rw [split] at lawful
  have found : candidateIndex r.candidates c.unit c.wire = some l.length :=
    split ▸ candidateIndex_append_cons ⟨rfl, rfl⟩ (candidatesLawful_before lawful)
  have post : (appendRecord (s.pullRecord r c o) s).strip .post = some r := hr
  rw [recordCandidate, modStrip_eq post, found, appended, split, map_taken_split lawful, ← modifyAt_append_cons]
  rfl

/-- Steps 1 to 4 of the append. -/
theorem recordCandidate_eq (o : PullOutcome) :
    let t := weighRecord r.program o (appended r c (s.pullRecord r c o) s)
    recordCandidate r c o s =
      if s.plm.log.length + 1 = 256 ∧ s.plm.half = false then notify (.pullLog .half) { t with plm := { t.plm with half := true } }
      else if s.plm.log.length + 1 = 512 then notify (.pullLog .full) t else t := by
  intro t
  obtain ⟨log, half⟩ := Prod.mk.inj (weighRecord_level r.program o (appended r c (s.pullRecord r c o) s))
  have length : t.plm.log.length = s.plm.log.length + 1 := by rw [log]; exact List.length_append
  rw [recordCandidate_eq_levelNotices hr lawful hc, levelNotices_eq, length, half]
  rfl

end

/-! ### The next candidate (R120) -/

/-- The candidate needs no record any more. -/
def Candidate.decided (c : Candidate) : Prop := c.record ≠ none ∨ c.status = .cancelled

theorem open_iff {c : Candidate} : c.open_ = true ↔ ¬c.decided := by
  simp [Candidate.open_, Candidate.decided]

theorem nextCandidate_eq_none {r : StripRecord} : r.nextCandidate = none ↔ ∀ c ∈ r.candidates, c.decided := by
  simp [StripRecord.nextCandidate, List.find?_eq_none, open_iff]

/-- The next candidate is the first that is not decided. -/
theorem nextCandidate_eq_some {r : StripRecord} {c : Candidate} :
    r.nextCandidate = some c ↔ ¬c.decided ∧ ∃ l m, r.candidates = l ++ c :: m ∧ ∀ d ∈ l, d.decided := by
  simp [StripRecord.nextCandidate, List.find?_eq_some_iff_append, open_iff, ← Bool.not_eq_true]

/-! ### A round of the work on the strip at POST (R120) -/

/-- PLM works on the strip `r`. -/
def State.worksOn (s : State) (r : StripRecord) : Prop := r.state = .pulling ∧ r.scrapped = false ∧ s.plm.req = none

section
variable {r : StripRecord} (hr : s.trc.post = some r)
include hr

theorem workPost_idle (n : Nat) (h : ¬s.worksOn r) : workPost n s = s := by
  cases n with
  | zero => rfl
  | succ n =>
    simp only [workPost, hr]
    exact if_neg (by simpa [State.worksOn] using h)

theorem workPost_done (n : Nat) (h : s.worksOn r) (all : ∀ c ∈ r.candidates, c.decided) :
    workPost (n + 1) s = s.setStrip .post (some { r with state := .done }) := by
  obtain ⟨pulling, live, free⟩ := h
  simp only [workPost, hr, pulling, live, free, nextCandidate_eq_none.mpr all, modStrip_eq (p := .post) hr]
  rfl

/-- A round that finds a next candidate waits for a place in the log, records a candidate NOT_BONDED, or has nothing to do. -/
theorem workPost_next (n : Nat) {c : Candidate} (h : s.worksOn r) (next : r.nextCandidate = some c) :
    workPost (n + 1) s =
      if 512 ≤ s.plm.log.length then enterLogWait r s
      else if c.status = .notBonded then workPost n (recordCandidate r c { verdict := .notBonded } s) else s := by
  obtain ⟨pulling, live, free⟩ := h
  simp only [workPost, hr, pulling, live, free, next]
  rfl

theorem enterLogWait_eq :
    enterLogWait r s =
      if r.logWait then s
      else raiseAlarm .pullLogFull .track r.seq (notify (.pullLog .full) (s.setStrip .post (some { r with logWait := true }))) := by
  rw [enterLogWait, modStrip_eq (p := .post) hr]

end

/-! ### Rounds enough (R120) -/

/-- How many candidates of the list are not decided. -/
def openCount (l : List Candidate) : Nat := l.countP (·.open_)

/-- Recording takes one candidate off those that are not decided. -/
theorem openCount_taken {l : List Candidate} {c : Candidate} (n : Nat) (lawful : candidatesLawful l) (hc : c ∈ l)
    (undecided : ¬c.decided) : openCount (l.map (c.taken n)) + 1 = openCount l := by
  obtain ⟨a, b, rfl⟩ := List.append_of_mem hc
  have recorded : (c.take n).open_ = false := rfl
  rw [map_taken_split lawful, openCount, openCount, List.countP_append, List.countP_append,
    List.countP_cons_of_neg (by simp [recorded]), List.countP_cons_of_pos (open_iff.mpr undecided)]
  rfl

/-- A record NOT_BONDED joins no statistics (R124 step 3). -/
theorem recordCandidate_notBonded_post {r : StripRecord} {c : Candidate} (hr : s.trc.post = some r)
    (lawful : candidatesLawful r.candidates) (hc : c ∈ r.candidates) :
    (recordCandidate r c { verdict := .notBonded } s).trc.post =
      some { r with candidates := r.candidates.map (c.taken s.plm.nextRecord) } := by
  rw [recordCandidate_eq_levelNotices hr lawful hc, levelNotices_trc]
  rfl

/-- More rounds than there are candidates to decide change nothing more. -/
theorem workPost_enough {n m : Nat} {r : StripRecord} (hr : s.trc.post = some r) (lawful : candidatesLawful r.candidates)
    (hn : openCount r.candidates < n) (hm : openCount r.candidates < m) : workPost n s = workPost m s := by
  induction n generalizing m s r with
  | zero => exact absurd hn (Nat.not_lt_zero _)
  | succ n ih =>
    obtain ⟨m, rfl⟩ : ∃ k, m = k + 1 := ⟨m - 1, by omega⟩
    by_cases works : s.worksOn r
    · cases next : r.nextCandidate with
      | none =>
        have all := nextCandidate_eq_none.mp next
        rw [workPost_done hr n works all, workPost_done hr m works all]
      | some c =>
        obtain ⟨undecided, l, k, split, -⟩ := nextCandidate_eq_some.mp next
        have hc : c ∈ r.candidates := split ▸ List.mem_append_cons_self
        have fewer := openCount_taken s.plm.nextRecord lawful hc undecided
        have rest := ih (m := m) (recordCandidate_notBonded_post hr lawful hc) (map_candidates_lawful _ (taken_pair c _) lawful)
          (by show openCount (r.candidates.map _) < n; omega) (by show openCount (r.candidates.map _) < m; omega)
        rw [workPost_next hr n works next, workPost_next hr m works next, rest]
    · rw [workPost_idle hr _ works, workPost_idle hr _ works]

theorem pullWork_records {r : StripRecord} {c : Candidate} (hr : s.trc.post = some r) (lawful : candidatesLawful r.candidates)
    (works : s.worksOn r) (next : r.nextCandidate = some c) (room : s.plm.log.length < 512) (unbonded : c.status = .notBonded) :
    pullWork s = pullWork (recordCandidate r c { verdict := .notBonded } s) := by
  obtain ⟨undecided, l, m, split, -⟩ := nextCandidate_eq_some.mp next
  have hc : c ∈ r.candidates := split ▸ List.mem_append_cons_self
  have fewer := openCount_taken s.plm.nextRecord lawful hc undecided
  have most : openCount r.candidates ≤ 48 := List.countP_le_length.trans lawful.1
  have round : pullWork s = workPost 48 (recordCandidate r c { verdict := .notBonded } s) :=
    (workPost_next hr 48 works next).trans ((if_neg (Nat.not_le.mpr room)).trans (if_pos unbonded))
  rw [round]
  refine workPost_enough (recordCandidate_notBonded_post hr lawful hc) (map_candidates_lawful _ (taken_pair c _) lawful) ?_ ?_
  · show openCount (r.candidates.map _) < 48
    omega
  · show openCount (r.candidates.map _) < 49
    omega

/-- Settles O55: the append is `recordCandidate_eq`, a round of the work `workPost_next`, and the rounds do not run out
(`pullWork_records`). -/
theorem recordsJoinTheLog : Obligations.RecordsJoinTheLog := by
  intro s r hr lawful n at_
  refine ⟨fun c o hc => recordCandidate_eq hr lawful hc o, ?work⟩
  intro works decided
  refine ⟨workPost_idle hr _, workPost_done hr 48, fun on c l m split before undecided => ?_⟩
  have next : r.nextCandidate = some c := nextCandidate_eq_some.mpr ⟨undecided, l, m, split, before⟩
  have round := workPost_next hr 48 on next
  refine ⟨fun full => ?_, fun room bonded => ?_, pullWork_records hr lawful on next⟩
  · exact round.trans ((if_pos full).trans (enterLogWait_eq hr))
  · exact round.trans ((if_neg (Nat.not_le.mpr room)).trans (if_neg bonded))

end Sys2Proof.Machine
end

section
/-! SUPPORT. Pull requests: when one is sent, its result and its timeout (R120 to R123). -/

namespace Sys2Proof.Machine

variable {s : State}

/-! ### When a request is sent (R120 step 3) -/

theorem stopsNeither_iff {a b : AlarmScope} :
    (¬s.stopped a = true ∧ ¬s.stopped b = true) ↔
      ∀ e ∈ s.alc.list, isStop e.code = true → e.state ≠ .activeAcked → e.scope ≠ a ∧ e.scope ≠ b := by
  rw [stopped_iff, stopped_iff]
  grind

theorem pullFree_iff :
    s.pullFree = true ↔ s.plm.req = none ∧ s.plm.log.length < 512 ∧ (s.ccs.cell = .run ∨ s.ccs.cell = .drain) ∧
      s.ccs.feedPause = false ∧ s.addrOf .pull ≠ none ∧
      ∀ e ∈ s.alc.list, isStop e.code = true → e.state ≠ .activeAcked → e.scope ≠ .track ∧ e.scope ≠ .cell := by
  rw [← stopsNeither_iff]
  simp only [State.pullFree, Bool.and_eq_true, working_iff, Bool.not_eq_true', Bool.not_eq_true, Option.isSome_iff_ne_none,
    Option.isNone_iff_eq_none, decide_eq_true_eq]
  unfold Config.logRoom
  tauto

theorem nextBonded_iff {r : StripRecord} {c : Candidate} :
    (r.nextCandidate = some c ∧ c.status = .bonded) ↔
      c.record = none ∧ c.status = .bonded ∧ ∃ l m, r.candidates = l ++ c :: m ∧ ∀ d ∈ l, d.decided := by
  rw [nextCandidate_eq_some]
  have undecided : c.status = .bonded → (¬c.decided ↔ c.record = none) := fun h => by simp [Candidate.decided, h]
  tauto

theorem pullTarget_eq_some {r : StripRecord} {c : Candidate} :
    s.pullTarget = some (r, c) ↔ s.trc.post = some r ∧ r.state = .pulling ∧ r.scrapped = false ∧
      (r.nextCandidate = some c ∧ c.status = .bonded) ∧ s.pullFree = true := by
  unfold State.pullTarget
  cases s.trc.post with
  | none => simp
  | some x =>
    by_cases ready : x.state = .pulling ∧ x.scrapped = false ∧ s.pullFree = true
    · simp only [if_pos ready]
      cases next : x.nextCandidate with
      | none => grind
      | some d => grind
    · simp only [if_neg ready]
      grind

theorem onPullReq_idle (h : ∀ r c, s.pullTarget ≠ some (r, c)) : onPullReq s = s := by
  have none : s.pullTarget = none := Option.eq_none_iff_forall_ne_some.mpr fun x => h x.1 x.2
  rw [onPullReq, none]

theorem onPullReq_sends {r : StripRecord} {c : Candidate} (h : s.pullTarget = some (r, c)) : onPullReq s = sendPull r c s := by
  rw [onPullReq, h]

/-! ### The candidate of a request (R122, R123) -/

/-- The pair of the request is found in the strip at POST with its sequence number, `c` the first candidate that names it. -/
theorem recordRequest_eq {q : PullRequest} {r : StripRecord} {c : Candidate} {l m : List Candidate} (hr : s.trc.post = some r)
    (same : r.seq = q.seq) (names : c.unit = q.unit ∧ c.wire = q.wire) (split : r.candidates = l ++ c :: m)
    (first : ∀ d ∈ l, ¬(d.unit = c.unit ∧ d.wire = c.wire)) (o : StripRecord → PullOutcome) :
    recordRequest q o s = recordCandidate r c (o r) s := by
  have found : (r.candidates.find? fun d => d.unit == q.unit && d.wire == q.wire) = some c := by
    rw [names.1, names.2] at first
    refine List.find?_eq_some_iff_append.mpr ⟨by simp [names], l, m, split, fun d hd => ?_⟩
    simpa [imp_iff_not_or] using first d hd
  simp only [recordRequest, hr, same, found, if_true]

/-! ### Results (R122) -/

/-- The outcome of a result, with the limits of its mode or the default limits (R122 steps 1 to 4, R114). -/
theorem pullOutcome_eq (p force mode : Nat) (status : StationStatus) (s : State) :
    let e := s.plm.limits.getD p {}
    let limit : ModeLimit :=
      if e.valid then [e.m1, e.m2, e.m3, e.m4, e.m5].getD (mode - 1) {}
      else if mode = 1 ∨ mode = 5 then { rejectAlways := true } else {}
    s.pullOutcome p force mode status =
      match status with
      | .ok =>
        if 1 ≤ mode ∧ mode ≤ 5 then
          { force := some (min force 65000), mode := some mode, status := some .ok
            verdict := if limit.minForce ≤ min force 65000 ∧ limit.rejectAlways = false then .pass else .fail }
        else { status := some .testerFault, verdict := .noResult }
      | .noHook => { status := some .noHook, verdict := .noResult }
      | .testerFault => { status := some .testerFault, verdict := .noResult } := by
  intro e limit
  cases status with
  | noHook => rfl
  | testerFault => rfl
  | ok =>
    by_cases known : 1 ≤ mode ∧ mode ≤ 5
    · have judged : modeLimit (s.limitsOf p) mode = limit := modeLimit_limitsOf known.1 known.2
      simp only [State.pullOutcome, if_pos known, judged, judge]
    · exact (if_neg known).trans (if_neg known).symm

theorem onPullResult_discarded {tag : Byte} {force mode : Nat} {status : StationStatus} (h : ∀ q, s.plm.req = some q → q.tag ≠ tag) :
    onPullResult tag force mode status s = s := by
  unfold onPullResult
  split
  · exact if_neg (h _ ‹_›)
  · rfl

theorem onPullResult_matching {q : PullRequest} (hq : s.plm.req = some q) (force mode : Nat) (status : StationStatus) :
    onPullResult q.tag force mode status s =
      clearAlarm .pullStation .track (pullWork (recordRequest q (fun r => s.pullOutcome r.program force mode status)
        { s with plm := { s.plm with req := none, timeouts := 0 } })) := by
  simp only [onPullResult, hq, if_true]

theorem pullResult_ends {src tag : Byte} {force mode : Nat} {status : StationStatus} {x : State} (h : s.hears src .pull true)
    (hx : onPullResult tag force mode status s = x) : Ends (exec (.pullResult src tag force mode status) s) x :=
  fieldArrive_ends h rfl (fun _ => rfl) hx

/-! ### The timeout (R123) -/

theorem onPullTimeout_early (h : ∀ q, s.plm.req = some q → (s.ccs.timebase - q.sendTime).toNat < 5000) : onPullTimeout s = s := by
  unfold onPullTimeout
  split
  · exact if_neg fun due => absurd (of_decide_eq_true due) (Nat.not_le.mpr (h _ ‹_›))
  · rfl

theorem onPullTimeout_due {q : PullRequest} (hq : s.plm.req = some q) (due : 5000 ≤ (s.ccs.timebase - q.sendTime).toNat) :
    let n := min 255 (s.plm.timeouts + 1)
    let t := raiseAlarm .pullTimeout .track (q.unit * 1000 + q.wire) { s with plm := { s.plm with req := none, timeouts := n } }
    onPullTimeout s =
      pullWork (recordRequest q (fun _ => { verdict := .noResult }) (if 3 ≤ n then raiseAlarm .pullStation .track n t else t)) := by
  intro n t
  simp only [onPullTimeout, hq]
  exact if_pos (decide_eq_true due)

/-- Settles O54: a request is sent where `pullTarget_eq_some` says, and one that ends is recorded by `recordRequest_eq`. -/
theorem pullsAreRequestedAndJudged : Obligations.PullsAreRequestedAndJudged := by
  intro s p finds
  refine ⟨fun hi => ?request, fun src tag force mode status heard => ?result, fun hi => ⟨fun early => ?early, ?due⟩⟩
  case request =>
    intro next sends
    have target {r : StripRecord} {c : Candidate} : s.pullTarget = some (r, c) ↔ sends r c := by
      rw [pullTarget_eq_some, nextBonded_iff, pullFree_iff]
      rfl
    refine ⟨fun no => act_ends_of_eq hi (onPullReq_idle fun r c h => no r c (target.mp h)), fun r c h => ?_⟩
    exact act_ends_of_eq hi (onPullReq_sends (target.mpr h))
  case result =>
    refine ⟨fun other => pullResult_ends heard (onPullResult_discarded other), fun q r c hq ht found => ?_⟩
    obtain ⟨hr, same, unit, wire, l, m, split, first⟩ := found
    subst ht
    have recorded := recordRequest_eq (s := { s with plm := { s.plm with req := none, timeouts := 0 } }) hr same ⟨unit, wire⟩ split
      first fun x => s.pullOutcome x.program force mode status
    refine pullResult_ends heard ((onPullResult_matching hq force mode status).trans ?_)
    rw [recorded]
    exact congrArg (fun o => clearAlarm .pullStation .track (pullWork (recordCandidate r c o _)))
      (pullOutcome_eq r.program force mode status s)
  case early => exact act_ends_of_eq hi (onPullTimeout_early early)
  case due =>
    intro q r c hq due ⟨hr, same, unit, wire, l, m, split, first⟩ n t
    have post : (if 3 ≤ n then raiseAlarm .pullStation .track n t else t).trc.post = some r := by
      rw [apply_ite State.trc, raiseAlarm_trc, ite_self, raiseAlarm_trc]
      exact hr
    refine act_ends_of_eq hi ((onPullTimeout_due hq due).trans ?_)
    rw [recordRequest_eq post same ⟨unit, wire⟩ split first]

end Sys2Proof.Machine
end

section
/-! SUPPORT. ALARM_READ and ALARM_ACK (R143, R144, R147), and the end of a stop effect (R146). -/

namespace Sys2Proof.Machine

-- In this and the sections below proofs are elaborated one after another, which keeps the compile within its memory limit.
set_option Elab.async false

variable {s : State}

/-! ### The table of codes (R138) -/

/-- The class, STOP or not, and the permitted scopes of a code. -/
def alarmRow : AlarmCode → Bool × (AlarmScope → Prop)
  | .slotMismatch | .inputEmpty => (false, (· = .feeder))
  | .idMismatch | .feedJam => (true, (· = .feeder))
  | .outputFull | .trackJam | .pullStation => (true, (· = .track))
  | .missedWire | .pullTimeout | .pullLogFull => (false, (· = .track))
  | .heatSignal | .estop => (true, (· = .cell))
  | .heatNotReady => (false, (· = .cell))
  | .headFault | .nsop | .nsol => (true, fun x => ∃ h, x = .head h)
  | .pullFail => (true, fun x => ∃ p < 8, x = .program p)
  | .pullCapability => (false, fun x => ∃ p < 8, x = .program p)

theorem isStop_iff_row (c : AlarmCode) : isStop c = true ↔ (alarmRow c).1 = true := by
  cases c <;> rfl

theorem scopeFits_iff_row (sc : AlarmScope) (c : AlarmCode) : scopeFits sc c = true ↔ (alarmRow c).2 sc := by
  cases c with
  | headFault | nsop | nsol =>
    cases sc with
    | head h => exact iff_of_true rfl ⟨h, rfl⟩
    | _ => exact iff_of_false nofun fun ⟨_, other⟩ => nomatch other
  | pullFail | pullCapability =>
    cases sc with
    | program p =>
      refine decide_eq_true_iff.trans ⟨fun small => ⟨p, small, rfl⟩, ?_⟩
      rintro ⟨_, small, same⟩
      cases same
      exact small
    | _ => exact iff_of_false nofun fun ⟨_, _, other⟩ => nomatch other
  | _ => exact decide_eq_true_iff

theorem isEvent_iff (c : AlarmCode) : isEvent c = true ↔ c = .slotMismatch ∨ c = .missedWire ∨ c = .pullTimeout := by
  constructor
  · intro event
    cases c with
    | slotMismatch => exact .inl rfl
    | missedWire => exact .inr (.inl rfl)
    | pullTimeout => exact .inr (.inr rfl)
    | _ => cases event
  · rintro (rfl | rfl | rfl) <;> rfl

/-! ### The position of a listed entry (R137) -/

theorem findAlarm_of_lists {c : AlarmCode} {sc : AlarmScope} {i : Nat} {e : AlarmEntry} (h : s.lists c sc i e) :
    s.findAlarm c sc = some i := by
  obtain ⟨he, code, scope, first⟩ := h
  obtain ⟨inside, rfl⟩ := List.getElem?_eq_some_iff.mp he
  refine List.findIdx?_eq_some_iff_getElem.mpr ⟨inside, by simp [code, scope], fun j hj => ?_⟩
  simpa using first j _ hj (List.getElem?_eq_getElem (hj.trans inside))

/-! ### The end of a stop effect (R146) -/

theorem dropAlarmReason_eq (h : Head) (s : State) :
    dropAlarmReason h s =
      if (s.head h).state ≠ .off ∧
          ∀ e ∈ s.alc.list, isStop e.code = true → e.state ≠ .activeAcked → e.scope ≠ .head h ∧ e.scope ≠ .cell
      then removeReason .alarm h s else s := by
  refine if_congr (and_congr_right fun _ => ?_) rfl rfl
  rw [← stopsNeither_iff, State.alarmHolds, Bool.not_eq_true', Bool.or_eq_false_iff, Bool.not_eq_true, Bool.not_eq_true]

theorem effective_iff {e : AlarmEntry} : e.effective = true ↔ isStop e.code = true ∧ e.state ≠ .activeAcked := by
  simp [AlarmEntry.effective]

theorem removeAlarm_eq {i : Nat} {e : AlarmEntry} (he : s.alc.list[i]? = some e) :
    let t := notify (.alarm e.code e.scope .removed e.detail e.repeats) (s.setAlarms (s.alc.list.eraseIdx i))
    removeAlarm i s = if isStop e.code = true ∧ e.state ≠ .activeAcked then effectEnded e.scope t else t := by
  simp only [removeAlarm, he, effective_iff]
  rfl

/-! ### ALARM_ACK (R144) -/

theorem ackListed_of_lists {c : AlarmCode} {sc : AlarmScope} {i : Nat} {e : AlarmEntry} (h : s.lists c sc i e) :
    ackListed c sc s =
      (if e.state = .activeAcked ∨ e.shown = false then s else ackEntry i e s,
       { result := if e.state = .activeAcked then .notFound else if e.shown then .ok else .notShown }) := by
  simp only [ackListed, findAlarm_of_lists h, h.1]
  by_cases acked : e.state = .activeAcked
  · simp [acked, refuse]
  · cases shown : e.shown <;> simp [acked, refuse, accept]

/-- What the acknowledgment of an entry that is not acknowledged does. -/
theorem ackEntry_eq {i : Nat} {e : AlarmEntry} (he : s.alc.list[i]? = some e) (unacked : e.state ≠ .activeAcked) :
    let ended (t : State) : State := if isStop e.code = true then effectEnded e.scope t else t
    ackEntry i e s =
      if e.state = .active then
        ended (notify (.alarm e.code e.scope .activeAcked e.detail e.repeats)
          (s.setAlarms (s.alc.list.set i { e with state := .activeAcked })))
      else
        ended (notify (.alarm e.code e.scope .removed e.detail e.repeats) (s.setAlarms (s.alc.list.eraseIdx i))) := by
  unfold ackEntry
  cases state : e.state with
  | active => rfl
  | activeAcked => exact absurd state unacked
  | cleared =>
    simp only [removeAlarm_eq he, state]
    simp

/-- Settles O21: the checks are those of `onAlarmAck`, the effect that of `ackEntry_eq`, and a head is looked at as
`dropAlarmReason_eq` says. -/
theorem acknowledgmentsFollowTheTable : Obligations.AcknowledgmentsFollowTheTable := by
  intro s u tag code scope feeder track cell head program row r drop ended
  have serves {c : Option AlarmCode} {sc : Option AlarmScope} {x : State} {result : ResultCode}
      (hx : onAlarmAck c sc u = (x, { result := result })) : Serves (.alarmAck tag c sc) tag (.alarmAck c sc) s u x result :=
    serves_of_eq (exec_alarmAck tag c sc s) hx
  have fits {x : Served} (fit : scopeFits scope code = true) (hx : ackListed code scope u = x) :
      onAlarmAck (some code) (some scope) u = x := (if_pos fit).trans hx
  have table : row code = alarmRow code := by cases code <;> rfl
  refine ⟨table ▸ isStop_iff_row code, table ▸ scopeFits_iff_row scope code, fun sc => serves rfl, fun c => serves ?_,
    fun misfit => serves (if_neg (by simp [misfit])), fun fit none_ => serves (fits fit ?_), fun fit i e listed => serves (fits fit ?_)⟩
  · cases c <;> rfl
  · rw [ackListed, findAlarm_eq_none none_]
    rfl
  · have drops : drop = dropAlarmReason := funext fun h => funext fun t => (dropAlarmReason_eq h t).symm
    have ends (t : State) : (if isStop code = true then effectEnded scope t else t) = ended t := by
      simp only [ended, drops]
      cases scope <;> rfl
    rw [ackListed_of_lists listed]
    refine congrArg (·, _) ?_
    obtain ⟨he, rfl, rfl, -⟩ := listed
    split
    · rfl
    · rename_i shown
      rw [ackEntry_eq he (mt Or.inl shown)]
      simp only [ends]
      rfl

/-! ### ALARM_READ (R147) -/

theorem markShown_eq (first count : Nat) (l : List AlarmEntry) (k : Nat) :
    markShown first count l k =
      l.mapIdx fun i e => if first ≤ i + k ∧ i + k < first + count then { e with shown := true } else e := by
  induction l generalizing k with
  | nil => rfl
  | cons e l ih =>
    rw [markShown, ih, List.mapIdx_cons]
    simp only [Nat.zero_add, Nat.add_right_comm _ 1 k, Nat.add_assoc]

/-- Past its first positions a list is read from its start. -/
theorem readAlarms_eq (first count : Nat) (l : List AlarmEntry) (k : Nat) :
    readAlarms first count l k =
      (((l.drop (first - k)).take (first + count - max first k)).zipIdx (max first k)).map fun x => (x.2, x.1) := by
  induction l generalizing k with
  | nil => simp [readAlarms]
  | cons e l ih =>
    rw [readAlarms, ih]
    by_cases before : k < first
    · have next : first - k = first - (k + 1) + 1 := by omega
      have same : max first (k + 1) = max first k := by omega
      rw [if_neg (by omega), next, List.drop_succ_cons, same]
    · have here : max first k = k := by omega
      have next : max first (k + 1) = k + 1 := by omega
      rw [show first - k = 0 by omega, show first - (k + 1) = 0 by omega, here, next, List.drop_zero, List.drop_zero]
      by_cases inside : k < first + count
      · have room : first + count - k = first + count - (k + 1) + 1 := by omega
        rw [if_pos ⟨by omega, inside⟩, room, List.take_succ_cons, List.zipIdx_cons, List.map_cons]
      · rw [if_neg (by omega), show first + count - k = 0 by omega, show first + count - (k + 1) = 0 by omega]
        rfl

/-- Settles O22: the reads and the marks are those of the whole list (`readAlarms_eq`, `markShown_eq`). -/
theorem alarmReadsShowTheirEntries : Obligations.AlarmReadsShowTheirEntries := by
  intro s u tag first count c r a
  have serves {x : State} {result : ResultCode} (hx : onAlarmRead first count u = (x, { result := result })) :
      Serves c tag r s u x result := serves_of_eq (exec_alarmRead tag first count s) hx
  refine ⟨fun far => serves (if_pos far), fun near bad => serves ?_, fun near some_ few takes => ?_⟩
  · exact (if_neg (Nat.not_le.mpr near)).trans (if_pos (by omega))
  · refine act_serve_answers_of_eq takes ?_
    have good : ¬(count < 1 ∨ 4 < count) := by omega
    refine (if_neg (Nat.not_le.mpr near)).trans ((if_neg good).trans ?_)
    rw [readAlarms_eq, markShown_eq, Nat.max_eq_left (Nat.zero_le first), Nat.add_sub_cancel_left]
    rfl

end Sys2Proof.Machine
end

section
/-! SUPPORT. Raises and condition clears (R139 to R142, R145, R146, R148). -/

namespace Sys2Proof.Machine

set_option Elab.async false

variable {s : State}

/-! ### What the work on holds and claims leaves (R49, R62, R63, R67, R146)

The end or the start of a stop effect on a head moves the head, and may start its wire: heads, unit records, votes, free choices
and the part's own frames. -/

/-- The state without what the end or the start of a stop effect may touch. -/
def State.beyondHeads (s : State) : State :=
  { s with heads := ⟨{}, {}⟩, vcu := {}, free := 0, usc := { s.usc with units := none }, lif := { s.lif with own := [] } }

@[simp] theorem sendOwn_beyondHeads (r : Role) (b : OwnBody) (s : State) : (sendOwn r b s).beyondHeads = s.beyondHeads := by
  rw [sendOwn_eq]; rfl

@[simp] theorem modHead_beyondHeads (h : Head) (f : HeadCtx → HeadCtx) (s : State) :
    (s.modHead h f).beyondHeads = s.beyondHeads := rfl

@[simp] theorem modUnit_beyondHeads (u : Nat) (f : UnitRecord → UnitRecord) (s : State) :
    (s.modUnit u f).beyondHeads = s.beyondHeads := rfl

@[simp] theorem clearVotes_beyondHeads (h : Head) (s : State) : (clearVotes h s).beyondHeads = s.beyondHeads := rfl

@[simp] theorem setHeadState_beyondHeads (h : Head) (st : HeadState) (s : State) :
    (setHeadState h st s).beyondHeads = s.beyondHeads := rfl

@[simp] theorem holdForProgram_beyondHeads (h : Head) (s : State) : (holdForProgram h s).beyondHeads = s.beyondHeads := rfl

@[simp] theorem awaitEvent_beyondHeads (h : Head) (e : AwaitedEvent) (ms : Nat) (s : State) :
    (awaitEvent h e ms s).beyondHeads = s.beyondHeads := rfl

@[simp] theorem commandHead_beyondHeads (h : Head) (c : HeadCmd) (s : State) :
    (commandHead h c s).beyondHeads = s.beyondHeads := by
  simp [commandHead, sendHeadCmd]

@[simp] theorem startWire_beyondHeads (h : Head) (u : Nat) (s : State) : (startWire h u s).beyondHeads = s.beyondHeads := by
  unfold startWire
  split
  · split <;> simp
  · rfl

@[simp] theorem askUnit_beyondHeads (h : Head) (s : State) : (askUnit h s).beyondHeads = s.beyondHeads := by
  unfold askUnit claimUnit
  repeat' split
  all_goals simp

@[simp] theorem leaveHold_beyondHeads (h : Head) (s : State) : (leaveHold h s).beyondHeads = s.beyondHeads := by
  unfold leaveHold enterIdle
  split <;> simp

@[simp] theorem removeReason_beyondHeads (r : HoldReason) (h : Head) (s : State) :
    (removeReason r h s).beyondHeads = s.beyondHeads := by
  rw [removeReason_eq]
  repeat' split
  all_goals simp

@[simp] theorem addReason_beyondHeads (r : HoldReason) (h : Head) (s : State) :
    (addReason r h s).beyondHeads = s.beyondHeads := by
  rw [addReason_eq]
  split <;> rfl

@[simp] theorem effectEnded_beyondHeads (sc : AlarmScope) (s : State) : (effectEnded sc s).beyondHeads = s.beyondHeads := by
  have drop (h : Head) (s : State) : (dropAlarmReason h s).beyondHeads = s.beyondHeads := by
    unfold dropAlarmReason
    split <;> simp
  cases sc with
  | head h => exact drop h s
  | cell =>
    unfold effectEnded eachHead
    dsimp only
    repeat' split
    all_goals simp only [drop]
    all_goals rfl
  | feeder | track | program => rfl

@[simp] theorem becomeEffective_beyondHeads (c : AlarmCode) (sc : AlarmScope) (s : State) :
    (becomeEffective c sc s).beyondHeads = s.beyondHeads := by
  unfold becomeEffective
  repeat' split
  all_goals simp

/-- States that agree beyond the heads have the same notices, terminals and forwarding table. -/
theorem beyondHeads_fields {t : State} (h : t.beyondHeads = s.beyondHeads) :
    t.noticeQueue = s.noticeQueue ∧ t.tmc = s.tmc ∧ t.lif.forwarding = s.lif.forwarding := by
  have link : { t.lif with own := [] } = { s.lif with own := [] } := congrArg State.lif h
  refine ⟨?_, (congrArg State.tmc h :), (congrArg Lif.forwarding link :)⟩
  unfold State.noticeQueue
  rw [(congrArg Lif.notices link :), (congrArg Lif.dropped link :), (congrArg Lif.droppedMark link :),
    (congrArg Lif.stamp link :)]

@[simp] theorem effectEnded_noticeQueue (sc : AlarmScope) (s : State) : (effectEnded sc s).noticeQueue = s.noticeQueue :=
  (beyondHeads_fields (effectEnded_beyondHeads sc s)).1

@[simp] theorem becomeEffective_noticeQueue (c : AlarmCode) (sc : AlarmScope) (s : State) :
    (becomeEffective c sc s).noticeQueue = s.noticeQueue :=
  (beyondHeads_fields (becomeEffective_beyondHeads c sc s)).1

/-- Tiles are marked in the terminals' entries alone. -/
theorem forceAlarmTiles_eq (k : Nat) (s : State) :
    eachTerm (forceAlarmTiles k) s = { s with tmc := (eachTerm (forceAlarmTiles k) s).tmc } := by
  have each (t : Term) (s : State) : forceAlarmTiles k t s = { s with tmc := (forceAlarmTiles k t s).tmc } := by
    unfold forceAlarmTiles
    split <;> rfl
  unfold eachTerm
  rw [each .t4, each .t3, each .t2, each .t1]

@[simp] theorem forceAlarmTiles_noticeQueue (k : Nat) (s : State) :
    (eachTerm (forceAlarmTiles k) s).noticeQueue = s.noticeQueue := by
  rw [forceAlarmTiles_eq]; rfl

@[simp] theorem forceAlarmTiles_heads (k : Nat) (s : State) : (eachTerm (forceAlarmTiles k) s).heads = s.heads := by
  rw [forceAlarmTiles_eq]

@[simp] theorem notify_heads (n : Notice) (s : State) : (notify n s).heads = s.heads := by
  rw [notify_eq]

/-- What a notice leaves the queue like depends on the queue alone. -/
theorem notify_noticeQueue_congr {t : State} (n : Notice) (h : t.noticeQueue = s.noticeQueue) :
    (notify n t).noticeQueue = (notify n s).noticeQueue := by
  obtain ⟨notices, rest⟩ := Prod.ext_iff.mp h
  obtain ⟨dropped, rest⟩ := Prod.ext_iff.mp rest
  obtain ⟨mark, stamp⟩ := Prod.ext_iff.mp rest
  simp only [State.noticeQueue] at notices dropped mark stamp
  simp only [notify_eq, State.noticeQueue, notices, dropped, mark, stamp]
  split <;> rfl

/-! ### The start of a stop effect (R146) -/

/-- What the reason adds to a head depends on the heads alone. -/
theorem addReason_heads_congr {t : State} (r : HoldReason) (h : Head) (heads : t.heads = s.heads) :
    (addReason r h t).heads = (addReason r h s).heads := by
  have same : t.head h = s.head h := congrArg (·.get h) heads
  rw [addReason_eq, addReason_eq, same]
  split
  · exact heads
  · simp only [State.modHead_heads, heads]

/-- The heads after an entry of this scope has become effective. -/
def State.concerned (s : State) (sc : AlarmScope) : PerHead HeadCtx :=
  match sc with
  | .head h => (addReason .alarm h s).heads
  | .cell => (addReason .alarm .b (addReason .alarm .a s)).heads
  | .feeder | .track | .program _ => s.heads

theorem becomeEffective_heads {t : State} (c : AlarmCode) (sc : AlarmScope) (heads : t.heads = s.heads) :
    (becomeEffective c sc t).heads = if isStop c = true then s.concerned sc else s.heads := by
  unfold becomeEffective
  split
  · cases sc with
    | head h => exact addReason_heads_congr _ h heads
    | cell => exact addReason_heads_congr _ .b (addReason_heads_congr _ .a heads)
    | feeder | track | program => exact heads
  · exact heads

/-! ### New and repeated entries (R139, R141) -/

theorem appendAlarm_noticeQueue (c : AlarmCode) (sc : AlarmScope) (d : Nat) (s : State) :
    (appendAlarm c sc d s).noticeQueue =
      (notify (.alarm c sc (if isEvent c then .cleared else .active) d 0) s).noticeQueue := by
  simp only [appendAlarm, alarmNotice, becomeEffective_noticeQueue, forceAlarmTiles_noticeQueue]
  exact notify_noticeQueue_congr _ rfl

theorem appendAlarm_heads (c : AlarmCode) (sc : AlarmScope) (d : Nat) (s : State) :
    (appendAlarm c sc d s).heads = if isStop c = true then s.concerned sc else s.heads :=
  becomeEffective_heads c sc (by simp [alarmNotice])

theorem repeatAlarm_noticeQueue (i : Nat) (e : AlarmEntry) (d : Nat) (s : State) :
    (repeatAlarm i e d s).noticeQueue =
      (notify (.alarm e.code e.scope (if isEvent e.code then .cleared else .active) d (min 255 (e.repeats + 1))) s).noticeQueue := by
  simp only [repeatAlarm, alarmNotice, apply_ite State.noticeQueue, becomeEffective_noticeQueue, forceAlarmTiles_noticeQueue,
    ite_self]
  exact notify_noticeQueue_congr _ rfl

theorem repeatAlarm_heads (i : Nat) (e : AlarmEntry) (d : Nat) (s : State) :
    (repeatAlarm i e d s).heads =
      if isStop e.code = true ∧ e.state = .activeAcked then s.concerned e.scope else s.heads := by
  simp only [repeatAlarm, alarmNotice]
  by_cases acked : e.state = .activeAcked
  · rw [if_pos acked, becomeEffective_heads (s := s) e.code e.scope (by simp)]
    exact if_congr (and_iff_left acked).symm rfl rfl
  · rw [if_neg acked]
    simp [acked]

/-! ### Making room (R140) -/

/-- Entry `e` at position `i` is the one that makes room: the oldest CLEARED, else the oldest WARN, else the oldest acknowledged. -/
def makesRoom (l : List AlarmEntry) (i : Nat) (e : AlarmEntry) : Prop :=
  e.state = .cleared ∧ (∀ j < i, ∀ f, l[j]? = some f → f.state ≠ .cleared) ∨
  (∀ f ∈ l, f.state ≠ .cleared) ∧ isStop e.code = false ∧ (∀ j < i, ∀ f, l[j]? = some f → isStop f.code = true) ∨
  (∀ f ∈ l, f.state ≠ .cleared ∧ isStop f.code = true) ∧ e.state = .activeAcked ∧
    (∀ j < i, ∀ f, l[j]? = some f → f.state ≠ .activeAcked)

/-- The first position of a list at which a check holds. -/
theorem findIdx?_of_getElem? {α : Type} {l : List α} {p : α → Bool} {i : Nat} {e : α} (he : l[i]? = some e) (yes : p e = true)
    (first : ∀ j < i, ∀ f, l[j]? = some f → p f = false) : l.findIdx? p = some i := by
  obtain ⟨inside, rfl⟩ := List.getElem?_eq_some_iff.mp he
  refine List.findIdx?_eq_some_iff_getElem.mpr ⟨inside, yes, fun j hj => ?_⟩
  simpa using first j hj _ (List.getElem?_eq_getElem (hj.trans inside))

theorem roomEntry_eq_some {l : List AlarmEntry} {i : Nat} {e : AlarmEntry} (he : l[i]? = some e) (room : makesRoom l i e) :
    roomEntry l = some i := by
  unfold roomEntry
  rcases room with ⟨cleared, first⟩ | ⟨none_, warn, first⟩ | ⟨none_, acked, first⟩
  · rw [findIdx?_of_getElem? he (by simpa using cleared) (by simpa using first)]
    rfl
  · rw [List.findIdx?_eq_none_iff.mpr (by simpa using none_), Option.none_or,
      findIdx?_of_getElem? he (by simpa using warn) (by simpa using first)]
    rfl
  · have stop : isStop e.code = true := (none_ e (List.mem_of_getElem? he)).2
    rw [List.findIdx?_eq_none_iff.mpr (by simpa using fun f hf => (none_ f hf).1), Option.none_or,
      List.findIdx?_eq_none_iff.mpr (by simpa using fun f hf => (none_ f hf).2), Option.none_or]
    exact findIdx?_of_getElem? he (by simp [stop, acked]) fun j hj f hf => by simp [first j hj f hf]

/-- Of the entries that make room only a CLEARED one has a stop effect to end. -/
theorem effective_of_makesRoom {l : List AlarmEntry} {i : Nat} {e : AlarmEntry} (room : makesRoom l i e) :
    (isStop e.code = true ∧ e.state ≠ .activeAcked) ↔ (isStop e.code = true ∧ e.state = .cleared) := by
  rcases room with ⟨cleared, -⟩ | ⟨-, warn, -⟩ | ⟨-, acked, -⟩
  · simp [cleared]
  · simp [warn]
  · simp [acked]

theorem roomEntry_eq_none {l : List AlarmEntry} : roomEntry l = none ↔ ∀ e ∈ l, e.state = .active ∧ isStop e.code = true := by
  simp only [roomEntry, Option.or_eq_none_iff, List.findIdx?_eq_none_iff, ← forall₂_and]
  refine forall₂_congr fun e _ => ?_
  cases e.state <;> simp

/-! ### A raise (R139 to R142) -/

theorem raiseAlarm_of_lists {c : AlarmCode} {sc : AlarmScope} {i : Nat} {e : AlarmEntry} (h : s.lists c sc i e) (d : Nat) :
    raiseAlarm c sc d s = repeatAlarm i e d s := by
  simp only [raiseAlarm, findAlarm_of_lists h, h.1]

theorem raiseAlarm_of_room {c : AlarmCode} {sc : AlarmScope} (h : s.unlists c sc) (room : s.alc.list.length < 32) (d : Nat) :
    raiseAlarm c sc d s = appendAlarm c sc d s := by
  simp only [raiseAlarm, findAlarm_eq_none h]
  exact if_pos room

theorem raiseAlarm_of_full {c : AlarmCode} {sc : AlarmScope} {j : Nat} (h : s.unlists c sc) (full : 32 ≤ s.alc.list.length)
    (room : roomEntry s.alc.list = some j) (d : Nat) : raiseAlarm c sc d s = appendAlarm c sc d (removeAlarm j s) := by
  simp only [raiseAlarm, findAlarm_eq_none h, room]
  exact if_neg (Nat.not_lt.mpr full)

theorem raiseAlarm_of_no_place {c : AlarmCode} {sc : AlarmScope} (h : s.unlists c sc) (full : 32 ≤ s.alc.list.length)
    (none_ : ∀ e ∈ s.alc.list, e.state = .active ∧ isStop e.code = true) (d : Nat) :
    raiseAlarm c sc d s =
      notify (.alarm c sc .notListed d 0) { s with alc := { s.alc with unlisted := min 255 (s.alc.unlisted + 1) } } := by
  simp only [raiseAlarm, findAlarm_eq_none h, roomEntry_eq_none.mpr none_]
  exact if_neg (Nat.not_lt.mpr full)

theorem removeAlarm_noticeQueue {i : Nat} {e : AlarmEntry} (he : s.alc.list[i]? = some e) :
    (removeAlarm i s).noticeQueue = (notify (.alarm e.code e.scope .removed e.detail e.repeats) s).noticeQueue := by
  rw [removeAlarm_eq he, apply_ite State.noticeQueue, effectEnded_noticeQueue, ite_self]
  exact notify_noticeQueue_congr _ rfl

theorem removeAlarm_ccs (i : Nat) (s : State) : (removeAlarm i s).ccs = s.ccs := (apart_fields (removeAlarm_apart i s)).1

/-- Settles O19: a repeat, a new entry, an entry that makes room and a raise without a place, each with its notices and heads. -/
theorem raisesListTheirAlarm : Obligations.RaisesListTheirAlarm := by
  intro code scope detail s feeder track cell head program row t l event new told concerned drop ended
  have table : row code = alarmRow code := by cases code <;> rfl
  have isEvent_iff : isEvent code = true ↔ event := isEvent_iff code
  have state {α : Type} (x y : α) : (if event then x else y) = if isEvent code then x else y := if_congr isEvent_iff.symm rfl rfl
  have drops : drop = dropAlarmReason := funext fun h => funext fun t => (dropAlarmReason_eq h t).symm
  have concerned_eq (u : State) : u.concerned scope = concerned u := by cases scope <;> rfl
  refine ⟨table ▸ isStop_iff_row code, table ▸ scopeFits_iff_row scope code, isEvent_iff, fun i e listed => ?repeated,
    fun none_ room => ?made, fun none_ full i e he room => ?makes, fun none_ full noRoom => raiseAlarm_of_no_place none_ full noRoom _,
    fun none_ room => ?madeHeads, fun i e listed => ?repeatedHeads⟩
  case repeated =>
    simp only [t, raiseAlarm_of_lists listed, repeatAlarm_alc, repeatAlarm_noticeQueue, state, told]
    obtain ⟨he, rfl, rfl, -⟩ := listed
    exact ⟨rfl, rfl⟩
  case made =>
    simp only [t, raiseAlarm_of_room none_ room, appendAlarm_alc, appendAlarm_noticeQueue, state, told, new]
    exact ⟨rfl, trivial⟩
  case makes =>
    have removed : removeAlarm i s = ended e (notify (.alarm e.code e.scope .removed e.detail e.repeats)
        { s with alc := { s.alc with list := l.eraseIdx i } }) := by
      rw [removeAlarm_eq he]
      refine (if_congr (effective_of_makesRoom room) ?_ rfl).trans rfl
      simp only [drops]
      cases e.scope <;> rfl
    simp only [t, raiseAlarm_of_full none_ full (roomEntry_eq_some he room), appendAlarm_heads, concerned_eq, ← removed]
    refine ⟨?_, ?_, trivial⟩
    · rw [appendAlarm_alc, removeAlarm_alc, State.now, removeAlarm_ccs]
      simp only [new, state]
      rfl
    · simp only [told, state]
      rw [appendAlarm_noticeQueue, notify_noticeQueue_congr _ (removeAlarm_noticeQueue he)]
  case madeHeads =>
    simp only [t, raiseAlarm_of_room none_ room, appendAlarm_heads, concerned_eq]
  case repeatedHeads =>
    simp only [t, raiseAlarm_of_lists listed, repeatAlarm_heads]
    obtain ⟨he, rfl, rfl, -⟩ := listed
    simp only [concerned_eq]

end Sys2Proof.Machine
end

section
/-! SUPPORT. Condition clears, and the alarms left CLEARED by their raise (R142). -/

namespace Sys2Proof.Machine

set_option Elab.async false

variable {s : State}

/-! ### The entries left in a list -/

theorem exists_mem_set_iff {α : Type} {P : α → Prop} {l : List α} {i : Nat} {e e' : α} (he : l[i]? = some e)
    (same : P e' ↔ P e) : (∃ f ∈ l.set i e', P f) ↔ ∃ f ∈ l, P f := by
  obtain ⟨inside, rfl⟩ := List.getElem?_eq_some_iff.mp he
  simp only [List.mem_iff_getElem?, ← exists_and_right, exists_comm (α := α), List.getElem?_set]
  refine exists_congr fun j => ?_
  by_cases here : i = j
  · subst here
    simp [inside, same]
  · simp [here]

theorem exists_mem_eraseIdx_iff {α : Type} {P : α → Prop} {l : List α} {i : Nat} :
    (∃ f ∈ l.eraseIdx i, P f) ↔ ∃ j f, j ≠ i ∧ l[j]? = some f ∧ P f := by
  simp only [List.mem_eraseIdx_iff_getElem?, ← exists_and_right, exists_comm (α := α), and_assoc]

/-- Where the entry at a position is none of those looked for, the list without it has as many of them. -/
theorem exists_mem_iff_elsewhere {α : Type} {P : α → Prop} {l : List α} {i : Nat} {e : α} (he : l[i]? = some e) (no : ¬P e) :
    (∃ f ∈ l, P f) ↔ ∃ j f, j ≠ i ∧ l[j]? = some f ∧ P f := by
  simp only [List.mem_iff_getElem?, ← exists_and_right, exists_comm (α := α)]
  refine exists₂_congr fun j f => ⟨fun ⟨hf, yes⟩ => ⟨?_, hf, yes⟩, And.right⟩
  rintro rfl
  exact no (Option.some.inj (he.symm.trans hf) ▸ yes)

/-! ### The clear of a condition (R142) -/

theorem clearAlarm_of_lists {c : AlarmCode} {sc : AlarmScope} {i : Nat} {e : AlarmEntry} (h : s.lists c sc i e) :
    clearAlarm c sc s =
      match e.state with
      | .active => notify (.alarm c sc .cleared e.detail e.repeats) (s.setAlarms (s.alc.list.set i { e with state := .cleared }))
      | .activeAcked => notify (.alarm c sc .removed e.detail e.repeats) (s.setAlarms (s.alc.list.eraseIdx i))
      | .cleared => s := by
  simp only [clearAlarm, findAlarm_of_lists h, h.1]
  obtain ⟨he, rfl, rfl, -⟩ := h
  cases state : e.state with
  | active => rfl
  | activeAcked => simp [removeAlarm_eq he, state]
  | cleared => rfl

/-- A clear leaves the stop effects of each scope as they were. -/
theorem clearAlarm_stops {c : AlarmCode} {sc : AlarmScope} {i : Nat} {e : AlarmEntry} (h : s.lists c sc i e) (x : AlarmScope) :
    let stops (f : AlarmEntry) : Prop := isStop f.code = true ∧ f.state ≠ .activeAcked ∧ f.scope = x
    (∃ f ∈ (clearAlarm c sc s).alc.list, stops f) ↔ ∃ f ∈ s.alc.list, stops f := by
  intro stops
  rw [clearAlarm_list (findAlarm_of_lists h) h.1]
  cases state : e.state with
  | active => exact exists_mem_set_iff h.1 (by simp [stops, state])
  | activeAcked => exact exists_mem_eraseIdx_iff.trans (exists_mem_iff_elsewhere h.1 (by simp [stops, state])).symm
  | cleared => rfl

/-! ### Event alarms (R142) -/

theorem isStop_of_isEvent {c : AlarmCode} (h : isEvent c = true) : isStop c = false := by
  rcases (isEvent_iff c).mp h with rfl | rfl | rfl <;> rfl

theorem appendAlarm_event {c : AlarmCode} (event : isEvent c = true) (sc : AlarmScope) (d : Nat) (s : State) :
    ∃ f : AlarmEntry, (f.code = c ∧ f.scope = sc ∧ f.state = .cleared ∧ f.detail = d) ∧
      (appendAlarm c sc d s).alc.list = s.alc.list ++ [f] ∧
      (appendAlarm c sc d s).noticeQueue = (notify (.alarm c sc .cleared f.detail f.repeats) s).noticeQueue := by
  refine ⟨newEntry c sc d s.now, ⟨rfl, rfl, if_pos event, rfl⟩, by rw [appendAlarm_alc], ?_⟩
  rw [appendAlarm_noticeQueue, if_pos event]
  rfl

/-- Some entry makes room unless each is ACTIVE and of class STOP. -/
theorem roomEntry_of_exists {l : List AlarmEntry} (h : ∃ d ∈ l, d.state ≠ .active ∨ isStop d.code = false) :
    ∃ j d, roomEntry l = some j ∧ l[j]? = some d := by
  obtain ⟨d, hd, spare⟩ := h
  have some_ : roomEntry l ≠ none := fun none_ => by
    obtain ⟨active, stop⟩ := roomEntry_eq_none.mp none_ d hd
    simp [active, stop] at spare
  obtain ⟨j, hj⟩ := Option.ne_none_iff_exists'.mp some_
  exact ⟨j, _, hj, List.getElem?_eq_getElem (roomEntry_lt hj)⟩

/-- Settles O20: a clear acts by the state of the entry, and the raise of an event alarm makes or repeats a CLEARED one. -/
theorem conditionClearsFollowTheTable : Obligations.ConditionClearsFollowTheTable := by
  intro code scope s l stops
  refine ⟨clearAlarm_of_unlists, fun i e listed => ⟨clearAlarm_of_lists listed, fun x => ⟨clearAlarm_stops listed x, ?removed⟩⟩,
    isEvent_iff code, fun event => ⟨?raised, fun u tag i e fit listed cleared shown => ?acked⟩⟩
  case removed =>
    rw [removeAlarm_alc]
    exact exists_mem_eraseIdx_iff
  case raised =>
    intro detail t left told
    refine ⟨fun i e listed => ?repeated, fun none_ room => ?made, fun none_ full spare => ?makes, fun none_ full noRoom => ?noPlace⟩
    case repeated =>
      simp only [t, raiseAlarm_of_lists listed, repeatAlarm_alc, repeatAlarm_noticeQueue]
      obtain ⟨he, rfl, rfl, -⟩ := listed
      refine ⟨repeatedEntry e detail s.now, ⟨rfl, rfl, if_pos event, rfl⟩, rfl, ?_⟩
      rw [if_pos event]
      rfl
    case made =>
      simp only [t, raiseAlarm_of_room none_ room]
      exact appendAlarm_event event scope detail s
    case makes =>
      obtain ⟨j, d, room, hd⟩ := roomEntry_of_exists spare
      obtain ⟨f, isLeft, listed, noticed⟩ := appendAlarm_event event scope detail (removeAlarm j s)
      simp only [t, raiseAlarm_of_full none_ full room]
      rw [removeAlarm_alc] at listed
      exact ⟨f, j, d, isLeft, hd, listed, noticed.trans (notify_noticeQueue_congr _ (removeAlarm_noticeQueue hd))⟩
    case noPlace =>
      simp only [t, raiseAlarm_of_no_place none_ full noRoom, notify_alc]
      exact ⟨rfl, 0, notify_noticeQueue_congr _ rfl⟩
  case acked =>
    refine serves_of_eq (exec_alarmAck ..) ((if_pos fit).trans ?_)
    rw [ackListed_of_lists listed]
    obtain ⟨he, rfl, rfl, -⟩ := listed
    simp only [ackEntry_eq he (by simp [cleared]), isStop_of_isEvent event, cleared, shown]
    rfl

end Sys2Proof.Machine
end

section
/-! SUPPORT. Tags as 16 bits (R155, 11.9): `encodeTag_toNat` and `decodeTag_eq_some_iff`. -/

namespace Sys2Proof.Machine

set_option Elab.async false

/-! ### The numbers of codes and scopes (11.9) -/

/-- The layout has the tag: programs as scopes are numbered 0 to 7. -/
def DisplayTag.legal (g : DisplayTag) : Prop := ∀ code p, g = .alarm code (.program p) → p < 8

/-- The number that the 16 bits of a tag spell: its kind in the top 3 bits, the fields in the rest. -/
def DisplayTag.number : DisplayTag → Nat
  | .none => 0
  | .alarm code scope => 8192 + 16 * alarmNumber code + scopeNumber scope
  | .strip q => 2 * 8192 + q.toNat
  | .unit q n => 3 * 8192 + 64 * q.toNat + n.toNat
  | .head .a => 4 * 8192
  | .head .b => 4 * 8192 + 1
  | .program p => 5 * 8192 + p.toNat
  | .slot n => 6 * 8192 + n.toNat

theorem alarmOfNumber_eq_some_iff {n : Nat} {c : AlarmCode} : alarmOfNumber n = some c ↔ n = alarmNumber c := by
  constructor
  · intro h
    have small : ∀ n < 19, ∀ c ∈ alarmOfNumber n, n = alarmNumber c := by decide
    rcases Nat.lt_or_ge n 19 with inside | outside
    · exact small n inside c h
    · obtain ⟨m, rfl⟩ := Nat.exists_eq_add_of_le' outside
      cases h
  · rintro rfl
    cases c <;> rfl

theorem scopeOfNumber_eq_some_iff {n : Nat} {sc : AlarmScope} :
    scopeOfNumber n = some sc ↔ n = scopeNumber sc ∧ ∀ p, sc = .program p → p < 8 := by
  constructor
  · intro h
    unfold scopeOfNumber at h
    split at h
    case h_6 m =>
      split at h
      · rename_i inside
        cases h
        exact ⟨Nat.add_comm m 5, fun p hp => by cases hp; exact inside⟩
      · cases h
    all_goals
      cases h
      exact ⟨rfl, nofun⟩
  · rintro ⟨rfl, small⟩
    cases sc with
    | head h => cases h <;> rfl
    | program p =>
      have inside := small p rfl
      rw [scopeNumber, Nat.add_comm, scopeOfNumber, if_pos inside]
    | cell | feeder | track => rfl

theorem alarmNumber_bounds (c : AlarmCode) : 1 ≤ alarmNumber c ∧ alarmNumber c < 32 := by
  cases c <;> decide

theorem scopeNumber_lt {sc : AlarmScope} (small : ∀ p, sc = .program p → p < 8) : scopeNumber sc < 16 := by
  cases sc with
  | head h => cases h <;> decide
  | program p =>
    have := small p rfl
    simp only [scopeNumber]
    omega
  | cell | feeder | track => decide

/-! ### Encoding -/

/-- Bits put behind each other, as a number. -/
theorem toNat_append_eq {m n : Nat} (x : BitVec m) (y : BitVec n) : (x ++ y).toNat = x.toNat * 2 ^ n + y.toNat := by
  rw [BitVec.toNat_append, ← Nat.shiftLeft_add_eq_or_of_lt y.isLt, Nat.shiftLeft_eq]

theorem encodeTag_toNat {g : DisplayTag} (legal : g.legal) : (encodeTag g).toNat = g.number := by
  cases g with
  | none => rfl
  | head h => cases h <;> rfl
  | alarm code scope =>
    have codes := alarmNumber_bounds code
    have scopes := scopeNumber_lt fun p hp => legal code p (congrArg _ hp)
    simp only [encodeTag, BitVec.toNat_cast, toNat_append_eq, BitVec.toNat_ofNat, DisplayTag.number]
    omega
  | strip q =>
    simp only [encodeTag, BitVec.toNat_cast, toNat_append_eq, BitVec.toNat_ofNat, DisplayTag.number]
    omega
  | unit q n =>
    simp only [encodeTag, BitVec.toNat_cast, toNat_append_eq, BitVec.toNat_ofNat, DisplayTag.number]
    omega
  | program p =>
    simp only [encodeTag, BitVec.toNat_cast, toNat_append_eq, BitVec.toNat_ofNat, DisplayTag.number]
    omega
  | slot n =>
    simp only [encodeTag, BitVec.toNat_cast, toNat_append_eq, BitVec.toNat_ofNat, DisplayTag.number]
    omega

/-! ### Decoding -/

/-- A field of the 16 bits, as a number. -/
theorem field_toNat (b : BitVec 16) (start len : Nat) : (b.extractLsb' start len).toNat = b.toNat / 2 ^ start % 2 ^ len := by
  rw [BitVec.extractLsb'_toNat, Nat.shiftRight_eq_div_pow]

theorem field_eq_zero_iff {b : BitVec 16} {start len : Nat} :
    b.extractLsb' start len = 0 ↔ b.toNat / 2 ^ start % 2 ^ len = 0 := by
  rw [← field_toNat, ← BitVec.toNat_inj]
  rfl

/-- The lowest bit tells the heads apart. -/
theorem headNumber_eq (b : BitVec 16) :
    (DisplayTag.head (if b.getLsbD 0 then .b else .a)).number = 4 * 8192 + (b.extractLsb' 0 1).toNat := by
  rw [field_toNat, BitVec.getLsbD, Nat.testBit_zero]
  rcases Nat.mod_two_eq_zero_or_one b.toNat with even | odd
  · simp [even, DisplayTag.number]
  · simp [odd, DisplayTag.number]

/-- The tag that bits of a kind spell (11.9). -/
def tagOfKind (b : BitVec 16) : Nat → Option DisplayTag
  | 0 => if b = 0 then some .none else none
  | 1 =>
    if b.extractLsb' 9 4 = 0 then
      match alarmOfNumber (b.extractLsb' 4 5).toNat, scopeOfNumber (b.extractLsb' 0 4).toNat with
      | some c, some sc => some (.alarm c sc)
      | _, _ => none
    else none
  | 2 => if b.extractLsb' 7 6 = 0 then some (.strip (b.extractLsb' 0 7)) else none
  | 3 => some (.unit (b.extractLsb' 6 7) (b.extractLsb' 0 6))
  | 4 => if b.extractLsb' 1 12 = 0 then some (.head (if b.getLsbD 0 then .b else .a)) else none
  | 5 => if b.extractLsb' 3 10 = 0 then some (.program (b.extractLsb' 0 3)) else none
  | 6 => if b.extractLsb' 6 7 = 0 then some (.slot (b.extractLsb' 0 6)) else none
  | _ => none

theorem decodeTag_eq (b : BitVec 16) : decodeTag b = tagOfKind b (b.extractLsb' 13 3).toNat := rfl

/-- The bits of kind ALARM, whose unused bits are 0. -/
theorem decodeTag_alarmKind {b : BitVec 16} (low : 8192 ≤ b.toNat) (high : b.toNat < 8192 + 512) :
    decodeTag b =
      (alarmOfNumber (b.extractLsb' 4 5).toNat).bind fun c =>
        (scopeOfNumber (b.extractLsb' 0 4).toNat).map fun sc => .alarm c sc := by
  have kind : (b.extractLsb' 13 3).toNat = 1 := by rw [field_toNat]; omega
  have unused : b.extractLsb' 9 4 = 0 := by rw [field_eq_zero_iff]; omega
  rw [decodeTag_eq, kind]
  refine (if_pos unused).trans ?_
  cases alarmOfNumber (b.extractLsb' 4 5).toNat with
  | none => rfl
  | some c => cases scopeOfNumber (b.extractLsb' 0 4).toNat <;> rfl

/-- The kind, an upper and a lower field make up the 16 bits. -/
theorem toNat_eq_fields (b : BitVec 16) {len : Nat} (h : len ≤ 13) :
    b.toNat = (b.extractLsb' 13 3).toNat * 8192 +
      ((b.extractLsb' len (13 - len)).toNat * 2 ^ len + (b.extractLsb' 0 len).toNat) := by
  have kind : b.toNat / 2 ^ 13 % 2 ^ 3 = b.toNat / 8192 := Nat.mod_eq_of_lt (Nat.div_lt_of_lt_mul b.isLt)
  have low : b.toNat % 8192 = b.toNat % 2 ^ len + 2 ^ len * (b.toNat / 2 ^ len % 2 ^ (13 - len)) := by
    rw [← Nat.mod_mul, ← Nat.pow_add, Nat.add_sub_cancel' h]
  rw [field_toNat, field_toNat, field_toNat, kind, Nat.pow_zero, Nat.div_one, Nat.mul_comm _ (2 ^ len), Nat.add_comm (2 ^ len * _),
    ← low, Nat.div_add_mod']

/-- A tag of one field, in the low bits. -/
theorem number_of_lowField {b : BitVec 16} {g h : DisplayTag} {len k : Nat} (small : len ≤ 13)
    (kind : (b.extractLsb' 13 3).toNat = k) (spelled : (if b.extractLsb' len (13 - len) = 0 then some h else none) = some g)
    (number : h.number = k * 8192 + (b.extractLsb' 0 len).toNat) : h = g ∧ g.number = b.toNat := by
  obtain ⟨unused, same⟩ := Option.ite_none_right_eq_some.mp spelled
  obtain rfl := Option.some.inj same
  refine ⟨rfl, ?_⟩
  rw [toNat_eq_fields b small, kind, unused, number]
  simp

/-- The tag that 16 bits spell has their number. -/
theorem number_of_decodeTag {b : BitVec 16} {g : DisplayTag} (h : decodeTag b = some g) : g.legal ∧ g.number = b.toNat := by
  have size : (b.extractLsb' 13 3).toNat < 8 := BitVec.isLt _
  have spelled : tagOfKind b (b.extractLsb' 13 3).toNat = some g := h
  generalize kind : (b.extractLsb' 13 3).toNat = k at size spelled
  match k, size, spelled, kind with
  | 0, _, spelled, _ =>
    obtain ⟨zero, same⟩ := Option.ite_none_right_eq_some.mp spelled
    obtain rfl := Option.some.inj same
    exact ⟨nofun, congrArg BitVec.toNat zero.symm⟩
  | 1, _, spelled, kind =>
    obtain ⟨unused, spelled⟩ := Option.ite_none_right_eq_some.mp spelled
    split at spelled
    · rename_i c sc code scope
      obtain rfl := Option.some.inj spelled
      obtain ⟨scope, small⟩ := scopeOfNumber_eq_some_iff.mp scope
      refine ⟨fun _ p hp => small p (DisplayTag.alarm.inj hp).2, ?_⟩
      have fields := toNat_eq_fields b (len := 9) (by decide)
      rw [kind, unused, show (0 : BitVec 4).toNat = 0 from rfl, field_toNat b 0 9] at fields
      rw [DisplayTag.number, ← alarmOfNumber_eq_some_iff.mp code, ← scope, field_toNat, field_toNat]
      omega
    · cases spelled
  | 2, _, spelled, kind =>
    obtain ⟨rfl, number⟩ := number_of_lowField (len := 7) (by decide) kind spelled rfl
    exact ⟨nofun, number⟩
  | 3, _, spelled, kind =>
    obtain rfl := Option.some.inj spelled
    refine ⟨nofun, ?_⟩
    rw [toNat_eq_fields b (len := 6) (by decide), kind, DisplayTag.number, Nat.mul_comm 64, Nat.add_assoc]
    rfl
  | 4, _, spelled, kind =>
    obtain ⟨rfl, number⟩ := number_of_lowField (len := 1) (by decide) kind spelled (headNumber_eq b)
    exact ⟨nofun, number⟩
  | 5, _, spelled, kind =>
    obtain ⟨rfl, number⟩ := number_of_lowField (len := 3) (by decide) kind spelled rfl
    exact ⟨nofun, number⟩
  | 6, _, spelled, kind =>
    obtain ⟨rfl, number⟩ := number_of_lowField (len := 6) (by decide) kind spelled rfl
    exact ⟨nofun, number⟩
  | 7, _, spelled, _ => cases spelled

/-- The kind and the field of bits whose number is that of a tag of one field. -/
theorem lowField_of_number {b : BitVec 16} {k len : Nat} {q : BitVec len} (small : len ≤ 13)
    (h : k * 8192 + q.toNat = b.toNat) :
    (b.extractLsb' 13 3).toNat = k ∧ b.extractLsb' len (13 - len) = 0 ∧ b.extractLsb' 0 len = q := by
  have whole : 8192 = 2 ^ len * 2 ^ (13 - len) := by rw [← Nat.pow_add, Nat.add_sub_cancel' small]
  have low : q.toNat < 8192 := q.isLt.trans_le (Nat.pow_le_pow_right (n := 2) (by decide) small)
  have rest : b.toNat % 8192 = q.toNat := by omega
  refine ⟨?_, ?_, ?_⟩
  · rw [field_toNat, ← h]
    omega
  · rw [field_eq_zero_iff, ← Nat.mod_mul_right_div_self, ← whole, rest]
    exact Nat.div_eq_of_lt q.isLt
  · rw [← BitVec.toNat_inj, field_toNat, Nat.pow_zero, Nat.div_one, ← Nat.mod_mod_of_dvd _ (Dvd.intro _ whole.symm), rest]
    exact Nat.mod_eq_of_lt q.isLt

/-- The 16 bits that have the number of a tag spell it. -/
theorem decodeTag_of_number {b : BitVec 16} {g : DisplayTag} (legal : g.legal) (h : g.number = b.toNat) :
    decodeTag b = some g := by
  cases g with
  | none =>
    obtain rfl : b = 0 := BitVec.eq_of_toNat_eq h.symm
    rfl
  | alarm code scope =>
    have codes := alarmNumber_bounds code
    have small : ∀ p, scope = .program p → p < 8 := fun p hp => legal code p (congrArg _ hp)
    have scopes := scopeNumber_lt small
    simp only [DisplayTag.number] at h
    have hc : (b.extractLsb' 4 5).toNat = alarmNumber code := by rw [field_toNat]; omega
    have hs : (b.extractLsb' 0 4).toNat = scopeNumber scope := by rw [field_toNat]; omega
    rw [decodeTag_alarmKind (by omega) (by omega), alarmOfNumber_eq_some_iff.mpr hc, scopeOfNumber_eq_some_iff.mpr ⟨hs, small⟩]
    rfl
  | strip q =>
    obtain ⟨kind, unused, field⟩ := lowField_of_number (k := 2) (q := q) (by decide) h
    rw [decodeTag_eq, kind]
    exact (if_pos unused).trans (congrArg (fun x => some (DisplayTag.strip x)) field)
  | unit q n =>
    simp only [DisplayTag.number] at h
    have kind : (b.extractLsb' 13 3).toNat = 3 := by rw [field_toNat]; omega
    have strip : b.extractLsb' 6 7 = q := by rw [← BitVec.toNat_inj, field_toNat]; omega
    have unit : b.extractLsb' 0 6 = n := by rw [← BitVec.toNat_inj, field_toNat]; omega
    rw [decodeTag_eq, kind, ← strip, ← unit]
    rfl
  | head x =>
    cases x with
    | a =>
      obtain rfl : b = 0x8000#16 := BitVec.eq_of_toNat_eq h.symm
      rfl
    | b =>
      obtain rfl : b = 0x8001#16 := BitVec.eq_of_toNat_eq h.symm
      rfl
  | program p =>
    obtain ⟨kind, unused, field⟩ := lowField_of_number (k := 5) (q := p) (by decide) h
    rw [decodeTag_eq, kind]
    exact (if_pos unused).trans (congrArg (fun x => some (DisplayTag.program x)) field)
  | slot n =>
    obtain ⟨kind, unused, field⟩ := lowField_of_number (k := 6) (q := n) (by decide) h
    rw [decodeTag_eq, kind]
    exact (if_pos unused).trans (congrArg (fun x => some (DisplayTag.slot x)) field)

theorem decodeTag_eq_some_iff {b : BitVec 16} {g : DisplayTag} : decodeTag b = some g ↔ g.legal ∧ g.number = b.toNat :=
  ⟨number_of_decodeTag, fun ⟨legal, h⟩ => decodeTag_of_number legal h⟩

/-! ### Tags of kind ALARM that name no entry (R138, R144) -/

theorem legal_of_scopeFits {code : AlarmCode} {scope : AlarmScope} (h : scopeFits scope code = true) :
    (DisplayTag.alarm code scope).legal := by
  intro c p hp
  obtain ⟨rfl, rfl⟩ := DisplayTag.alarm.inj hp
  have row := (scopeFits_iff_row (.program p) code).mp h
  cases code with
  | pullFail | pullCapability =>
    obtain ⟨_, small, same⟩ := row
    cases same
    exact small
  | headFault | nsop | nsol => exact nomatch row.choose_spec
  | _ => cases row

theorem misfitAlarm_iff {b : BitVec 16} :
    misfitAlarm b = true ↔ 8192 ≤ b.toNat ∧ b.toNat < 8192 + 512 ∧
      ∀ code scope, scopeFits scope code = true → (DisplayTag.alarm code scope).number ≠ b.toNat := by
  have size := b.isLt
  have range : (b.extractLsb' 13 3).toNat = 1 ∧ b.extractLsb' 9 4 = 0 ↔ 8192 ≤ b.toNat ∧ b.toNat < 8192 + 512 := by
    rw [field_toNat, field_eq_zero_iff]
    omega
  rw [misfitAlarm, Bool.and_eq_true, Bool.and_eq_true, decide_eq_true_eq, decide_eq_true_eq, range, and_assoc]
  refine and_congr_right fun low => and_congr_right fun high => ?_
  have decoded := decodeTag_alarmKind low high
  have names {code : AlarmCode} {scope : AlarmScope} (fit : scopeFits scope code = true) :
      (DisplayTag.alarm code scope).number = b.toNat ↔ decodeTag b = some (.alarm code scope) := by
    rw [decodeTag_eq_some_iff]
    exact (and_iff_right (legal_of_scopeFits fit)).symm
  split
  · rename_i c sc hc hs
    rw [hc, hs, Option.bind_some, Option.map_some] at decoded
    constructor
    · intro no code scope fit h
      rw [names fit, decoded] at h
      obtain ⟨rfl, rfl⟩ := DisplayTag.alarm.inj (Option.some.inj h)
      simp [fit] at no
    · intro none_
      by_contra fit
      have fit : scopeFits sc c = true := by simpa using fit
      exact none_ c sc fit ((names fit).mpr decoded)
  · rename_i no
    refine iff_of_true rfl fun code scope fit h => ?_
    rw [names fit, decoded] at h
    obtain ⟨c, hc, h⟩ := Option.bind_eq_some_iff.mp h
    obtain ⟨sc, hs, -⟩ := Option.map_eq_some_iff.mp h
    exact no c sc hc hs

end Sys2Proof.Machine
end

section
/-! SUPPORT. SCREEN_KEY (R159, R160). -/

namespace Sys2Proof.Machine

set_option Elab.async false

variable {s : State}

/-! ### The frame of a key (R165) -/

/-- A terminal is owned at all times, so its own frames always come to it. -/
theorem fieldArrive_term {f : LinkFrame} {k : Term} (hr : s.roleAt f.src.toNat = .term k) (hk : isOwnKind f.kind = true) :
    fieldArrive f s = deliver (.term k) f s := by
  have pass : s.kindAction f.kind ≠ .drop := by simp [State.kindAction, isOwnKind_lt hk]
  have taken : s.consumes (.term k) f = true := by simp [State.consumes, hk, State.owned, State.onlyExtended]
  rw [fieldArrive, if_neg pass, hr, if_pos taken]

theorem screenKey_ends {src : Byte} {k : Term} {key tile : Nat} {tag : BitVec 16} {x : State} (hi : s.ccs.inReset = false)
    (hr : s.roleAt src.toNat = .term k) (hx : onScreenKey k key tile tag s = x) : Ends (exec (.screenKey src key tile tag) s) x :=
  act_ends_of_eq hi ((fieldArrive_term hr rfl).trans hx)

/-! ### The entry of a key (R159 steps 1 and 2) -/

/-- The key map entries of a terminal's current page. -/
def State.keyEntries (s : State) (k : Term) : List KeyEntry :=
  (s.tmc.keys.drop ((s.tmc.pages.getD (s.term k).page {}).keyMap * 16)).take 16

theorem keyEntry_eq_none {k : Term} {key : Nat}
    (h : (s.tmc.pages.getD (s.term k).page {}).valid = false ∨ ∀ e ∈ s.keyEntries k, e.valid = true → e.key ≠ key) :
    s.keyEntry k key = none := by
  unfold State.keyEntry
  dsimp only
  split
  · rename_i valid
    refine List.find?_eq_none.mpr fun e he => ?_
    simpa using h.resolve_left (by rw [valid]; exact nofun) e he
  · rfl

theorem keyEntry_eq_some {k : Term} {key : Nat} {l m : List KeyEntry} {e : KeyEntry}
    (valid : (s.tmc.pages.getD (s.term k).page {}).valid = true) (split : s.keyEntries k = l ++ e :: m)
    (first : ∀ d ∈ l, d.valid = true → d.key ≠ key) (here : e.valid = true) (same : e.key = key) : s.keyEntry k key = some e := by
  refine (if_pos valid).trans (List.find?_eq_some_iff_append.mpr ⟨by simp [here, same], l, m, split, fun d hd => ?_⟩)
  simpa [imp_iff_not_or] using first d hd

theorem requiredLevel_eq {e : KeyEntry} {a : KeyAction} (h : e.action = some a) :
    requiredLevel e = if a = .clearFault ∨ a = .releaseProgram ∨ a = .acceptId then .technician else e.minLevel.getD .view := by
  unfold requiredLevel
  rw [h]
  cases a <;> rfl

theorem onScreenKey_of_entry {k : Term} {key : Nat} {e : KeyEntry} {a : KeyAction} (he : s.keyEntry k key = some e)
    (ha : e.action = some a) (tile : Nat) (tag : BitVec 16) :
    onScreenKey k key tile tag s =
      if levelRank (s.term k).level < levelRank (requiredLevel e) then setMessage k "NOT PERMITTED" s
      else permittedKey k a e tile tag s := by
  simp only [onScreenKey, he, ha]

/-! ### Page changes (R160) -/

theorem nextPage_eq_self {p : Nat} (h : ∀ d, 1 ≤ d → d ≤ 15 → (s.tmc.pages.getD ((p + d) % 16) {}).valid ≠ true) :
    s.nextPage p = p := by
  unfold State.nextPage
  rw [List.find?_eq_none.mpr]
  · rfl
  · intro q hq
    obtain ⟨i, hi, rfl⟩ := List.mem_map.mp hq
    exact h (i + 1) (by omega) (by have := List.mem_range.mp hi; omega)

theorem nextPage_eq {p d : Nat} (low : 1 ≤ d) (high : d ≤ 15) (valid : (s.tmc.pages.getD ((p + d) % 16) {}).valid = true)
    (first : ∀ j, 1 ≤ j → j < d → (s.tmc.pages.getD ((p + j) % 16) {}).valid ≠ true) : s.nextPage p = (p + d) % 16 := by
  obtain ⟨i, rfl⟩ : ∃ i, d = i + 1 := ⟨d - 1, by omega⟩
  unfold State.nextPage
  have found : ((List.range 15).find? ((fun q => (s.tmc.pages.getD q {}).valid) ∘ fun i => (p + i + 1) % 16)) = some i := by
    refine List.find?_range_eq_some.mpr ⟨valid, List.mem_range.mpr (by omega), fun j hj => ?_⟩
    simpa [Nat.add_assoc] using first (j + 1) (by omega) (by omega)
  rw [List.find?_map, found]
  rfl

/-! ### Applying an action (R159 steps 6 and 7, R160) -/

/-- An action with its operand, as the management request it stands for. -/
def applyOperand (a : KeyAction) : KeyOperand → State → Served
  | .fixed n => applyFixed a n
  | .tag g => applyTagged a g

theorem applyKey_of_held {a : KeyAction} {o : KeyOperand} (held : s.resumeHeld a o = true) (k : Term) :
    applyKey k a o s = setMessage k "ALARM" s := if_pos held

theorem applyKey_of_not_held {a : KeyAction} {o : KeyOperand} {f : State → Served} (free : ¬s.resumeHeld a o = true)
    (hf : applyOperand a o s = f s) (k : Term) :
    applyKey k a o s = setMessage k (resultMessage (f s).2.result) (f s).1 := by
  rw [← hf]
  cases o <;> exact if_neg free

/-- An effective STOP entry of scope CELL, or of the scope of the head where there is one, is listed (R159 step 6). -/
def State.holdsBack (s : State) (h : Option Head) : Prop :=
  ∃ r ∈ s.alc.list, isStop r.code = true ∧ r.state ≠ .activeAcked ∧ (r.scope = .cell ∨ ∃ g, h = some g ∧ r.scope = .head g)

theorem holdsBack_some {h : Head} : s.holdsBack (some h) ↔ s.alarmHolds h = true := by
  rw [alarmHolds_iff]
  simp only [State.holdsBack, Option.some.injEq, exists_eq_left', Or.comm]

theorem holdsBack_none : s.holdsBack none ↔ s.stopped .cell = true := by
  rw [stopped_iff]
  simp only [State.holdsBack, reduceCtorEq, false_and, exists_false, or_false, and_comm]

/-- The head whose alarms hold the action back is the one it resumes. -/
theorem resumeHeld_iff {a : KeyAction} {o : KeyOperand} {h : Option Head}
    (resumes : a = .resumeHead → h.isSome = true ∧ operandHead o = h) (cell : a = .resumeCell → h = none) :
    s.resumeHeld a o = true ↔ (a = .resumeHead ∨ a = .resumeCell) ∧ s.holdsBack h := by
  cases a with
  | resumeHead =>
    obtain ⟨some_, same⟩ := resumes rfl
    obtain ⟨g, rfl⟩ := Option.isSome_iff_exists.mp some_
    rw [holdsBack_some, State.resumeHeld, same]
    simp
  | resumeCell =>
    rw [cell rfl, holdsBack_none]
    simp [State.resumeHeld]
  | _ => exact iff_of_false nofun fun ⟨resume, _⟩ => resume.elim nofun nofun

/-! ### Actions on a fixed operand or a tag (R159 steps 3 to 5, R160) -/

theorem permittedKey_fixed {a : KeyAction} {e : KeyEntry} (source : e.source = some .fixed) (page : a ≠ .page)
    (next : a ≠ .pageNext) (k : Term) (tile : Nat) (tag : BitVec 16) (s : State) :
    permittedKey k a e tile tag s = applyKey k a (.fixed e.fixed) s := by
  unfold permittedKey
  split
  · exact absurd rfl page
  · exact absurd rfl next
  · rw [source]

theorem permittedKey_tagged {a : KeyAction} {e : KeyEntry} (source : e.source ≠ some .fixed) (page : a ≠ .page)
    (next : a ≠ .pageNext) (k : Term) (tile : Nat) (tag : BitVec 16) (s : State) :
    permittedKey k a e tile tag s =
      if tile ∉ s.pageTiles (s.term k).page then setMessage k "NO TARGET" s
      else if a = .ackAlarm ∧ misfitAlarm tag = true then setMessage k "BAD_VALUE" s
      else
        match decodeTag tag with
        | none => setMessage k "NO TARGET" s
        | some g =>
          if acceptsTag a g then
            if s.resolves g then applyKey k a (.tag g) s else setMessage k "GONE" s
          else setMessage k "NO TARGET" s := by
  have outside : (!(s.pageTiles (s.term k).page).contains tile) = true ↔ tile ∉ s.pageTiles (s.term k).page := by simp
  rw [← if_congr outside rfl rfl]
  unfold permittedKey
  split
  · exact absurd rfl page
  · exact absurd rfl next
  · split
    · exact absurd ‹_› source
    · rfl

/-- The tag resolves (R155). -/
theorem resolves_iff {g : DisplayTag} :
    s.resolves g = true ↔
      match g with
      | .alarm code scope => ∃ r ∈ s.alc.list, r.code = code ∧ r.scope = scope ∧ r.state ≠ .activeAcked
      | .strip q => (s.strips.find? fun y => y.seq % 128 == q.toNat).isSome = true
      | .unit q n => ∃ y, (s.strips.find? fun y => y.seq % 128 == q.toNat) = some y ∧
          n.toNat < (s.program y.program).rows * (s.program y.program).columns
      | .none => False
      | .head _ | .program _ | .slot _ => True := by
  cases g with
  | alarm code scope => simp [State.resolves, and_assoc]
  | unit q n =>
    simp only [State.resolves, Option.any_eq_true, decide_eq_true_eq]
    rfl
  | _ => simp [State.resolves, State.stripWith]

/-- What an action asks for of the object that a tag names, with the head that it resumes; nothing of a tag of another kind
(the table of R160). -/
def State.keyRequest (s : State) (a : KeyAction) (g : DisplayTag) : Option (Option Head × (State → Served)) :=
  match a, g with
  | .pauseHead, .head h => some (none, onHeadPause h)
  | .resumeHead, .head h => some (some h, onHeadResume h)
  | .clearFault, .head h => some (none, onClearFault h)
  | .ackAlarm, .alarm code scope => some (none, onAlarmAck (some code) (some scope))
  | .skipUnit, .unit q n => some (none, onSkipUnit (s.fullSeq q) n.toNat)
  | .nsbResume, .head h => some (none, withWire ((s.head h).nsb.map (·.wire)) onNsbResume)
  | .waiveWire, .head h => some (none, withWire (s.headWire h) onWaiveWire)
  | .waiveWire, .strip q => some (none, withWire (s.scanWire (s.fullSeq q)) onWaiveWire)
  | .rebondWire, .head h => some (none, withWire (s.headWire h) onRebondWire)
  | .rebondWire, .strip q => some (none, withWire (s.scanWire (s.fullSeq q)) onRebondWire)
  | .releaseProgram, .program p => some (none, onProgramRelease p.toNat)
  | .acceptSlot, .slot n => some (none, onSlotOp .acceptSensed n.toNat)
  | .skipSlot, .slot n => some (none, onSlotOp .skipSlot n.toNat)
  | .acceptId, .strip q => some (none, onAcceptId (s.fullSeq q))
  | _, _ => none

/-- The head that an action on a tag resumes. -/
def resumedHead (a : KeyAction) (g : DisplayTag) : Option Head :=
  match a, g with
  | .resumeHead, .head h => some h
  | _, _ => none

/-- There is a request for each tag of a kind that the action accepts, and it is what the action applies. -/
theorem keyRequest_applied (s : State) (a : KeyAction) (g : DisplayTag) :
    (s.keyRequest a g).map (fun x => (x.1, x.2 s)) =
      if acceptsTag a g then some (resumedHead a g, applyTagged a g s) else none := by
  cases a <;> cases g <;> rfl

theorem acceptsTag_of_no_request {a : KeyAction} {g : DisplayTag} (hr : s.keyRequest a g = none) : ¬acceptsTag a g = true := by
  intro accepts
  have applied := keyRequest_applied s a g
  rw [hr, if_pos accepts] at applied
  cases applied

theorem acceptsTag_of_request {a : KeyAction} {g : DisplayTag} {h : Option Head} {f : State → Served}
    (hr : s.keyRequest a g = some (h, f)) : acceptsTag a g = true ∧ h = resumedHead a g ∧ applyTagged a g s = f s := by
  have applied := keyRequest_applied s a g
  rw [hr] at applied
  by_cases accepts : acceptsTag a g = true
  · rw [if_pos accepts] at applied
    obtain ⟨head, served⟩ := Prod.ext_iff.mp (Option.some.inj applied)
    exact ⟨accepts, head, served.symm⟩
  · rw [if_neg accepts] at applied
    cases applied

theorem operandHead_of_accepts {g : DisplayTag} (h : acceptsTag .resumeHead g = true) :
    (resumedHead .resumeHead g).isSome = true ∧ operandHead (.tag g) = resumedHead .resumeHead g := by
  cases g with
  | head h => exact ⟨rfl, rfl⟩
  | _ => cases h

/-- Settles O58: the tags by `decodeTag_eq_some_iff`, the entry and the page by `keyEntry` and `nextPage`, an action by
`applyKey`, on a tag as `keyRequest` gives it. -/
theorem keysActAsRequests : Obligations.KeysActAsRequests := by
  unfold Obligations.KeysActAsRequests
  intro spells legal
  have number (g : DisplayTag) : spells g = g.number := by
    cases g with
    | alarm code scope =>
      have codes : [AlarmCode.slotMismatch, .inputEmpty, .idMismatch, .feedJam, .outputFull, .trackJam, .heatSignal,
          .heatNotReady, .headFault, .nsop, .nsol, .missedWire, .pullTimeout, .pullStation, .pullFail, .pullCapability,
          .pullLogFull, .estop].idxOf code + 1 = alarmNumber code := by
        cases code <;> rfl
      simp only [spells, codes]
      rfl
    | head h => cases h <;> rfl
    | _ => rfl
  refine ⟨fun g hg => (encodeTag_toNat hg).trans (number g).symm, fun c => by cases c <;> rfl, fun b g => ?_,
    fun l => by cases l <;> rfl, fun a => by cases a <;> exact ⟨rfl, rfl⟩, ?_⟩
  · rw [number]
    exact decodeTag_eq_some_iff
  intro s src key tile tag k hi hr x c page entries tells turned
  have ends {x : State} (hx : onScreenKey k key tile tag s = x) : Ends c x := screenKey_ends hi hr hx
  refine ⟨fun none_ => ends (by rw [onScreenKey, keyEntry_eq_none none_]), ?_⟩
  intro l e m a valid split first here same action required held done
  have entry := onScreenKey_of_entry (keyEntry_eq_some valid split first here same) action tile tag
  have level : requiredLevel e = required := requiredLevel_eq action
  rw [level] at entry
  have apply_ {o : KeyOperand} {h : Option Head} {f : State → Served} (hf : applyOperand a o s = f s)
      (resumes : a = .resumeHead → h.isSome = true ∧ operandHead o = h) (cell : a = .resumeCell → h = none) :
      applyKey k a o s = done h f := by
    have holds := resumeHeld_iff (s := s) resumes cell
    by_cases back : (a = .resumeHead ∨ a = .resumeCell) ∧ held h
    · exact (applyKey_of_held (holds.mpr back) k).trans (if_pos back).symm
    · exact (applyKey_of_not_held (mt holds.mp back) hf k).trans (if_neg back).symm
  refine ⟨fun low => ends (entry.trans (if_pos low)), ?_⟩
  intro high
  have ends {y : State} (hy : permittedKey k a e tile tag s = y) : Ends c y :=
    ends (entry.trans ((if_neg (Nat.not_lt.mpr high)).trans hy))
  refine ⟨?toPage, ?toNext, ?onFixed, ?onTag⟩
  case toPage =>
    rintro rfl
    exact ends rfl
  case toNext =>
    rintro rfl valid
    refine ⟨fun none_ => ends ?_, fun d low high here first => ends ?_⟩
    · exact congrArg (pageChange k · s) (nextPage_eq_self none_)
    · exact congrArg (pageChange k · s) (nextPage_eq low high here first)
  case onFixed =>
    intro fixed h
    have ends {o : Option Head} {f : State → Served} (page : a ≠ .page) (next : a ≠ .pageNext)
        (hf : applyFixed a e.fixed s = f s) (resumes : a = .resumeHead → some h = o) (cell : a = .resumeCell → o = none) :
        Ends c (done o f) :=
      ends ((permittedKey_fixed fixed page next k tile tag s).trans
        (apply_ (o := .fixed e.fixed) hf (fun ha => by rw [← resumes ha]; exact ⟨rfl, rfl⟩) cell))
    refine ⟨?_, ?ofHead, ?_, ?_, ?ofCell, ?_, ?_, ?_⟩
    all_goals rintro rfl
    case ofHead => exact ends nofun nofun rfl (fun _ => rfl) nofun
    case ofCell => exact ends nofun nofun rfl nofun fun _ => rfl
    all_goals exact ends nofun nofun rfl nofun nofun
  case onTag =>
    intro source page next strip seq scanned wired wire request found misfit
    have request_eq : request = s.keyRequest a := rfl
    have found_iff (g : DisplayTag) : s.resolves g = true ↔ found g := resolves_iff
    have misfit_iff : misfit ↔ a = .ackAlarm ∧ misfitAlarm tag = true := by
      rw [misfitAlarm_iff]
      simp only [misfit, number]
    have tagged := permittedKey_tagged source page next k tile tag s
    refine ⟨fun absent => ends (tagged.trans (if_pos absent)), fun present => ?_⟩
    rw [if_neg (not_not.mpr present)] at tagged
    refine ⟨fun mis => ends (tagged.trans (if_pos (misfit_iff.mp mis))), fun fit undecoded => ends ?_, fun fit g hg => ?_⟩
    · rw [tagged, if_neg (mt misfit_iff.mpr fit), undecoded]
      rfl
    · rw [if_neg (mt misfit_iff.mpr fit), hg] at tagged
      refine ⟨fun none_ => ends ?_, fun h f some_ => ?_⟩
      · exact tagged.trans (if_neg (acceptsTag_of_no_request (request_eq ▸ none_)))
      · obtain ⟨accepts, head, served⟩ := acceptsTag_of_request (request_eq ▸ some_)
        have resumes : a = .resumeHead → h.isSome = true ∧ operandHead (.tag g) = h := by
          rintro rfl
          exact head ▸ operandHead_of_accepts accepts
        have cell : a = .resumeCell → h = none := by
          rintro rfl
          exact head
        have tagged := tagged.trans (if_pos accepts)
        refine ⟨fun gone => ends ?_, fun resolves => ends ?_⟩
        · exact tagged.trans (if_neg (mt (found_iff g).mp gone))
        · exact tagged.trans ((if_pos ((found_iff g).mpr resolves)).trans (apply_ (o := .tag g) served resumes cell))

end Sys2Proof.Machine
end

section
/-! SUPPORT. The text and the tag that a tile shows (R153, R154). -/

namespace Sys2Proof.Machine

set_option Elab.async false

variable {s : State}

/-! ### Numbers as text (R154) -/

theorem digitChar_of_lt : ∀ n < 10, Nat.digitChar n = Char.ofNat (48 + n) := by decide

/-- The digits that the fuel allows for stand in front of what follows. -/
theorem digitsBefore_eq (fuel : Nat) {n : Nat} (acc : List Char) (h : n < 10 ^ (fuel + 1)) :
    digitsBefore (fuel + 1) n acc = Nat.toDigits 10 n ++ acc := by
  induction fuel generalizing n acc with
  | zero =>
    have small : n < 10 := by simpa using h
    rw [digitsBefore, if_pos small, Nat.toDigits_of_lt_base small, digitChar_of_lt n small, Nat.mod_eq_of_lt small]
    rfl
  | succ fuel ih =>
    rw [digitsBefore]
    by_cases small : n < 10
    · rw [if_pos small, Nat.toDigits_of_lt_base small, digitChar_of_lt n small, Nat.mod_eq_of_lt small]
      rfl
    · have low : n % 10 < 10 := Nat.mod_lt n (by decide)
      have fewer : n / 10 < 10 ^ (fuel + 1) := Nat.div_lt_of_lt_mul (by rwa [Nat.pow_succ'] at h)
      rw [if_neg small, ih _ fewer]
      conv_rhs => rw [← Nat.div_add_mod n 10]
      rw [← Nat.toDigits_append_toDigits (by decide) (by omega) low, Nat.toDigits_of_lt_base low, digitChar_of_lt _ low,
        List.append_assoc]
      rfl

theorem digits_eq {n : Nat} (h : n < 10 ^ 20) : digits n = Nat.toDigits 10 n :=
  (digitsBefore_eq 19 [] h).trans (List.append_nil _)

theorem withPoint_eq {ds : List Char} (some_ : 1 ≤ ds.length) (k : Nat) :
    let full := List.replicate (k + 1 - ds.length) '0' ++ ds
    withPoint k ds = if k = 0 then full else full.take (full.length - k) ++ '.' :: full.drop (full.length - k) := by
  intro full
  unfold withPoint
  split
  · rename_i zero
    simp only [full, zero, Nat.zero_add, Nat.sub_eq_zero_of_le some_]
    rfl
  · rfl

theorem fitRight_length (width : Nat) (t : List Char) : (fitRight width t).length = width := by
  unfold fitRight
  split
  · exact List.length_replicate
  · rw [List.length_append, List.length_replicate]
    omega

theorem fitLeft_length (width : Nat) (t : List Char) : (fitLeft width t).length = width := by
  unfold fitLeft
  split
  · exact List.length_replicate
  · rw [List.length_append, List.length_replicate]
    omega

theorem formatValue_length (f : TileFormat) (width : Nat) (v : TileValue) : (formatValue f width v).length = width := by
  cases v with
  | number n => cases f <;> exact fitRight_length ..
  | name t => exact fitLeft_length ..
  | notValid => exact List.length_replicate

theorem decimalText_eq {n : Int} (h : n.natAbs < 10 ^ 20) (k : Nat) :
    let digits := Nat.toDigits 10 n.natAbs
    let full := List.replicate (k + 1 - digits.length) '0' ++ digits
    let magnitude := if k = 0 then full else full.take (full.length - k) ++ '.' :: full.drop (full.length - k)
    decimalText k n = if n < 0 then '-' :: magnitude else magnitude := by
  simp only [decimalText, digits_eq h]
  rw [withPoint_eq Nat.length_toDigits_pos]

end Sys2Proof.Machine
end

section
/-! SUPPORT. Dirty sets, the refresh of the tiles and the marks of an alarm's tiles (R156). -/

namespace Sys2Proof.Machine

set_option Elab.async false

variable {s : State}

/-! ### Dirty sets (R156) -/

/-- A tile is a member of a dirty set. -/
def dirtyMember (d : List (Nat × Bool)) (i : Nat) : Prop := ∃ f, (i, f) ∈ d

theorem dirtyMember_cons {d : List (Nat × Bool)} {m : Nat × Bool} {i : Nat} :
    dirtyMember (m :: d) i ↔ i = m.1 ∨ dirtyMember d i := by
  obtain ⟨j, f⟩ := m
  simp only [dirtyMember, List.mem_cons, Prod.mk.injEq, exists_or, exists_and_left, exists_eq, and_true]

theorem dirtyMember_markDirty {d : List (Nat × Bool)} {i j : Nat} {b : Bool} :
    dirtyMember (markDirty d i b) j ↔ dirtyMember d j ∨ j = i := by
  induction d with
  | nil => simp [markDirty, dirtyMember]
  | cons m d ih =>
    obtain ⟨l, f⟩ := m
    rw [markDirty]
    split
    · simp only [dirtyMember_cons]
      tauto
    · split
      · subst l
        simp only [dirtyMember_cons]
        tauto
      · simp only [dirtyMember_cons, ih]
        tauto

theorem forced_markDirty {d : List (Nat × Bool)} {i j : Nat} {b : Bool} :
    (j, true) ∈ markDirty d i b ↔ (j, true) ∈ d ∨ j = i ∧ b = true := by
  induction d with
  | nil => simp [markDirty, eq_comm]
  | cons m d ih =>
    obtain ⟨l, f⟩ := m
    rw [markDirty]
    split
    · simp only [List.mem_cons, Prod.mk.injEq, eq_comm (a := true)]
      tauto
    · split
      · subst l
        simp only [List.mem_cons, Prod.mk.injEq, eq_comm (a := true), Bool.or_eq_true]
        tauto
      · simp only [List.mem_cons, ih]
        tauto

theorem markDirty_sorted {d : List (Nat × Bool)} (i : Nat) (b : Bool) (h : d.Pairwise fun x y => x.1 < y.1) :
    (markDirty d i b).Pairwise fun x y => x.1 < y.1 := by
  induction d with
  | nil => exact List.pairwise_singleton _ _
  | cons m d ih =>
    obtain ⟨l, f⟩ := m
    obtain ⟨above, rest⟩ := List.pairwise_cons.mp h
    rw [markDirty]
    split
    · rename_i before
      refine List.pairwise_cons.mpr ⟨fun x hx => ?_, h⟩
      rcases List.mem_cons.mp hx with rfl | hx
      · exact before
      · exact before.trans (above x hx)
    · split
      · exact List.pairwise_cons.mpr ⟨above, rest⟩
      · refine List.pairwise_cons.mpr ⟨fun x hx => ?_, ih rest⟩
        obtain ⟨f, hf⟩ | same := dirtyMember_markDirty.mp ⟨x.2, hx⟩
        · exact above (x.1, f) hf
        · show l < x.1
          omega

/-- Each tile of a list joins a dirty set. -/
def markAll (tiles : List Nat) (b : Bool) (d : List (Nat × Bool)) : List (Nat × Bool) :=
  tiles.foldl (fun d i => markDirty d i b) d

theorem dirtyMember_markAll {tiles : List Nat} {b : Bool} {d : List (Nat × Bool)} {j : Nat} :
    dirtyMember (markAll tiles b d) j ↔ dirtyMember d j ∨ j ∈ tiles := by
  induction tiles generalizing d with
  | nil => simp [markAll]
  | cons i tiles ih =>
    refine ih.trans ?_
    rw [dirtyMember_markDirty, List.mem_cons, or_assoc]

theorem forced_markAll {tiles : List Nat} {b : Bool} {d : List (Nat × Bool)} {j : Nat} :
    (j, true) ∈ markAll tiles b d ↔ (j, true) ∈ d ∨ j ∈ tiles ∧ b = true := by
  induction tiles generalizing d with
  | nil => simp [markAll]
  | cons i tiles ih =>
    refine ih.trans ?_
    rw [forced_markDirty, List.mem_cons, or_and_right, or_assoc]

theorem markAll_sorted (tiles : List Nat) (b : Bool) {d : List (Nat × Bool)} (h : d.Pairwise fun x y => x.1 < y.1) :
    (markAll tiles b d).Pairwise fun x y => x.1 < y.1 := by
  induction tiles generalizing d with
  | nil => exact h
  | cons i tiles ih => exact ih (markDirty_sorted i b h)

/-! ### The four terminals -/

theorem inService_iff {k : Term} : s.inService k = true ↔ s.addrOf (.term k) ≠ none := by
  rw [State.inService, Option.isSome_iff_ne_none]

theorem modTerm_congr {k : Term} {f g : TermState → TermState} (h : f (s.term k) = g (s.term k)) : s.modTerm k f = s.modTerm k g := by
  unfold State.modTerm
  rw [show f (s.tmc.terms.get k) = g (s.tmc.terms.get k) from h]

theorem modTerm_self {k : Term} {f : TermState → TermState} (h : f (s.term k) = s.term k) : s.modTerm k f = s := by
  refine (modTerm_congr (g := id) h).trans ?_
  cases k <;> rfl

/-- Work that changes each terminal by itself, and reads of the terminals its own alone, in all four. -/
theorem eachTerm_term {f : Term → State → State} {g : State → Term → TermState → TermState}
    (hf : ∀ t s, f t s = s.modTerm t (g s t)) (hg : ∀ s t h, g (s.modTerm t h) = g s) (k : Term) (s : State) :
    (eachTerm f s).term k = g s k (s.term k) := by
  simp only [eachTerm, hf, hg]
  cases k <;> rfl

theorem eachTerm_eq {f : Term → State → State} {g : State → Term → TermState → TermState}
    (hf : ∀ t s, f t s = s.modTerm t (g s t)) (s : State) :
    eachTerm f s = { s with tmc := { s.tmc with terms := (eachTerm f s).tmc.terms } } := by
  simp only [eachTerm, hf]
  rfl

/-! ### The refresh (R156) -/

/-- A terminal entry refreshed. -/
def State.refreshed (s : State) (k : Term) (x : TermState) : TermState :=
  if s.inService k then { x with dirty := markAll ((s.pageTiles x.page).filter fun i => !s.unchanged x i) false x.dirty } else x

theorem refreshTerm_eq (k : Term) (s : State) : refreshTerm k s = s.modTerm k (s.refreshed k) := by
  unfold refreshTerm
  split
  · rename_i served
    refine congrArg (s.modTerm k) (funext fun x => ?_)
    rw [State.refreshed, if_pos served, markAll, List.foldl_filter]
    simp only [Bool.not_eq_true', ← Bool.not_eq_true, ite_not]
  · rename_i absent
    exact (modTerm_self (if_neg absent)).symm

theorem refreshTiles_term (k : Term) (s : State) : (refreshTiles s).term k = s.refreshed k (s.term k) :=
  eachTerm_term refreshTerm_eq (fun _ _ _ => rfl) k s

theorem refreshTiles_eq (s : State) :
    refreshTiles s = { s with tmc := { s.tmc with terms := (refreshTiles s).tmc.terms } } :=
  eachTerm_eq refreshTerm_eq s

theorem unchanged_iff {x : TermState} {i : Nat} :
    s.unchanged x i = true ↔ ∃ v, x.sent i = some v ∧ (v.text, v.tag) = s.tileNow i := by
  unfold State.unchanged
  split
  · rename_i v hv
    simp [hv, Prod.ext_iff]
  · rename_i hv
    simp [hv]

/-! ### The marks of a raise (R156) -/

/-- A terminal entry in which the tiles that show the alarm at list position `p` are marked. -/
def State.marked (s : State) (p : Nat) (k : Term) (x : TermState) : TermState :=
  if s.inService k then
    { x with dirty := markAll ((s.pageTiles x.page).filter fun i => (s.tile i).value == 30 && (s.tile i).operand == p) true x.dirty }
  else x

theorem forceAlarmTiles_term_eq (p : Nat) (k : Term) (s : State) : forceAlarmTiles p k s = s.modTerm k (s.marked p k) := by
  unfold forceAlarmTiles
  split
  · rename_i served
    exact modTerm_congr (if_pos served).symm
  · rename_i absent
    exact (modTerm_self (if_neg absent)).symm

theorem marked_congr {t : State} (tmc : t.tmc = s.tmc) (forwarding : t.lif.forwarding = s.lif.forwarding) :
    t.marked = s.marked := by
  unfold State.marked State.inService State.addrOf State.pageTiles State.pageRange State.tile
  rw [tmc, forwarding]

@[simp] theorem notify_tmc (n : Notice) (s : State) : (notify n s).tmc = s.tmc := by
  rw [notify_eq]

@[simp] theorem notify_forwarding (n : Notice) (s : State) : (notify n s).lif.forwarding = s.lif.forwarding := by
  rw [notify_eq]
  dsimp only
  split <;> rfl

/-- A notice and a change of the alarm list leave the terminals and what is marked in them. -/
theorem marked_notice (n : Notice) (l : List AlarmEntry) (p : Nat) (k : Term) (s : State) :
    (notify n (s.setAlarms l)).marked p k ((notify n (s.setAlarms l)).term k) = s.marked p k (s.term k) := by
  rw [marked_congr (s := s.setAlarms l) (notify_tmc ..) (notify_forwarding ..), State.term, notify_tmc]
  rfl

theorem forceAlarmTiles_term (p : Nat) (k : Term) (s : State) :
    (eachTerm (forceAlarmTiles p) s).term k = s.marked p k (s.term k) :=
  eachTerm_term (g := fun s => s.marked p) (forceAlarmTiles_term_eq p) (fun _ _ _ => rfl) k s

theorem becomeEffective_term (c : AlarmCode) (sc : AlarmScope) (k : Term) (s : State) :
    (becomeEffective c sc s).term k = s.term k := by
  obtain ⟨-, tmc, -⟩ := beyondHeads_fields (becomeEffective_beyondHeads c sc s)
  rw [State.term, tmc]
  rfl

theorem appendAlarm_term (c : AlarmCode) (sc : AlarmScope) (d : Nat) (k : Term) (s : State) :
    (appendAlarm c sc d s).term k = s.marked s.alc.list.length k (s.term k) := by
  simp only [appendAlarm, alarmNotice, becomeEffective_term, forceAlarmTiles_term, marked_notice]

theorem repeatAlarm_term (i : Nat) (e : AlarmEntry) (d : Nat) (k : Term) (s : State) :
    (repeatAlarm i e d s).term k = s.marked i k (s.term k) := by
  simp only [repeatAlarm, alarmNotice, apply_ite (State.term · k), becomeEffective_term, ite_self, forceAlarmTiles_term, marked_notice]

theorem removeAlarm_terminals {i : Nat} {e : AlarmEntry} (he : s.alc.list[i]? = some e) :
    (removeAlarm i s).tmc = s.tmc ∧ (removeAlarm i s).lif.forwarding = s.lif.forwarding := by
  rw [removeAlarm_eq he]
  split
  · obtain ⟨-, tmc, forwarding⟩ := beyondHeads_fields (effectEnded_beyondHeads e.scope
      (notify (.alarm e.code e.scope .removed e.detail e.repeats) (s.setAlarms (s.alc.list.eraseIdx i))))
    exact ⟨tmc.trans (notify_tmc ..), forwarding.trans (notify_forwarding ..)⟩
  · exact ⟨notify_tmc .., notify_forwarding ..⟩

/-- A raise with an entry marks the tiles that show the position that the entry holds. -/
theorem raiseAlarm_term {c : AlarmCode} {sc : AlarmScope} {p : Nat} (d : Nat) (k : Term)
    (h : (∃ e, s.lists c sc p e) ∨ s.unlists c sc ∧
      (s.alc.list.length < 32 ∧ p = s.alc.list.length ∨ 32 ≤ s.alc.list.length ∧ p = s.alc.list.length - 1 ∧
        ∃ e ∈ s.alc.list, e.state ≠ .active ∨ isStop e.code = false)) :
    (raiseAlarm c sc d s).term k = s.marked p k (s.term k) := by
  rcases h with ⟨e, listed⟩ | ⟨none_, ⟨room, rfl⟩ | ⟨full, rfl, spare⟩⟩
  · rw [raiseAlarm_of_lists listed, repeatAlarm_term]
  · rw [raiseAlarm_of_room none_ room, appendAlarm_term]
  · obtain ⟨j, e, room, he⟩ := roomEntry_of_exists spare
    obtain ⟨tmc, forwarding⟩ := removeAlarm_terminals he
    rw [raiseAlarm_of_full none_ full room, appendAlarm_term, marked_congr tmc forwarding, removeAlarm_alc,
      List.length_eraseIdx_of_lt (roomEntry_lt room), State.term, tmc]
    rfl

end Sys2Proof.Machine
end

section
/-! SUPPORT. The making of a terminal's frames (R157, R143). -/

namespace Sys2Proof.Machine

set_option Elab.async false

variable {s : State}

/-! ### When a tile is sent (R157 steps 2 and 3) -/

theorem maySend_eq (x : TermState) (i : Nat) :
    (!s.maySend x i) = (x.sent i).any fun v => decide ((s.ccs.timebase - v.time).toNat < (s.tile i).interval * 100) := by
  unfold State.maySend
  cases x.sent i with
  | none => rfl
  | some v => exact (decide_not (p := _ ≤ _)).symm.trans (decide_eq_decide.mpr Nat.not_le)

theorem unchanged_eq (x : TermState) (i : Nat) :
    s.unchanged x i = (x.sent i).any fun v => decide (v.text = (s.tileNow i).1 ∧ v.tag = (s.tileNow i).2) := by
  unfold State.unchanged
  cases x.sent i with
  | none => rfl
  | some v => simp

/-- A member of a dirty set that is not to be sent now: its interval runs, or nothing asks for it. -/
def State.quiet (s : State) (x : TermState) (m : Nat × Bool) : Prop :=
  (!s.maySend x m.1) = true ∨ s.unchanged x m.1 = true ∧ m.2 = false

/-- Of the members that are passed, those stay whose interval runs. -/
theorem pickTile_of_quiet {x : TermState} {p : List (Nat × Bool)} (h : ∀ m ∈ p, s.quiet x m) (rest : List (Nat × Bool)) :
    s.pickTile x (p ++ rest) =
      ((p.filter fun m => !s.maySend x m.1) ++ (s.pickTile x rest).1, (s.pickTile x rest).2) := by
  induction p with
  | nil => rfl
  | cons m p ih =>
    obtain ⟨i, f⟩ := m
    have ih := ih fun m hm => h m (List.mem_cons_of_mem _ hm)
    rw [List.cons_append, State.pickTile, ih]
    by_cases may : s.maySend x i = true
    · have asksNothing : (s.unchanged x i && !f) = true := by simpa [State.quiet, may] using h (i, f) (List.mem_cons_self ..)
      rw [if_pos may, if_pos asksNothing, List.filter_cons_of_neg (by simpa using may)]
    · rw [if_neg may, List.filter_cons_of_pos (by simpa using may)]
      rfl

theorem pickTile_of_asking {x : TermState} {i : Nat} {forced : Bool} (may : s.maySend x i = true)
    (asks : forced = true ∨ s.unchanged x i = false) (rest : List (Nat × Bool)) :
    s.pickTile x ((i, forced) :: rest) = (rest, some i) := by
  have asks : ¬(s.unchanged x i && !forced) = true := by rcases asks with h | h <;> simp [h]
  rw [State.pickTile, if_pos may, if_neg asks]

/-! ### The frame of a terminal (R157) -/

theorem makeFrame_idle {k : Term} (h : s.addrOf (.term k) = none ∨ (s.term k).frameWaiting = true) : makeFrame k s = s := by
  refine if_neg ?_
  rw [Bool.and_eq_true, inService_iff]
  rcases h with h | h <;> simp [h]

section
variable {k : Term} {a : Nat} (ha : s.addrOf (.term k) = some a) (free : (s.term k).frameWaiting = false)
include ha

theorem sendOwn_of_addr (b : OwnBody) (f : TermState → TermState) :
    sendOwn (.term k) b (s.modTerm k f) =
      { s.modTerm k f with lif := { s.lif with own := s.lif.own ++ [{ role := .term k, dst := BitVec.ofNat 8 a, body := b }] } } := by
  have ha : (s.modTerm k f).addrOf (.term k) = some a := ha
  rw [sendOwn, ha]
  rfl

include free

theorem makes_frame : (s.inService k && !(s.term k).frameWaiting) = true := by
  rw [Bool.and_eq_true, inService_iff, ha, free]
  exact ⟨nofun, rfl⟩

theorem makeFrame_page (page : (s.term k).pagePending = true) :
    makeFrame k s =
      sendOwn (.term k) (.screenPage (s.term k).page)
        (s.modTerm k fun _ => { s.term k with pagePending := false, frameWaiting := true }) :=
  (if_pos (makes_frame ha free)).trans (if_pos page)

theorem makeFrame_message (page : (s.term k).pagePending = false) (message : (s.term k).messagePending = true) :
    makeFrame k s =
      sendOwn (.term k) (.screenMessage (s.term k).message)
        (s.modTerm k fun _ => { s.term k with messagePending := false, frameWaiting := true }) :=
  (if_pos (makes_frame ha free)).trans ((if_neg (by simp [page])).trans (if_pos message))

theorem makeFrame_pick (page : (s.term k).pagePending = false) (message : (s.term k).messagePending = false) :
    makeFrame k s =
      let r := s.pickTile (s.term k) (s.term k).dirty
      let u := s.modTerm k fun y => { y with dirty := r.1 }
      match r.2 with
      | some i => putTile k i u
      | none => u :=
  (if_pos (makes_frame ha free)).trans ((if_neg (by simp [page])).trans (if_neg (by simp [message])))

theorem makeFrame_quiet (page : (s.term k).pagePending = false) (message : (s.term k).messagePending = false)
    (quiet : ∀ m ∈ (s.term k).dirty, s.quiet (s.term k) m) :
    makeFrame k s =
      s.modTerm k fun _ => { s.term k with dirty := (s.term k).dirty.filter fun m => !s.maySend (s.term k) m.1 } := by
  have picked := pickTile_of_quiet quiet []
  rw [List.append_nil, State.pickTile, List.append_nil] at picked
  rw [makeFrame_pick ha free page message, picked]
  rfl

theorem makeFrame_tile (page : (s.term k).pagePending = false) (message : (s.term k).messagePending = false)
    {p rest : List (Nat × Bool)} {i : Nat} {forced : Bool} (dirty : (s.term k).dirty = p ++ (i, forced) :: rest)
    (quiet : ∀ m ∈ p, s.quiet (s.term k) m) (may : s.maySend (s.term k) i = true)
    (asks : forced = true ∨ s.unchanged (s.term k) i = false) :
    makeFrame k s =
      putTile k i (s.modTerm k fun y => { y with dirty := (p.filter fun m => !s.maySend (s.term k) m.1) ++ rest }) := by
  have picked := pickTile_of_quiet quiet ((i, forced) :: rest)
  rw [pickTile_of_asking may asks, ← dirty] at picked
  rw [makeFrame_pick ha free page message, picked]

end

theorem modTerm_modTerm (k : Term) (f g : TermState → TermState) (s : State) :
    (s.modTerm k f).modTerm k g = s.modTerm k fun x => g (f x) := by
  cases k <;> rfl

/-- The SCREEN_PUT of a tile, with the flag that it sets (R157 step 4, R143). -/
theorem putTile_eq (k : Term) (d : List (Nat × Bool)) (i : Nat) (s : State) :
    let y : TermState :=
      { s.term k with dirty := d, frameWaiting := true
                      lastSent := (i, { text := (s.tileNow i).1, tag := (s.tileNow i).2, time := s.ccs.timebase }) ::
                        (s.term k).lastSent.filter (fun z => z.1 != i) }
    putTile k i (s.modTerm k fun y => { y with dirty := d }) =
      showTagged (s.tile i).value (s.tileNow i).2
        (sendOwn (.term k) (.screenTile i (s.tile i).row (s.tile i).column (s.tile i).width (s.tileNow i).2 (s.tileNow i).1)
          (s.modTerm k fun _ => y)) := by
  intro y
  have put (g : TermState → TermState) (d : List (Nat × Bool)) :
      (s.modTerm k fun y => { y with dirty := d }).modTerm k g = s.modTerm k fun _ => g { s.term k with dirty := d } :=
    (modTerm_modTerm ..).trans (modTerm_congr rfl)
  exact congrArg (fun u => showTagged (s.tile i).value (s.tileNow i).2
    (sendOwn (.term k) (.screenTile i (s.tile i).row (s.tile i).column (s.tile i).width (s.tileNow i).2 (s.tileNow i).1) u))
    (put _ d)

end Sys2Proof.Machine
end

section
/-! SUPPORT. What a terminal is shown (R143, R153, R154, R156, R157). -/

namespace Sys2Proof.Machine

set_option Elab.async false

variable {s : State}

/-! ### The value catalogue (R153) -/

theorem mem_heads {o : Nat} {h : Head} (ho : (o, h) ∈ [(0, Head.a), (1, Head.b)]) : headOf o = h := by
  simp only [List.mem_cons, Prod.mk.injEq, List.not_mem_nil, or_false] at ho
  rcases ho with ⟨rfl, rfl⟩ | ⟨rfl, rfl⟩ <;> rfl

theorem mem_positions {o : Nat} {p : Position} (ho : (o, p) ∈ [(0, Position.preheat), (1, .bond), (2, .post)]) :
    positionOf o = p := by
  simp only [List.mem_cons, Prod.mk.injEq, List.not_mem_nil, or_false] at ho
  rcases ho with ⟨rfl, rfl⟩ | ⟨rfl, rfl⟩ | ⟨rfl, rfl⟩ <;> rfl

theorem optNumber_eq (n : Option Nat) : optNumber n = n.elim .notValid fun n => .number n := by
  cases n <;> rfl

theorem bondTag_eq (s : State) : s.bondTag = s.trc.bond.elim .none fun r => .strip (BitVec.ofNat 7 r.seq) := by
  unfold State.bondTag
  cases s.trc.bond <;> rfl

theorem claimValue_none {v : Nat} {h : Head} (no : s.claimOf h = none ∨ s.trc.bond = none) :
    s.claimValue v h = (.notValid, .head h) := by
  unfold State.claimValue
  rcases no with no | no
  · rw [no]
  · rw [no]
    cases s.claimOf h <;> rfl

theorem claimValue_some {v u : Nat} {h : Head} {r : StripRecord} (claim : s.claimOf h = some u) (bond : s.trc.bond = some r) :
    s.claimValue v h =
      if v = 5 then (.number r.seq, stripTag r.seq) else (.number u, .unit (BitVec.ofNat 7 r.seq) (BitVec.ofNat 6 u)) := by
  rw [State.claimValue, claim, bond]

theorem stripValue_none {v : Nat} {p : Position} (no : s.strip p = none) : s.stripValue v p = (.notValid, .none) := by
  rw [State.stripValue, no]

theorem stripValue_some {v : Nat} {p : Position} {r : StripRecord} (hr : s.strip p = some r) :
    s.stripValue v p =
      (if v = 12 then .number r.seq else .name (if r.scrapped then "SCRAPPED".toList else stripName r.state), stripTag r.seq) := by
  rw [State.stripValue, hr]

/-- The deviation and the margin of few forces are not valid. -/
theorem sd_margin_of_few {z : Stats} (few : z.n < 2) : z.sd = none ∧ z.margin = none := by
  have two : 2 ≤ z.n → z.deviates 0 := fun two => absurd two (Nat.not_le.mpr few)
  rw [Stats.sd_eq two, Stats.margin_eq two, if_pos few, if_pos few]
  exact ⟨rfl, rfl⟩

theorem sd_margin_of_deviates {z : Stats} {d : Nat} (two : 2 ≤ z.n) (h : z.deviates d) :
    z.sd = some d ∧ z.margin = some ((z.sum / z.n : Nat) - 3 * (d : Int)) := by
  rw [Stats.sd_eq fun _ => h, Stats.margin_eq fun _ => h, if_neg (Nat.not_lt.mpr two), if_neg (Nat.not_lt.mpr two)]
  exact ⟨rfl, rfl⟩

theorem programField_eq {e : ProgramEntry} {f : Nat} {v : Int}
    (h : [ if e.valid then 1 else 0, (e.firstWire : Int), e.wireCount, e.rows, e.columns, e.pitchX, e.pitchY, e.originX, e.originY
      , e.guard ][f]? = some v) : programField e f = v ∧ f < 10 := by
  obtain ⟨inside, rfl⟩ := List.getElem?_eq_some_iff.mp h
  have inside : f < 10 := inside
  refine ⟨?_, inside⟩
  interval_cases f <;> rfl

theorem linkCount_eq {k n : Nat}
    (h : [ s.lif.uCounts.crc, s.lif.uCounts.length, s.lif.uCounts.overrun, s.lif.fCounts.crc, s.lif.fCounts.length
      , s.lif.fCounts.overrun ][k]? = some n) : s.linkCount k = n := by
  obtain ⟨inside, rfl⟩ := List.getElem?_eq_some_iff.mp h
  have inside : k < 6 := inside
  interval_cases k <;> rfl

theorem alarmValue_none {k : Nat} (h : s.alc.list[k]? = none) : s.alarmValue k = (.notValid, .none) := by
  rw [State.alarmValue, h]

theorem alarmValue_some {k : Nat} {e : AlarmEntry} (h : s.alc.list[k]? = some e) :
    s.alarmValue k = (.name (alarmName e.code ++ ' ' :: alarmStateName e.state), .alarm e.code e.scope) := by
  rw [State.alarmValue, h]

/-- A value whose name a table gives. -/
theorem named_eq {x y : List Char} (g : DisplayTag) (h : x = y) : (TileValue.name x, g) = (TileValue.name y, g) := h ▸ rfl

theorem slotValue_eq (s : State) :
    s.catalogue 18 0 = (optNumber s.inputSlot, s.inputSlot.elim .none fun n => .slot (BitVec.ofNat 6 n)) := by
  have cases_ : s.catalogue 18 0 =
      match s.inputSlot with
      | some n => (.number n, .slot (BitVec.ofNat 6 n))
      | none => (.notValid, .none) := rfl
  rw [cases_]
  cases s.inputSlot <;> rfl

theorem unitsLeft_eq (s : State) :
    s.unitsLeft = s.usc.units.map fun l => (l.filter fun x => decide (x.state = .pending ∨ x.state = .claimed)).length := by
  simp only [State.unitsLeft, Bool.decide_or]

theorem programValue_eq {p f : Nat} (h : f < 10) (s : State) :
    s.catalogue 28 (p * 16 + f) = (.number (programField (s.program p) f), .program (BitVec.ofNat 3 p)) := by
  have row : (p * 16 + f) / 16 = p := by omega
  have field : (p * 16 + f) % 16 = f := by omega
  show (TileValue.number (programField (s.program ((p * 16 + f) / 16)) ((p * 16 + f) % 16)),
    DisplayTag.program (BitVec.ofNat 3 ((p * 16 + f) / 16))) = _
  rw [row, field]

/-! ### A refreshed and a marked terminal (R156) -/

theorem refreshed_of_absent {k : Term} (h : s.addrOf (.term k) = none) (x : TermState) : s.refreshed k x = x :=
  if_neg (by rw [inService_iff]; exact not_not.mpr h)

theorem refreshed_of_served {k : Term} (h : s.addrOf (.term k) ≠ none) (x : TermState) :
    s.refreshed k x =
      { x with dirty := markAll ((s.pageTiles x.page).filter fun i => !s.unchanged x i) false x.dirty } :=
  if_pos (inService_iff.mpr h)

/-- The tiles of its page that show position `p` join a terminal's dirty set with the forced mark, where it is in service. -/
theorem marked_spec (p : Nat) (k : Term) (x : TermState) (s : State) :
    let y := s.marked p k x
    let forced (i : Nat) : Prop :=
      s.addrOf (.term k) ≠ none ∧ i ∈ s.pageTiles x.page ∧ (s.tile i).value = 30 ∧ (s.tile i).operand = p
    y = { x with dirty := y.dirty } ∧ (∀ i, dirtyMember y.dirty i ↔ dirtyMember x.dirty i ∨ forced i) ∧
      ∀ i, (i, true) ∈ y.dirty ↔ (i, true) ∈ x.dirty ∨ forced i := by
  intro y forced
  by_cases served : s.addrOf (.term k) = none
  · have y_eq : y = x := if_neg (by rw [inService_iff]; exact not_not.mpr served)
    simp [y_eq, forced, served]
  · have y_eq : y = _ := if_pos (inService_iff.mpr served)
    have shows (i : Nat) : (i ∈ (s.pageTiles x.page).filter fun i => (s.tile i).value == 30 && (s.tile i).operand == p) ↔ forced i := by
      simp [forced, served]
    rw [y_eq]
    refine ⟨rfl, fun i => ?_, fun i => ?_⟩
    · rw [dirtyMember_markAll, shows]
    · rw [forced_markAll, shows, and_iff_left rfl]

/-- Settles O27: the frames by the `makeFrame` lemmas, the marks by `refreshed` and `marked`, the texts by `decimalText_eq`, and
the catalogue value by value. -/
theorem terminalFramesAreMadeOneAtATime : Obligations.TerminalFramesAreMadeOneAtATime := by
  refine ⟨fun x => ⟨refreshTiles_eq x, by rw [makeFrames, eachTerm], by rw [finish]⟩, ?frames, ?marks, formatValue_length,
    fun _ _ => rfl, fun _ _ _ => rfl, ?numbers, ?catalogue⟩
  case numbers =>
    intro k width n small digits full magnitude text
    have text_eq : decimalText k n = text := decimalText_eq small k
    exact congrArg (fitRight width) text_eq
  case frames =>
    intro k s x last waits same quiet
    have waits_eq (i : Nat) : (!s.maySend x i) = waits i := maySend_eq x i
    have same_eq (i : Nat) : s.unchanged x i = same i := unchanged_eq x i
    have quiet_eq (m : Nat × Bool) : s.quiet x m ↔ quiet m := by rw [State.quiet, waits_eq, same_eq]
    have stays : (fun m : Nat × Bool => !s.maySend x m.1) = fun m => waits m.1 := funext fun m => waits_eq m.1
    refine ⟨fun hi => ⟨if_neg (by simp [hi]), act_ends (makeFrame k) s hi⟩, fun idle => makeFrame_idle idle, ?_⟩
    intro a ha free send
    refine ⟨fun page => (makeFrame_page ha free page).trans (sendOwn_of_addr ha _ _),
      fun page message => (makeFrame_message ha free page message).trans (sendOwn_of_addr ha _ _), fun page message all => ?_, ?_⟩
    · rw [makeFrame_quiet ha free page message fun m hm => (quiet_eq m).mpr (all m hm), stays]
    · intro page message p i forced rest dirty passed due asks e now y t
      have may : s.maySend x i = true := by simpa [← waits_eq] using due
      rw [makeFrame_tile ha free page message dirty (fun m hm => (quiet_eq m).mpr (passed m hm)) may (by rwa [same_eq]), putTile_eq,
        sendOwn_of_addr ha, stays]
      rfl
  case marks =>
    intro k s x page shown same member
    refine ⟨rfl, ?_, ?_⟩
    · intro y
      have y_eq : y = s.refreshed k x := refreshTiles_term k s
      refine ⟨fun absent => y_eq.trans (refreshed_of_absent absent x), fun served => ?_⟩
      rw [refreshed_of_served served] at y_eq
      have joins (i : Nat) : (i ∈ (s.pageTiles x.page).filter fun i => !s.unchanged x i) ↔ i ∈ shown ∧ ¬same i := by
        rw [List.mem_filter, Bool.not_eq_true', ← Bool.not_eq_true, unchanged_iff]
        rfl
      rw [y_eq]
      refine ⟨rfl, fun i => ?_, fun i => ?_, markAll_sorted _ _⟩
      · exact dirtyMember_markAll.trans (or_congr_right (joins i))
      · simp [forced_markAll]
    · intro code scope detail p n position y forced
      have y_eq : y = s.marked p k x := raiseAlarm_term detail k position
      rw [y_eq]
      exact marked_spec p k x s
  case catalogue =>
    intro s shows named maybe strip atBond
    have maybe_eq (n : Option Nat) : optNumber n = maybe n := optNumber_eq n
    have bond_eq : s.bondTag = atBond := bondTag_eq s
    refine ⟨fun _ => rfl, rfl, ?cell, ?heads, ?heatTemp, ?heat, ?strips, ?left, ?missed, ?pending, ?mag, ?slot, ?free, ?out, rfl,
      ?programs, rfl, fun k h => alarmValue_none h, ?alarms, fun k n h => ?links⟩
    case cell => exact named_eq _ (by cases s.ccs.cell <;> rfl)
    case heads =>
      intro o h ho c letter
      obtain rfl := mem_heads ho
      refine ⟨named_eq _ ?state, rfl, rfl, fun no => ⟨claimValue_none no, claimValue_none no⟩,
        fun u r claim bond => ⟨claimValue_some claim bond, claimValue_some claim bond⟩, named_eq _ ?channel,
        congrArg (·, _) (maybe_eq _), congrArg (·, _) (maybe_eq _)⟩
      case state =>
        dsimp only [c]
        cases (s.head (headOf o)).state <;> rfl
      case channel => cases (s.chan (headOf o)).state <;> rfl
    case heatTemp => exact congrArg (·, _) (maybe_eq _)
    case heat => exact named_eq _ (by cases s.trc.heat.state <;> rfl)
    case strips =>
      intro o p ho
      obtain rfl := mem_positions ho
      refine ⟨fun no => ⟨stripValue_none no, stripValue_none no⟩, fun r hr => ⟨stripValue_some hr, ?_⟩⟩
      refine (stripValue_some hr).trans (named_eq _ ?_)
      cases r.scrapped with
      | true => rfl
      | false => cases r.state <;> rfl
    case left => exact Prod.ext ((congrArg optNumber (unitsLeft_eq s)).trans (maybe_eq _)) bond_eq
    case missed => exact Prod.ext (maybe_eq _) bond_eq
    case pending => exact Prod.ext (maybe_eq _) bond_eq
    case mag => exact named_eq _ (by cases s.fdc.mag <;> rfl)
    case slot => exact (slotValue_eq s).trans (congrArg (·, _) (maybe_eq _))
    case free => exact congrArg (·, _) (maybe_eq _)
    case out => exact named_eq _ (by cases s.fdc.out <;> rfl)
    case programs =>
      intro p hp x tag
      refine ⟨rfl, congrArg (·, _) ((congrArg optNumber (Stats.mean_eq x)).trans (maybe_eq _)), fun few => ?few, ?two,
        congrArg (·, _) (maybe_eq _), named_eq _ ?state, fun f v h => ?field⟩
      case few =>
        obtain ⟨sd, margin⟩ := sd_margin_of_few few
        exact ⟨congrArg (optNumber ·, tag) sd, congrArg (optInt ·, tag) margin⟩
      case two =>
        intro two d q low high
        obtain ⟨sd, margin⟩ := sd_margin_of_deviates two ⟨low, high⟩
        exact ⟨congrArg (optNumber ·, tag) sd, congrArg (optInt ·, tag) margin⟩
      case state => cases s.plm.progState.getD p .running <;> rfl
      case field =>
        obtain ⟨value, inside⟩ := programField_eq h
        exact (programValue_eq inside s).trans (congrArg (fun n : Int => (TileValue.number n, tag)) value)
    case alarms =>
      intro k e h code state
      have code_eq : alarmName e.code = code.toList := by
        dsimp only [code]
        cases e.code <;> rfl
      have state_eq : alarmStateName e.state = state.toList := by
        dsimp only [state]
        cases e.state <;> rfl
      exact (alarmValue_some h).trans (named_eq _ (by rw [code_eq, state_eq]))
    case links => exact congrArg (fun n : Nat => (TileValue.number n, DisplayTag.none)) (linkCount_eq h)

end Sys2Proof.Machine
end

section
/-! SUPPORT. The checks on the entries of the page, tile, key map and forwarding tables (R151, R152, R160, R164). -/

namespace Sys2Proof.Machine

set_option Elab.async false

variable {s : State}

/-! ### Pages (R151) -/

/-- The conditions on a page entry; its ranges are checked whether or not it is valid (log entry 19). -/
theorem pageConditions_iff {e : PageEntry} :
    (pageFits e = true ∧ (!e.valid || decide (e.firstTile + e.tileCount ≤ 256)) = true ∧
      (!e.valid || (List.range' e.firstTile e.tileCount).all fun i => (s.tile i).valid) = true) ↔
    e.firstTile ≤ 255 ∧ e.tileCount ≤ 24 ∧ e.keyMap ≤ 15 ∧
      (e.valid = true → e.firstTile + e.tileCount ≤ 256 ∧
        ∀ i, e.firstTile ≤ i → i < e.firstTile + e.tileCount → (s.tile i).valid = true) := by
  have ranges : pageFits e = true ↔ e.firstTile ≤ 255 ∧ e.tileCount ≤ 24 ∧ e.keyMap ≤ 15 := by
    simp [pageFits, inRange_iff, and_assoc]
  rw [ranges]
  cases e.valid
  · simp
  · simp [and_assoc]

/-! ### Tiles (R151, R153) -/

theorem tileFits_iff {e : TileEntry} :
    tileFits e = true ↔
      (e.row ≤ 15 ∧ e.column ≤ 39 ∧ 1 ≤ e.width ∧ e.width ≤ 16 ∧ e.column + e.width ≤ 40 ∧ e.value ≤ 31 ∧ e.operand ≤ 255 ∧
        e.interval ≤ 50) ∧ fractionFits e.format = true := by
  simp only [tileFits, Bool.and_eq_true, inRange_iff, decide_eq_true_eq, Nat.zero_le, true_and]
  tauto

/-- The operands of the 32 values of the catalogue (R153); the last branch takes the values that take no operand. -/
theorem operandFits_iff {v o : Nat} (named : v ≤ 31) :
    operandFits v o = true ↔
      (v ∈ [2, 3, 4, 5, 6, 7, 8, 9] → o ≤ 1) ∧ (v ∈ [12, 13] → o ≤ 2) ∧ (v ∈ [22, 23, 24, 25, 26, 27] → o ≤ 7) ∧
      (v = 28 → o / 16 ≤ 7 ∧ o % 16 ≤ 9) ∧ (v = 30 → o ≤ 31) ∧ (v = 31 → o ≤ 5) ∧
      (v ∈ [0, 1, 10, 11, 14, 15, 16, 17, 18, 19, 20, 21, 29] → o = 0) := by
  unfold operandFits
  split
  case h_20 => grind
  all_goals simp

theorem isName_iff {v : Nat} : isName v = true ↔ v ∈ [1, 2, 3, 7, 11, 13, 17, 20, 27, 30] := by
  unfold isName
  split
  case h_11 => simp_all
  all_goals simp

/-- A name is shown with the format NAME, a number with DECIMAL of up to 3 fraction digits. -/
theorem formatConditions_iff {v : Nat} {f : TileFormat} :
    fractionFits f = true ∧ formatSuits v f = true ↔
      if v ∈ [1, 2, 3, 7, 11, 13, 17, 20, 27, 30] then f = .name else ∃ k ≤ 3, f = .decimal k := by
  simp only [← isName_iff]
  cases f with
  | decimal k => by_cases name : isName v <;> simp [fractionFits, formatSuits, name]
  | name => by_cases name : isName v <;> simp [fractionFits, formatSuits, name]

theorem onValidPage_iff {i : Nat} :
    s.onValidPage i = true ↔ ∃ p ∈ s.tmc.pages, p.valid = true ∧ p.firstTile ≤ i ∧ i < p.firstTile + p.tileCount := by
  simp [State.onValidPage, and_assoc]

/-- The conditions on a tile entry: of its fields when it is valid, of the pages that show it when it is not. -/
theorem tileConditions_iff {i : Nat} {e : TileEntry} :
    ((!e.valid || tileFits e) = true ∧ (!e.valid || operandFits e.value e.operand) = true ∧
      (!e.valid || formatSuits e.value e.format) = true ∧ (e.valid || !s.onValidPage i) = true) ↔
    if e.valid then
      e.row ≤ 15 ∧ e.column ≤ 39 ∧ 1 ≤ e.width ∧ e.width ≤ 16 ∧ e.column + e.width ≤ 40 ∧ e.value ≤ 31 ∧ e.operand ≤ 255 ∧
      e.interval ≤ 50 ∧
      (e.value ∈ [2, 3, 4, 5, 6, 7, 8, 9] → e.operand ≤ 1) ∧ (e.value ∈ [12, 13] → e.operand ≤ 2) ∧
      (e.value ∈ [22, 23, 24, 25, 26, 27] → e.operand ≤ 7) ∧ (e.value = 28 → e.operand / 16 ≤ 7 ∧ e.operand % 16 ≤ 9) ∧
      (e.value = 30 → e.operand ≤ 31) ∧ (e.value = 31 → e.operand ≤ 5) ∧
      (e.value ∈ [0, 1, 10, 11, 14, 15, 16, 17, 18, 19, 20, 21, 29] → e.operand = 0) ∧
      (if e.value ∈ [1, 2, 3, 7, 11, 13, 17, 20, 27, 30] then e.format = .name else ∃ k ≤ 3, e.format = .decimal k)
    else ∀ p ∈ s.tmc.pages, p.valid = true → ¬(p.firstTile ≤ i ∧ i < p.firstTile + p.tileCount) := by
  cases e.valid
  case false => simp [← Bool.not_eq_true, onValidPage_iff]
  case true =>
    simp only [Bool.not_true, Bool.false_or, Bool.true_or, and_true, if_true, tileFits_iff, ← formatConditions_iff]
    constructor
    · rintro ⟨⟨⟨row, column, wide, narrow, right, value, operand, interval⟩, fraction⟩, fits, suits⟩
      obtain ⟨o1, o2, o7, o28, o30, o31, o0⟩ := (operandFits_iff value).mp fits
      exact ⟨row, column, wide, narrow, right, value, operand, interval, o1, o2, o7, o28, o30, o31, o0, fraction, suits⟩
    · rintro ⟨row, column, wide, narrow, right, value, operand, interval, o1, o2, o7, o28, o30, o31, o0, fraction, suits⟩
      exact ⟨⟨⟨row, column, wide, narrow, right, value, operand, interval⟩, fraction⟩,
        (operandFits_iff value).mpr ⟨o1, o2, o7, o28, o30, o31, o0⟩, suits⟩

/-! ### Key maps (R152, R160) -/

theorem operandAllowed_iff {a : KeyAction} {e : KeyEntry} :
    operandAllowed a e = true ↔
      e.source = some .fixed ∧ (∃ m, fixedMax a = some m ∧ e.fixed ≤ m) ∨ e.source = some .tag ∧ takesTag a = true := by
  unfold operandAllowed
  split <;> simp [*, Option.any_eq_true]

/-- The map of an entry is the 16 entries whose index gives the same quotient by 16. -/
theorem keyTaken_iff {t : List KeyEntry} {i : Nat} {e : KeyEntry} :
    keyTaken t i e = true ↔ ∃ j x, j / 16 = i / 16 ∧ j ≠ i ∧ t[j]? = some x ∧ x.valid = true ∧ x.key = e.key := by
  simp only [keyTaken, List.any_eq_true, List.mem_range, Bool.and_eq_true, decide_eq_true_eq, beq_iff_eq]
  constructor
  · rintro ⟨k, low, ⟨other, valid⟩, same⟩
    cases h : t[i / 16 * 16 + k]? with
    | none => simp [List.getD, h] at valid
    | some x =>
      simp only [List.getD, h, Option.getD_some] at valid same
      exact ⟨_, x, by omega, other, h, valid, same⟩
  · rintro ⟨j, x, map, other, h, valid, same⟩
    have place : i / 16 * 16 + j % 16 = j := by omega
    refine ⟨j % 16, by omega, ?_⟩
    simp only [place, List.getD, h, Option.getD_some]
    exact ⟨⟨other, valid⟩, same⟩

/-- The conditions on a key entry that is written valid. -/
theorem keyConditions_iff {t : List KeyEntry} {i : Nat} {e : KeyEntry} :
    ((!e.valid || keyFits e) = true ∧ (!e.valid || !keyTaken t i e) = true) ↔
    (e.valid = true →
      e.key ≤ 63 ∧ e.minLevel ≠ none ∧ e.fixed ≤ 255 ∧
      (∃ a, e.action = some a ∧
        (e.source = some .fixed ∧ (∃ m, fixedMax a = some m ∧ e.fixed ≤ m) ∨ e.source = some .tag ∧ takesTag a = true)) ∧
      ∀ j x, j / 16 = i / 16 → j ≠ i → t[j]? = some x → x.valid = true → x.key ≠ e.key) := by
  cases e.valid
  · simp
  · simp only [Bool.not_true, Bool.false_or, keyFits, Bool.and_eq_true, inRange_iff, Nat.zero_le, true_and, and_assoc,
      Option.isSome_iff_ne_none, Option.any_eq_true, operandAllowed_iff, Bool.not_eq_true', ← Bool.not_eq_true, keyTaken_iff,
      not_exists, not_and, forall_const]

/-! ### The forwarding table (R164) -/

/-- Three checks in order, each with its own result. -/
theorem firstBroken_three {a b c : Bool} {x y z : ResultCode} {fits broken stuck : Prop} (ha : a = true ↔ fits)
    (hb : b = true ↔ ¬broken) (hc : c = true ↔ ¬stuck) :
    (¬fits → firstBroken [(a, x), (b, y), (c, z)] = some x) ∧ (fits → broken → firstBroken [(a, x), (b, y), (c, z)] = some y) ∧
    (fits → ¬broken → stuck → firstBroken [(a, x), (b, y), (c, z)] = some z) ∧
    (fits → ¬broken → ¬stuck → firstBroken [(a, x), (b, y), (c, z)] = none) := by
  simp only [firstBroken_cons]
  refine ⟨fun no => ?_, fun yes bad => ?_, fun yes good bad => ?_, fun yes good free => ?_⟩
  · rw [if_neg (mt ha.mp no)]
  · rw [if_pos (ha.mpr yes), if_neg fun h => hb.mp h bad]
  · rw [if_pos (ha.mpr yes), if_pos (hb.mpr good), if_neg fun h => hc.mp h bad]
  · rw [if_pos (ha.mpr yes), if_pos (hb.mpr good), if_pos (hc.mpr free)]
    rfl

/-- A role is named, and addresses 0, 1 and 63 are given none. -/
theorem roleNamed_iff {a : Nat} {e : ForwardingWrite} :
    (e.role.isSome && (!reservedAddress a || decide (e.role = some .unassigned))) = true ↔
      e.role ≠ none ∧ (a = 0 ∨ a = 1 ∨ a = 63 → e.role = some .unassigned) := by
  have reserved : reservedAddress a = true ↔ a = 0 ∨ a = 1 ∨ a = 63 := by simp [reservedAddress, or_assoc]
  simp only [Bool.and_eq_true, Option.isSome_iff_ne_none, Bool.or_eq_true, Bool.not_eq_true', ← Bool.not_eq_true,
    decide_eq_true_eq, reserved, imp_iff_not_or]

theorem storedForwarding_role (e : ForwardingWrite) :
    (storedForwarding e).role = if e.valid then e.role.getD .unassigned else .unassigned := by
  unfold storedForwarding
  split <;> rfl

/-- A role that a single address may hold is held by no other address than `a`. -/
theorem roleFree_iff {t : List ForwardingEntry} {a : Nat} {r : Role} :
    (sharedRole r || !heldElsewhere t a r) = true ↔
      ¬(r ≠ .other ∧ r ≠ .unassigned ∧ ∃ b < t.length, b ≠ a ∧ roleIn t b = r) := by
  have elsewhere : heldElsewhere t a r = true ↔ ∃ b < t.length, b ≠ a ∧ roleIn t b = r := by simp [heldElsewhere]
  have shared : sharedRole r = true ↔ r = .other ∨ r = .unassigned := by simp [sharedRole]
  rw [Bool.or_eq_true, Bool.not_eq_true', ← Bool.not_eq_true, shared, elsewhere, not_and_or, not_and_or, not_ne_iff, not_ne_iff,
    or_assoc]

/-- Settles O31: each check is a list of conditions, and each list is said by its own lemma. -/
theorem screenAndForwardingEntriesAreChecked : Obligations.ScreenAndForwardingEntriesAreChecked := by
  intro s answers active operands
  have active_iff (r : Role) : s.active r = true ↔ active r := by
    cases r with
    | head h => exact decide_eq_true_iff
    | feedIn => simp [State.active, active, working_iff]
    | feedOut => simp [State.active, active, working_iff, opIs_iff]
    | track => simp [State.active, active, working_iff, opIs_iff, or_assoc]
    | pull => simp [State.active, active, working_iff]
    | heater => exact working_iff
    | term | other | unassigned => exact iff_of_false Bool.false_ne_true id
  refine ⟨?_, fun e => ?_, fun i e => ?_, fun t i e => ?_, fun t a e => ?_⟩
  · intro a
    cases a <;> exact ⟨rfl, rfl⟩
  · exact firstBroken_badValue (by simp) pageConditions_iff
  · exact firstBroken_badValue (by simp) tileConditions_iff
  · exact firstBroken_badValue (by simp) keyConditions_iff
  · intro named r stored held kept
    rw [← storedForwarding_role] at stored
    subst stored
    have idle : (decide (roleIn t a = (storedForwarding e).role) || !s.active (roleIn t a)) = true ↔ ¬kept := by
      rw [not_and_or, not_not, ← active_iff]
      simp
    exact firstBroken_three roleNamed_iff roleFree_iff idle

end Sys2Proof.Machine
end

section
/-! SUPPORT. Notices and the part's own frames (R164, R168, R173), and the full reset and the reset line (R176). -/

namespace Sys2Proof.Machine

set_option Elab.async false

variable {s : State}

/-! ### Roles and addresses (R164) -/

theorem addrOf_eq_none_iff {r : Role} : s.addrOf r = none ↔ ∀ e ∈ s.lif.forwarding, e.valid = true → e.role ≠ r := by
  rw [State.addrOf, addrIn, List.findIdx?_eq_none_iff]
  simp

theorem entry_of_addrOf {r : Role} {a : Nat} (h : s.addrOf r = some a) :
    ∃ e, s.lif.forwarding[a]? = some e ∧ e.valid = true ∧ e.role = r := by
  obtain ⟨inside, holds, -⟩ := List.findIdx?_eq_some_iff_getElem.mp h
  obtain ⟨valid, role⟩ := by simpa using holds
  exact ⟨_, List.getElem?_eq_getElem inside, valid, role⟩

/-! ### Notices and frames that come to wait (R168, R173) -/

theorem notify_of_room {n : Notice} (room : s.lif.notices.length < 16) :
    notify n s =
      { s with lif := { s.lif with notices := s.lif.notices ++ [(s.lif.stamp, { notice := n, dropped := s.lif.droppedMark })]
                                   droppedMark := false, stamp := s.lif.stamp + 1 } } := by
  rw [notify_eq, if_pos room]

theorem notify_of_full {n : Notice} (full : 16 ≤ s.lif.notices.length) :
    notify n s = { s with lif := { s.lif with dropped := min 255 (s.lif.dropped + 1), droppedMark := true } } := by
  rw [notify_eq, if_neg (Nat.not_lt.mpr full)]
  rfl

theorem sendDrive_of_addrOf {h : Head} {a : Nat} (d : Nat) (mark : Bool) (ha : s.addrOf (.head h) = some a) :
    sendDrive h d mark s =
      { s with lif := { s.lif with
        drives := (s.lif.drives.filter fun x => decide (x.head ≠ h)) ++
          [{ head := h, dst := BitVec.ofNat 8 a, drive := d, endMark := mark }] } } := by
  unfold sendDrive
  rw [ha]
  simp [bne, beq_eq_decide]

theorem sendDrive_of_none {h : Head} (d : Nat) (mark : Bool) (ha : s.addrOf (.head h) = none) : sendDrive h d mark s = s := by
  unfold sendDrive
  rw [ha]

/-- Settles O18: each of the three operations has its equations. -/
theorem noticesQueueOrAreCounted : Obligations.NoticesQueueOrAreCounted := by
  intro n s
  refine ⟨notify_of_room, notify_of_full, fun r => addrOf_eq_none_iff, fun r a => entry_of_addrOf, fun r b => ⟨fun h => ?_, fun a h => ?_⟩,
    fun h d mark => ⟨sendDrive_of_none d mark, fun a => sendDrive_of_addrOf d mark⟩⟩
  · rw [sendOwn, h]
  · rw [sendOwn, h]

/-! ### ESTOP raised in an empty list (R149, R176) -/

theorem becomeEffective_of_off (off : ∀ h, (s.head h).state = .off) (c : AlarmCode) (sc : AlarmScope) :
    becomeEffective c sc s = s := by
  have stays (h : Head) : addReason .alarm h s = s := by rw [addReason_eq, if_pos (off h)]
  unfold becomeEffective
  split
  · cases sc <;> simp only [stays]
  · rfl

/-- The marks of a raise read the terminals and the forwarding table alone. -/
theorem forceAlarmTiles_tmc_congr {t : State} (k : Nat) (tmc : t.tmc = s.tmc) (forwarding : t.lif.forwarding = s.lif.forwarding) :
    (eachTerm (forceAlarmTiles k) t).tmc = (eachTerm (forceAlarmTiles k) s).tmc := by
  have each (u v : State) (p : Term) (tmc : u.tmc = v.tmc) (forwarding : u.lif.forwarding = v.lif.forwarding) :
      (forceAlarmTiles k p u).tmc = (forceAlarmTiles k p v).tmc ∧
        (forceAlarmTiles k p u).lif.forwarding = (forceAlarmTiles k p v).lif.forwarding := by
    rw [forceAlarmTiles_term_eq, forceAlarmTiles_term_eq, marked_congr tmc forwarding]
    exact ⟨by simp only [State.modTerm_tmc, tmc], forwarding⟩
  have first := each t s .t1 tmc forwarding
  have second := each _ _ .t2 first.1 first.2
  have third := each _ _ .t3 second.1 second.2
  exact (each _ _ .t4 third.1 third.2).1

theorem notify_setAlarms (n : Notice) (l : List AlarmEntry) (s : State) :
    notify n (s.setAlarms l) = (notify n s).setAlarms l := by
  rw [notify_eq, notify_eq]
  rfl

/-- A raise with both heads OFF and no alarm listed. -/
theorem raiseAlarm_of_off (off : ∀ h, (s.head h).state = .off) (none_ : s.alc.list = []) (c : AlarmCode) (sc : AlarmScope) (d : Nat) :
    raiseAlarm c sc d s =
      { notify (.alarm c sc (if isEvent c then .cleared else .active) d 0) s with
        alc := { s.alc with list := [newEntry c sc d s.now] }
        tmc := (eachTerm (forceAlarmTiles 0) s).tmc } := by
  let n : Notice := .alarm c sc (if isEvent c then .cleared else .active) d 0
  let t : State := (notify n s).setAlarms [newEntry c sc d s.now]
  have marks : (eachTerm (forceAlarmTiles 0) t).tmc = (eachTerm (forceAlarmTiles 0) s).tmc :=
    forceAlarmTiles_tmc_congr 0 (notify_tmc n s) (notify_forwarding n s)
  have raised : raiseAlarm c sc d s = becomeEffective c sc (eachTerm (forceAlarmTiles 0) t) := by
    rw [raiseAlarm_of_room (by simp [State.unlists, none_]) (by simp [none_])]
    simp only [appendAlarm, alarmNotice, none_, List.nil_append, List.length_nil, notify_setAlarms]
    rfl
  rw [raised, forceAlarmTiles_eq, becomeEffective_of_off (fun h => ?_), marks]
  · simp only [t, State.setAlarms, notify_alc]
    rfl
  · exact (congrArg HeadCtx.state (congrArg (·.get h) (notify_heads n s))).trans (off h)

/-! ### The full reset and the reset line (R176) -/

/-- No terminal is in service while no role is assigned, and then a raise marks no tile. -/
theorem forceAlarmTiles_of_unassigned (k : Nat) (none_ : ∀ t, s.addrOf (.term t) = none) : eachTerm (forceAlarmTiles k) s = s := by
  have stays (t : Term) : forceAlarmTiles k t s = s := if_neg (by simp [State.inService, none_ t])
  simp only [eachTerm, stays]

/-- With no frame for the F-port and none but notices for the U-port, a free U-port transmitter takes the oldest notice. -/
theorem kick_of_notice {k : Nat} {n : NoticeFrame} {r : List (Nat × NoticeFrame)} (drives : s.lif.drives = []) (own : s.lif.own = [])
    (down : s.lif.ufQueue = []) (free : s.lif.uTx = none) (replies : s.lif.replies = []) (notices : s.lif.notices = (k, n) :: r)
    (up : s.lif.fuQueue = []) : kick s = { s with lif := { s.lif with notices := r, uTx := some (.notice n) } } := by
  have idle : kickF s = s := by simp [kickF, pickF, drives, own, down]
  rw [kick, idle]
  simp [kickU, pickU, forwardedBefore, free, replies, notices, up]

theorem fullReset_eq (c : FullCause) (s : State) :
    fullReset c s =
      { ccs := { cause := causeOf c, estop := s.ccs.estop }
        lif :=
          { uTx := some (.notice { notice := .started (causeOf c), dropped := false })
            notices := if s.ccs.estop then [(1, { notice := .alarm .estop .cell .active 0 0, dropped := false })] else []
            stamp := if s.ccs.estop then 2 else 1 }
        alc := if s.ccs.estop then { list := [newEntry .estop .cell 0 0] } else {}
        free := s.free, pending := s.pending } := by
  let t : State :=
    { ccs := { cause := causeOf c, estop := s.ccs.estop }
      lif := { notices := [(0, { notice := .started (causeOf c), dropped := false })], stamp := 1 }
      free := s.free, pending := s.pending }
  have unassigned (k : Term) : t.addrOf (.term k) = none := addrOf_eq_none_iff.mpr fun e he => by
    rw [List.eq_of_mem_replicate he]
    nofun
  have off (h : Head) : (t.head h).state = .off := by cases h <;> rfl
  show kick (if s.ccs.estop then raiseAlarm .estop .cell 0 t else t) = _
  split
  · rw [raiseAlarm_of_off off rfl, forceAlarmTiles_of_unassigned 0 unassigned, notify_of_room (by simp [t])]
    exact kick_of_notice rfl rfl rfl rfl rfl rfl rfl
  · exact kick_of_notice rfl rfl rfl rfl rfl rfl rfl

/-- The state after reset is that of a power-on with the line released. -/
theorem fullReset_power : fullReset .power { State.reset with ccs := { State.reset.ccs with estop := false } } = State.reset :=
  fullReset_eq .power _

/-- Settles O2: a reset is `fullReset_eq`, and the state after reset is one of them. -/
theorem fullResetReachesTheResetValues : Obligations.FullResetReachesTheResetValues := by
  constructor
  · intro cause c s
    have causes : cause c = causeOf c := by cases c <;> rfl
    rw [causes]
    exact congrArg _ (fullReset_eq c s)
  · exact congrArg _ fullReset_power

/-- Settles O60: every full reset meets the laws, from any state (`fullReset_lawful`). -/
theorem resetMeetsTheLaws : Obligations.ResetMeetsTheLaws :=
  lawful_iff.mp (fullReset_power ▸ fullReset_lawful .power _)

theorem act_of_inReset (f : State → State) (held : s.ccs.inReset = true) : act f s = .next s := if_pos held

/-- The commands that look at the reset line or the E-stop line themselves, or end the reset. -/
def watchesLines (c : Instr) : Prop :=
  (∃ k, c = .fullReset k) ∨ c = .resetLineAsserted ∨ c = .estopAssert ∨ c = .estopRelease

/-- What a command is, by the request that it carries: it serves that request; without one it watches the lines, or the asserted reset
line holds it. -/
def execForm (c : Instr) : Option (Byte × Request) → Prop
  | some p => ∃ f : State → Served, exec c = act (serve p.1 p.2 f)
  | none => watchesLines c ∨ ∀ s : State, s.ccs.inReset = true → exec c s = .next s

theorem exec_form (c : Instr) : execForm c (carries c) := by
  cases c with
  | fullReset k => exact .inl (.inl ⟨k, rfl⟩)
  | resetLineAsserted => exact .inl (.inr (.inl rfl))
  | estopAssert => exact .inl (.inr (.inr (.inl rfl)))
  | estopRelease => exact .inl (.inr (.inr (.inr rfl)))
  | restart tag => exact .inr fun _ held => if_pos held
  | millisecondTick =>
    refine .inr fun s held => ?_
    rw [exec_millisecondTick]
    exact act_of_inReset _ held
  | dwellComplete | fPortFrame | uPortFrame | fPortFrameSent | uPortFrameSent | tileIntervalExpiry | mreq | magIn | magOut | stripIn
  | feedFault | pushTimeout | outputMagIn | outputMagOut | pushGrant | movePbGrant | moveBpGrant | ejectGrant | moveDone | trackFault
  | moveTimeout | ejected | outputFeedFault | heatSample | heatSignalTimerExpiry | touchdown | usSample | startupTimeout
  | lossWindowExpiry | bondEnd | wireDone | aborted | motionFault | headDeadlineExpiry | pullReq | pullResult | pullRequestTimeout
  | screenKey => exact .inr fun _ held => act_of_inReset _ held
  | _ => exact ⟨_, rfl⟩

theorem exec_of_inReset {c : Instr} (held : s.ccs.inReset = true) (blind : ¬watchesLines c) : exec c s = .next s := by
  have form := exec_form c
  cases carried : carries c with
  | none =>
    rw [carried] at form
    exact form.resolve_left blind s held
  | some p =>
    rw [carried] at form
    obtain ⟨f, exec_c⟩ := form
    rw [exec_c]
    exact act_of_inReset _ held

/-- Settles O3: the four commands left out are those that watch the lines (`exec_of_inReset`). -/
theorem resetLineHoldsThePart : Obligations.ResetLineHoldsThePart := by
  refine fun s => ⟨rfl, fun held => ⟨if_pos held, if_pos held, fun c full line assert release => exec_of_inReset held ?_⟩⟩
  rintro (⟨k, rfl⟩ | reset | asserted | released)
  · exact full k rfl
  · exact line reset
  · exact assert asserted
  · exact release released

end Sys2Proof.Machine
end

section
/-! SUPPORT. Time and dwell (R24, R176), the E-stop line (R175), and CELL_CMD (R174). -/

namespace Sys2Proof.Machine

set_option Elab.async false

variable {s : State}

/-! ### Time and dwell (R24, R176) -/

/-- A strip record compared with the dwell (R24). -/
def State.arrived (s : State) (r : StripRecord) : StripRecord :=
  if r.state = .preheat ∧ r.scrapped = false ∧ s.ccs.params.preheatDwell ≤ r.dwell then { r with state := .waitBond } else r

theorem dwellCheck_arrived (s : State) : dwellCheck s = { s with trc := { s.trc with preheat := s.trc.preheat.map s.arrived } } := by
  cases h : s.trc.preheat with
  | none =>
    simp only [dwellCheck, h, Option.map_none]
    rw [← h]
  | some r =>
    rw [dwellCheck_eq h, Option.map_some, State.arrived]
    split <;> rfl

/-- A strip record after a millisecond at PREHEAT (R24). -/
def State.dwelled (s : State) (r : StripRecord) : StripRecord :=
  if s.trc.heat.state = .ready ∧ (r.state = .preheat ∨ r.state = .waitBond) ∧ r.scrapped = false then
    s.arrived { r with dwell := min 65535 (r.dwell + 1) }
  else r

theorem countDwell_eq (s : State) : countDwell s = { s with trc := { s.trc with preheat := s.trc.preheat.map s.dwelled } } := by
  cases h : s.trc.preheat with
  | none =>
    rw [countDwell, if_neg (by simp [State.dwells, h]), Option.map_none, ← h]
  | some r =>
    have dwells : s.dwells = true ↔
        s.trc.heat.state = .ready ∧ (r.state = .preheat ∨ r.state = .waitBond) ∧ r.scrapped = false := by
      simp [State.dwells, h]
    rw [countDwell, Option.map_some, State.dwelled]
    refine (if_congr dwells rfl rfl).trans ?_
    split
    · rw [dwellCheck_arrived, State.modStrip, State.strip, h]
      rfl
    · rw [← h]

/-- Settles O23: a tick is `countDwell_eq` a millisecond later, and the dwell's end `dwellCheck_arrived`. -/
theorem ticksCountTimeAndDwell : Obligations.TicksCountTimeAndDwell := by
  intro s running arrived counted
  refine ⟨?_, fun last => by rw [last]; rfl, act_ends_of_eq running (dwellCheck_arrived s)⟩
  rw [exec_millisecondTick]
  exact act_ends_of_eq running (countDwell_eq _)

/-! ### The E-stop line (R175) -/

/-- A raise leaves Cell Control as it is. -/
theorem raiseAlarm_ccs (c : AlarmCode) (sc : AlarmScope) (d : Nat) (s : State) : (raiseAlarm c sc d s).ccs = s.ccs :=
  (apart_fields (raiseAlarm_apart c sc d s)).1

/-- Settles O7: an event of the line at a level that the part has not yet seen is `assertEstop` or `releaseEstop`. -/
theorem estopLineStopsTheCell : Obligations.EstopLineStopsTheCell := by
  intro s running
  let t := raiseAlarm .estop .cell 0 { s with ccs := { s.ccs with estop := true } }
  have stopped : t.ccs.cell = s.ccs.cell := by simp only [t, raiseAlarm_ccs]
  have asserted : assertEstop s = if s.ccs.cell = .stopped then t else enterStopped t := if_congr (by rw [← stopped]) rfl rfl
  constructor
  · show Ends _ (if s.ccs.estop = true then s else if s.ccs.cell = .stopped then t else enterStopped t)
    exact asserted ▸ ⟨_, if_neg (by simp [running]), finish_closes _⟩
  · exact ⟨_, if_neg (by simp [running]), finish_closes _⟩

/-! ### CELL_CMD (R174) -/

/-- A command of the cell that the table of R174 applies only where `p` holds, with BAD_STATE elsewhere. -/
theorem serves_cell {c : Instr} {tag : Byte} {r : Request} {f : State → Served} {s u x : State} {p : Prop} [Decidable p]
    (he : exec c s = act (serve tag r f) s) (hf : f u = if p then accept x else refuse .badState u) :
    Serves c tag r s u (if p then x else u) (if p then .ok else .badState) := by
  refine serves_of_eq he (hf.trans ?_)
  split <;> rfl

theorem onStart_eq (u : State) :
    let run : State := { u with ccs := { u.ccs with cell := .run } }
    onStart u =
      if u.ccs.cell = .ready then
        accept (eachHead askUnit
          (if u.trc.heat.state = .ready then run else raiseAlarm .heatNotReady .cell (u.trc.heat.lastTemp.getD 0) run))
      else refuse .badState u := rfl

theorem onDrain_eq (u : State) :
    onDrain u =
      if u.ccs.cell = .run then
        accept
          (if u.trc.preheat = none ∧ u.trc.bond = none ∧ u.trc.post = none ∧ u.trc.op = none then
            eachHead (fun h t => unpark h (removeReason .cell h t)) { u with ccs := { u.ccs with cell := .ready, feedPause := false } }
          else { u with ccs := { u.ccs with cell := .drain } })
      else refuse .badState u := by
  simp only [onDrain, drainCheck_eq, true_and]

theorem onPause_eq (u : State) :
    onPause u =
      if u.ccs.cell = .run ∨ u.ccs.cell = .drain then
        accept (addReason .cell .b (addReason .cell .a { u with ccs := { u.ccs with feedPause := true } }))
      else refuse .badState u :=
  if_congr working_iff rfl rfl

theorem onResume_eq (u : State) :
    onResume u =
      if u.ccs.cell = .run ∨ u.ccs.cell = .drain then
        accept (eachHead (removeReason .cell) { u with ccs := { u.ccs with feedPause := false } })
      else refuse .badState u :=
  if_congr working_iff rfl rfl

/-- Settles O5: ARM, START, DRAIN, PAUSE and RESUME each have the one condition of `serves_cell`, and STOP has none. -/
theorem cellCommandsFollowTheTable : Obligations.CellCommandsFollowTheTable := by
  refine ⟨fun h t => rfl, fun s u tag => ⟨serves_cell rfl rfl, serves_cell rfl (onStart_eq u), serves_cell rfl (onDrain_eq u),
    serves_cell rfl (onPause_eq u), serves_cell rfl (onResume_eq u), serves_of_eq rfl ?_⟩⟩
  unfold onStop
  split <;> rfl

end Sys2Proof.Machine
end
section
/-! SUPPORT. Frames at the F-port (R162, R163, R165, R167): the receive checks, what the part hears, and the event that a frame carries. -/

namespace Sys2Proof.Machine

set_option Elab.async false

variable {s : State}

/-! ### The layouts of 11.9 and the CRC (R162) -/

theorem crcBit_eq (c : BitVec 16) : crcBit c = if c.getLsbD 15 then (c <<< 1) ^^^ 0x1021 else c <<< 1 := by
  simp only [crcBit, BitVec.msb_eq_getLsbD_last]
  rfl

theorem crc16_append (l : List Byte) (b : Byte) : crc16 (l ++ [b]) = crcByte (crc16 l) b := List.foldl_append ..

theorem decodeSample_of_short {l : List Byte} (short : l.length < 4) : decodeSample l = none := by
  match l, short with
  | [], _ | [_], _ | [_, _], _ | [_, _, _], _ => rfl

theorem isOwnKind_iff {k : Byte} : isOwnKind k = true ↔ k ∈ definedKinds := List.contains_iff_mem

theorem kindAction_of_own {k : Byte} (own : k.toNat < 64) : s.kindAction k = .pass := if_pos own

theorem kindAction_of_foreign {k : Byte} {a : KindAction} (foreign : 64 ≤ k.toNat) (ha : s.lif.kinds[k.toNat - 64]? = some a) :
    s.kindAction k = a := by
  rw [State.kindAction, if_neg (Nat.not_lt.mpr foreign), List.getD_eq_getElem?_getD, ha]
  rfl

theorem roleAt_eq (a : Nat) (s : State) :
    s.roleAt a = ((s.lif.forwarding[a]?).map fun e => if e.valid then e.role else .unassigned).getD .unassigned := by
  rw [State.roleAt, roleIn]
  cases s.lif.forwarding[a]? <;> rfl

/-! ### The receive checks (R162) -/

section
variable {f : RxFrame}

theorem receive_of_short (short : 60 < f.length.toNat ∨ f.payload.length < f.length.toNat) : receive f = .badLength := if_pos short

theorem receive_of_corrupt (long : ¬(60 < f.length.toNat ∨ f.payload.length < f.length.toNat))
    (corrupt : crc16 ([f.dst, f.src, f.kind, f.length] ++ receivedPayload f) ≠ f.crc) : receive f = .badCrc := by
  rw [receive]
  exact (if_neg long).trans (if_neg corrupt)

theorem receive_of_sound (long : ¬(60 < f.length.toNat ∨ f.payload.length < f.length.toNat))
    (sound : crc16 ([f.dst, f.src, f.kind, f.length] ++ receivedPayload f) = f.crc) : receive f = .good := by
  rw [receive]
  exact (if_neg long).trans (if_pos sound)

end

/-! ### What the part hears (R165) -/

/-- The messages that answer an operation in flight (R11, R32, R121, R165). -/
theorem isAnswer_iff {r : Role} {f : LinkFrame} :
    isAnswer r f = true ↔
      r = .feedIn ∧ f.kind = 0x19 ∧ (f.reads = .feedEvt .feedFault ∨ ∃ c, f.reads = .feedEvt (.stripIn c)) ∨
      r = .feedOut ∧ f.kind = 0x19 ∧ (f.reads = .feedEvt .feedFault ∨ ∃ n, f.reads = .feedEvt (.ejected n)) ∨
      r = .track ∧ f.kind = 0x1B ∧ (∃ e, f.reads = .trackEvt e) ∨
      r = .pull ∧ f.kind = 0x21 ∧ ∃ tag force mode st, f.reads = .pullResult tag force mode st := by
  constructor
  · intro h
    unfold isAnswer at h
    split at h
    · exact .inl ⟨rfl, of_decide_eq_true h, .inr ⟨_, ‹_›⟩⟩
    · exact .inl ⟨rfl, of_decide_eq_true h, .inl ‹_›⟩
    · exact .inr (.inl ⟨rfl, of_decide_eq_true h, .inr ⟨_, ‹_›⟩⟩)
    · exact .inr (.inl ⟨rfl, of_decide_eq_true h, .inl ‹_›⟩)
    · exact .inr (.inr (.inl ⟨rfl, of_decide_eq_true h, _, ‹_›⟩))
    · exact .inr (.inr (.inr ⟨rfl, of_decide_eq_true h, _, _, _, _, ‹_›⟩))
    · cases h
  · rintro (⟨rfl, kind, reads | ⟨c, reads⟩⟩ | ⟨rfl, kind, reads | ⟨n, reads⟩⟩ | ⟨rfl, kind, e, reads⟩ |
      ⟨rfl, kind, tag, force, mode, st, reads⟩) <;>
      unfold isAnswer <;> rw [reads] <;> exact decide_eq_true kind

/-- A node's frame of an own kind is heard: the part owns the node, and while an operation in flight alone gives it the node, the frame
answers that operation (R165). -/
theorem consumes_iff {r : Role} {f : LinkFrame} :
    s.consumes r f = true ↔ isOwnKind f.kind = true ∧
      match r with
      | .head h => (s.head h).state ≠ .off
      | .feedIn => s.ccs.cell ≠ .stopped ∨ s.fdc.push.isSome = true ∧ isAnswer r f = true
      | .feedOut => s.ccs.cell ≠ .stopped ∨ (∃ o, s.trc.op = some o ∧ o.kind = .eject) ∧ isAnswer r f = true
      | .track => s.ccs.cell ≠ .stopped ∨ (∃ o, s.trc.op = some o ∧ (o.kind = .movePb ∨ o.kind = .moveBp)) ∧ isAnswer r f = true
      | .heater => s.ccs.cell ≠ .stopped
      | .pull => s.ccs.cell ≠ .stopped ∨ s.plm.req.isSome = true ∧ isAnswer r f = true
      | .term _ => True
      | .other | .unassigned => False := by
  have either : (∃ o, s.trc.op = some o ∧ (o.kind = .movePb ∨ o.kind = .moveBp)) ↔
      s.opIs .movePb = true ∨ s.opIs .moveBp = true := by
    simp only [opIs_iff, and_or_left, exists_or]
  rw [State.consumes, Bool.and_eq_true, Bool.and_eq_true, and_assoc]
  refine and_congr_right fun _ => ?_
  cases r with
  | head h => simp [State.owned, State.onlyExtended]
  | heater | term | other | unassigned => simp [State.owned, State.onlyExtended]
  | feedIn | pull =>
    by_cases stopped : s.ccs.cell = .stopped <;> simp [State.owned, State.onlyExtended, stopped]
  | feedOut =>
    by_cases stopped : s.ccs.cell = .stopped <;> simp [State.owned, State.onlyExtended, stopped, opIs_iff]
  | track =>
    by_cases stopped : s.ccs.cell = .stopped <;> simp [State.owned, State.onlyExtended, stopped, ← either]

/-! ### The event that a frame carries (R165) -/

/-- The frame of an event's command says of an answer what the frame that carries the event says, and its role's block does the same
with it. -/
structure SameEvent (r : Role) (f g : LinkFrame) : Prop where
  src : g.src = f.src
  kind : g.kind = f.kind
  answer : isAnswer r g = isAnswer r f
  deliver : ∀ s, deliver r g s = deliver r f s

/-- A frame that says the same under the same kind, to a block that looks at no payload bytes. -/
theorem SameEvent.of_reads {r : Role} {f g : LinkFrame} (src : g.src = f.src) (kind : g.kind = f.kind) (reads : g.reads = f.reads)
    (sample : ∀ h, r = .head h → f.kind ≠ 0x12) : SameEvent r f g where
  src := src
  kind := kind
  answer := by
    unfold isAnswer
    rw [reads, kind]
  deliver s := by
    cases r with
    | head h =>
      simp only [Machine.deliver, deliverHead, kind, reads]
      rw [if_neg (sample h rfl), if_neg (sample h rfl)]
    | feedIn | feedOut | track | heater | pull | term => simp only [Machine.deliver, kind, reads]
    | other | unassigned => rfl

theorem eventOf_head {h : Head} {f : RxFrame} {e : Instr} (he : eventOf (.head h) f = some e) :
    ∃ g, exec e = act (fieldArrive g) ∧ SameEvent (.head h) (receivedFrame f) g := by
  simp only [eventOf] at he
  split at he
  · rename_i kind
    obtain ⟨x, hx, rfl⟩ := Option.map_eq_some_iff.mp he
    refine ⟨eventFrame f.src 0x12 (encodeSample x) .nothing, rfl, rfl, kind.symm, rfl, fun s => ?_⟩
    have sample : onSamplePayload h (receivedPayload f) s = onSample h x.feedback.toNat x.seq x.fault s := by
      simp only [onSamplePayload, receivedPayload, hx]
    simp only [deliver, deliverHead, receivedFrame, eventFrame, kind, if_true, sample, onSamplePayload_encodeSample]
  · rename_i other
    split at he
    · rename_i ev reads
      split at he
      · rename_i kind
        obtain rfl := Option.some.inj he
        refine ⟨eventFrame f.src 0x11 [] (.headEvt ev), by cases ev <;> rfl, .of_reads rfl kind.symm reads.symm fun _ _ => other⟩
      · cases he
    · cases he

/-- The command of the event that a frame carries does what the frame does. -/
theorem eventOf_some {r : Role} {f : RxFrame} {e : Instr} (he : eventOf r f = some e) :
    ∃ g, exec e = act (fieldArrive g) ∧ SameEvent r (receivedFrame f) g := by
  have found {k : Byte} {m : Says} {c : Instr} (hr : ∀ h, r ≠ .head h) (kind : f.kind = k) (reads : f.reads = m)
      (hc : exec c = act (fieldArrive (eventFrame f.src k [] m))) :
      ∃ g, exec c = act (fieldArrive g) ∧ SameEvent r (receivedFrame f) g :=
    ⟨_, hc, .of_reads rfl kind.symm reads.symm fun h role => absurd role (hr h)⟩
  cases r with
  | head h => exact eventOf_head he
  | other | unassigned => cases he
  | feedIn =>
    cases reads : f.reads with
    | feedEvt ev =>
      obtain ⟨kind, he⟩ := Option.ite_none_right_eq_some.mp (by simpa only [eventOf, reads] using he)
      cases ev with
      | ejected => cases he
      | magIn | magOut | stripIn | feedFault =>
        obtain rfl := Option.some.inj he
        exact found nofun kind reads rfl
    | nothing | headEvt | trackEvt | heatSample | pullResult | screenKey | request => simp [eventOf, reads] at he
  | feedOut =>
    cases reads : f.reads with
    | feedEvt ev =>
      obtain ⟨kind, he⟩ := Option.ite_none_right_eq_some.mp (by simpa only [eventOf, reads] using he)
      cases ev with
      | stripIn => cases he
      | magIn | magOut | ejected | feedFault =>
        obtain rfl := Option.some.inj he
        exact found nofun kind reads rfl
    | nothing | headEvt | trackEvt | heatSample | pullResult | screenKey | request => simp [eventOf, reads] at he
  | track =>
    cases reads : f.reads with
    | trackEvt ev =>
      obtain ⟨kind, he⟩ := Option.ite_none_right_eq_some.mp (by simpa only [eventOf, reads] using he)
      obtain rfl := Option.some.inj he
      exact found nofun kind reads (by cases ev <;> rfl)
    | nothing | headEvt | feedEvt | heatSample | pullResult | screenKey | request => simp [eventOf, reads] at he
  | heater =>
    cases reads : f.reads with
    | heatSample =>
      obtain ⟨kind, he⟩ := Option.ite_none_right_eq_some.mp (by simpa only [eventOf, reads] using he)
      obtain rfl := Option.some.inj he
      exact found nofun kind reads rfl
    | nothing | headEvt | feedEvt | trackEvt | pullResult | screenKey | request => simp [eventOf, reads] at he
  | pull =>
    cases reads : f.reads with
    | pullResult =>
      obtain ⟨kind, he⟩ := Option.ite_none_right_eq_some.mp (by simpa only [eventOf, reads] using he)
      obtain rfl := Option.some.inj he
      exact found nofun kind reads rfl
    | nothing | headEvt | feedEvt | trackEvt | heatSample | screenKey | request => simp [eventOf, reads] at he
  | term k =>
    cases reads : f.reads with
    | screenKey =>
      obtain ⟨kind, he⟩ := Option.ite_none_right_eq_some.mp (by simpa only [eventOf, reads] using he)
      obtain rfl := Option.some.inj he
      exact found nofun kind reads rfl
    | nothing | headEvt | feedEvt | trackEvt | heatSample | pullResult | request => simp [eventOf, reads] at he

/-- A frame that carries no event is discarded by its role's block. -/
theorem deliver_of_eventOf_none {r : Role} {f : RxFrame} (none_ : eventOf r f = none) : deliver r (receivedFrame f) s = s := by
  cases r with
  | other | unassigned => rfl
  | head h =>
    rw [deliver, deliverHead]
    simp only [eventOf] at none_
    split
    · rename_i kind
      rw [if_pos (show f.kind = 0x12 from kind), Option.map_eq_none_iff] at none_
      simp only [onSamplePayload, receivedFrame, receivedPayload, none_]
    · rename_i other
      rw [if_neg (show f.kind ≠ 0x12 from other)] at none_
      simp only [receivedFrame]
      cases reads : f.reads with
      | headEvt => exact if_neg fun kind => by simp [reads, kind] at none_
      | nothing | feedEvt | trackEvt | heatSample | pullResult | screenKey | request => rfl
  | feedIn =>
    simp only [deliver, receivedFrame]
    cases reads : f.reads with
    | feedEvt ev =>
      cases ev with
      | ejected => exact ite_self s
      | magIn | magOut | stripIn | feedFault => exact if_neg fun kind => by simp [eventOf, feedEvent, reads, kind] at none_
    | nothing | headEvt | trackEvt | heatSample | pullResult | screenKey | request => rfl
  | feedOut =>
    simp only [deliver, receivedFrame]
    cases reads : f.reads with
    | feedEvt ev =>
      cases ev with
      | stripIn => exact ite_self s
      | magIn | magOut | ejected | feedFault => exact if_neg fun kind => by simp [eventOf, outFeedEvent, reads, kind] at none_
    | nothing | headEvt | trackEvt | heatSample | pullResult | screenKey | request => rfl
  | track =>
    simp only [deliver, receivedFrame]
    cases reads : f.reads with
    | trackEvt => exact if_neg fun kind => by simp [eventOf, reads, kind] at none_
    | nothing | headEvt | feedEvt | heatSample | pullResult | screenKey | request => rfl
  | heater =>
    simp only [deliver, receivedFrame]
    cases reads : f.reads with
    | heatSample => exact if_neg fun kind => by simp [eventOf, reads, kind] at none_
    | nothing | headEvt | feedEvt | trackEvt | pullResult | screenKey | request => rfl
  | pull =>
    simp only [deliver, receivedFrame]
    cases reads : f.reads with
    | pullResult => exact if_neg fun kind => by simp [eventOf, reads, kind] at none_
    | nothing | headEvt | feedEvt | trackEvt | heatSample | screenKey | request => rfl
  | term =>
    simp only [deliver, receivedFrame]
    cases reads : f.reads with
    | screenKey => exact if_neg fun kind => by simp [eventOf, reads, kind] at none_
    | nothing | headEvt | feedEvt | trackEvt | heatSample | pullResult | request => rfl

/-! ### A frame at the F-port (R162, R163, R165, R167) -/

/-- A frame that the part does not hear joins the F→U queue, which holds 16 (R165, R167). -/
theorem forwardUp_eq (f : LinkFrame) (s : State) :
    forwardUp f s =
      if s.lif.fuQueue.length < 16 then
        { s with lif := { s.lif with fuQueue := s.lif.fuQueue ++ [(s.lif.stamp, f)], stamp := s.lif.stamp + 1 } }
      else s.modFCounts fun c => { c with overrun := min 65535 (c.overrun + 1) } := rfl

theorem fieldArrive_of_consumes {f : LinkFrame} (pass : s.kindAction f.kind = .pass)
    (heard : s.consumes (s.roleAt f.src.toNat) f = true) : fieldArrive f s = deliver (s.roleAt f.src.toNat) f s := by
  rw [fieldArrive, pass, if_neg nofun, if_pos heard]

theorem SameEvent.fieldArrive_eq {f g : LinkFrame} (same : SameEvent (s.roleAt f.src.toNat) f g) (pass : s.kindAction f.kind = .pass)
    (heard : s.consumes (s.roleAt f.src.toNat) f = true) : fieldArrive g s = fieldArrive f s := by
  rw [fieldArrive_of_consumes pass heard, ← same.deliver, ← same.src]
  refine fieldArrive_of_consumes (by rw [same.kind, pass]) ?_
  rwa [State.consumes, same.src, same.kind, same.answer]

theorem act_congr {f g : State → State} (h : f s = g s) : act f s = act g s := by
  unfold act
  rw [h]

/-- Settles O24: a frame is received or not (`receive`), heard or not (`consumes_iff`), and carries an event or not (`eventOf`). -/
theorem fieldFramesAreCheckedThenRouted : Obligations.FieldFramesAreCheckedThenRouted := by
  refine ⟨⟨rfl, fun l b => ?_⟩, fun b0 b1 seq marks l => rfl, fun l => decodeSample_of_short, fun k => isOwnKind_iff,
    fun k s => ⟨kindAction_of_own, fun foreign a => kindAction_of_foreign foreign⟩, roleAt_eq, fun r f => isAnswer_iff,
    fun f s running => ?_⟩
  · simp only [crc16_append, crcByte, crcBit_eq]
  · intro c data counts role up short sound cell heard
    have hears : s.consumes role up = true ↔ heard := consumes_iff
    have ends {x : State} (hx : onFPort f s = x) : Ends c x := act_ends_of_eq running hx
    have good (ok : sound) : onFPort f s = fieldArrive up s := by rw [onFPort, receive_of_sound ok.1 ok.2]; rfl
    refine ⟨fun bad => ends ?_, fun long bad => ends ?_, fun ok drop => ends ?_, fun ok pass hear e event => ?_,
      fun ok pass hear event => ends ?_, fun ok pass deaf => ends ?_⟩
    · rw [onFPort, receive_of_short bad]
      rfl
    · rw [onFPort, receive_of_corrupt long fun crc => bad ⟨long, crc⟩]
      rfl
    · rw [good ok, fieldArrive]
      exact if_pos drop
    · obtain ⟨g, hg, same⟩ := eventOf_some event
      rw [hg]
      exact act_congr ((good ok).trans (same.fieldArrive_eq pass (hears.mpr hear)).symm)
    · rw [good ok, fieldArrive_of_consumes pass (hears.mpr hear)]
      exact deliver_of_eventOf_none event
    · rw [good ok, fieldArrive]
      exact ((if_neg (by rw [show s.kindAction up.kind = .pass from pass]; nofun)).trans
        (if_neg fun taken => deaf (hears.mp taken))).trans (forwardUp_eq up s)

end Sys2Proof.Machine
end
section
/-! SUPPORT. Frames at the U-port (R162, R163, R166 to R168): the gate, the reply made at once, and the MREQ that a frame is. -/

namespace Sys2Proof.Machine

set_option Elab.async false

variable {s : State}

/-- When the part owns the node of a role (the table of R165). -/
theorem owned_iff {r : Role} :
    s.owned r = true ↔
      match r with
      | .head h => (s.head h).state ≠ .off
      | .feedIn => s.ccs.cell ≠ .stopped ∨ s.fdc.push.isSome = true
      | .feedOut => s.ccs.cell ≠ .stopped ∨ ∃ o, s.trc.op = some o ∧ o.kind = .eject
      | .track =>
        s.ccs.cell ≠ .stopped ∨ (∃ o, s.trc.op = some o ∧ o.kind = .movePb) ∨ ∃ o, s.trc.op = some o ∧ o.kind = .moveBp
      | .heater => s.ccs.cell ≠ .stopped
      | .pull => s.ccs.cell ≠ .stopped ∨ s.plm.req.isSome = true
      | .term _ => True
      | .other | .unassigned => False := by
  cases r with
  | feedOut | track => simp [State.owned, opIs_iff, or_assoc]
  | head | feedIn | heater | pull | term | other | unassigned => simp [State.owned]

theorem gated_iff {f : LinkFrame} :
    s.gated f = true ↔
      if f.dst = 63 then ∃ r ∈ gateRoles f.kind, s.addrOf r ≠ none ∧ s.owned r = true
      else s.roleAt f.dst.toNat ∈ gateRoles f.kind ∧ s.owned (s.roleAt f.dst.toNat) = true := by
  rw [State.gated]
  split
  · simp [Option.isSome_iff_ne_none]
  · simp

/-- A reply made at once takes a place of the reply list, or is an overrun of the U-port (R168). -/
theorem replyNow_eq (tag op : Byte) (a : Answer) (s : State) :
    replyNow tag op a s =
      if s.lif.replies.length < 8 then
        { s with lif := { s.lif with
          stamp := s.lif.stamp + 1
          replies := s.lif.replies ++ [(s.lif.stamp, { tag := tag, part := 0, last := true, op := op, answer := a })] } }
      else { s with lif := { s.lif with uCounts := { s.lif.uCounts with overrun := min 65535 (s.lif.uCounts.overrun + 1) } } } :=
  if_congr (decide_eq_true_iff.trans Nat.lt_iff_add_one_le.symm) rfl rfl

/-- A frame that the part does not gate joins the U→F queue, which holds 8 (R166, R167). -/
theorem forwardDown_eq (f : LinkFrame) (s : State) :
    forwardDown f s =
      if s.lif.ufQueue.length < 8 then { s with lif := { s.lif with ufQueue := s.lif.ufQueue ++ [f] } }
      else { s with lif := { s.lif with uCounts := { s.lif.uCounts with overrun := min 65535 (s.lif.uCounts.overrun + 1) } } } := rfl

section
variable {f : LinkFrame}

theorem hostArrive_of_drop (drop : s.kindAction f.kind = .drop) : hostArrive f s = s := if_pos drop

theorem hostArrive_of_pass (pass : s.kindAction f.kind = .pass) :
    hostArrive f s =
      if f.dst = 1 then (if f.kind = 0x01 then onMreqPayload f s else s)
      else if s.gated f then replyNow 0 0 { result := .owned, data := .gate f.kind f.dst } s else forwardDown f s := by
  rw [hostArrive, pass]
  exact if_neg nofun

theorem onMreqPayload_of_short (short : f.payload.length < 2) : onMreqPayload f s = s := by
  have none_ : mreqOf f = none := by
    match h : f.payload, short with
    | [], _ | [_], _ => simp only [mreqOf, h]
  rw [onMreqPayload, none_]

theorem onMreqPayload_of_cons {tag b : Byte} {content : List Byte} (hp : f.payload = tag :: b :: content) :
    onMreqPayload f s = onMreq
      { tag := tag, part := b.toNat % 8, last := b.getLsbD 7, content := content
        reads := match f.reads with
                 | .request r => some r
                 | _ => none } s := by
  have part : (b.extractLsb' 0 3).toNat = b.toNat % 8 := by simp [BitVec.extractLsb'_toNat]
  simp only [onMreqPayload, mreqOf, hp, part] <;> rfl

end

/-- Settles O25: a frame is received or not (`receive`), and then `hostArrive` is its kind's action, MREQ, the gate and the queue. -/
theorem hostFramesAreCheckedThenGated : Obligations.HostFramesAreCheckedThenGated := by
  refine ⟨fun k s => ⟨kindAction_of_own, fun foreign a => kindAction_of_foreign foreign⟩, fun s r => owned_iff, fun f s running => ?_⟩
  intro c data counts overrun down short sound targets gated
  have gates : s.gated down = true ↔ gated := gated_iff
  have ends {x : State} (hx : onUPort f s = x) : Ends c x := act_ends_of_eq running hx
  have good (ok : sound) : onUPort f s = hostArrive down s := by rw [onUPort, receive_of_sound ok.1 ok.2]; rfl
  have managed (kind : f.kind = 0x01) : s.kindAction down.kind = .pass := kindAction_of_own (by rw [show down.kind = 0x01 from kind]; decide)
  refine ⟨fun bad => ends ?_, fun long bad => ends ?_, fun ok drop => ends ?_, fun ok pass own other => ends ?_,
    fun ok own kind brief => ends ?_, fun ok own kind tag b content payload => ?_, fun ok pass away hit => ends ?_,
    fun ok pass away free => ends ?_⟩
  · rw [onUPort, receive_of_short bad]
    rfl
  · rw [onUPort, receive_of_corrupt long fun crc => bad ⟨long, crc⟩]
    rfl
  · rw [good ok, hostArrive_of_drop drop]
  · rw [good ok, hostArrive_of_pass pass]
    exact (if_pos own).trans (if_neg other)
  · rw [good ok, hostArrive_of_pass (managed kind)]
    exact ((if_pos own).trans (if_pos kind)).trans (onMreqPayload_of_short brief)
  · refine act_congr ?_
    rw [good ok, hostArrive_of_pass (managed kind)]
    exact ((if_pos own).trans (if_pos kind)).trans (onMreqPayload_of_cons payload)
  · rw [good ok, hostArrive_of_pass pass]
    exact ((if_neg away).trans (if_pos (gates.mpr hit))).trans (replyNow_eq ..)
  · rw [good ok, hostArrive_of_pass pass]
    exact ((if_neg away).trans (if_neg (mt gates.mp free))).trans (forwardDown_eq ..)

end Sys2Proof.Machine
end

section
/-! SUPPORT. The transmitters: what each takes next, and the ends of transmissions (R143, R157, R168, R176). -/

namespace Sys2Proof.Machine

set_option Elab.async false

variable {s : State}

/-! ### What a transmitter takes next (R168) -/

section
variable {l : Lif}

/-- The OK reply of a RESTART waits or is being sent (R176). -/
theorem restartUnsent_iff :
    l.restartUnsent = true ↔
      ∃ m : Mrep, (m.op = 17 ∧ m.answer.result = .ok) ∧ (l.uTx = some (.reply m) ∨ ∃ k, (k, m) ∈ l.replies) := by
  have ok (m : Mrep) : m.restartOk = true ↔ m.op = 17 ∧ m.answer.result = .ok := by
    rw [Mrep.restartOk, Bool.and_eq_true, decide_eq_true_iff, decide_eq_true_iff]
    rfl
  have sending : (match l.uTx with
      | some (.reply m) => m.restartOk
      | _ => false) = true ↔ ∃ m : Mrep, m.restartOk = true ∧ l.uTx = some (.reply m) := by
    cases l.uTx with
    | none => simp
    | some x => cases x <;> simp
  have waiting : (l.replies.any fun r => r.2.restartOk) = true ↔ ∃ m : Mrep, m.restartOk = true ∧ ∃ k, (k, m) ∈ l.replies := by
    rw [List.any_eq_true]
    exact ⟨fun ⟨⟨k, m⟩, listed, yes⟩ => ⟨m, yes, k, listed⟩, fun ⟨m, yes, k, listed⟩ => ⟨(k, m), listed, yes⟩⟩
  simp only [← ok, and_or_left, exists_or]
  exact Bool.or_eq_true_iff.trans (or_congr sending waiting)

theorem pickF_of_drive {d : DriveFrame} {r : List DriveFrame} (drives : l.drives = d :: r) :
    (pickF l).fTx = some (.drive d) := by
  simp only [pickF, drives]

theorem pickF_of_own {o : OwnFrame} {r : List OwnFrame} (drives : l.drives = []) (own : l.own = o :: r) :
    (pickF l).fTx = some (.own o) := by
  simp only [pickF, drives, own]

theorem pickF_of_forwarded {f : LinkFrame} {r : List LinkFrame} (drives : l.drives = []) (own : l.own = [])
    (down : l.ufQueue = f :: r) : (pickF l).fTx = some (.forwarded f) := by
  simp only [pickF, drives, own, down]

theorem pickForwarded_of_cons {j : Nat} {f : LinkFrame} {r : List (Nat × LinkFrame)} (up : l.fuQueue = (j, f) :: r) :
    (pickForwarded l).uTx = some (.forwarded f) := by
  simp only [pickForwarded, up]

theorem forwardedBefore_of_cons {j : Nat} {f : LinkFrame} {r : List (Nat × LinkFrame)} (up : l.fuQueue = (j, f) :: r) (k : Nat) :
    forwardedBefore l k = decide (j < k) := by
  simp only [forwardedBefore, up]

theorem forwardedBefore_of_nil (up : l.fuQueue = []) (k : Nat) : forwardedBefore l k = false := by
  simp only [forwardedBefore, up]

/-- The oldest reply goes before a forwarded frame that became ready after it. -/
theorem pickU_of_reply {k : Nat} {m : Mrep} {r : List (Nat × Mrep)} (replies : l.replies = (k, m) :: r) :
    (l.fuQueue = [] → (pickU l).uTx = some (.reply m)) ∧
    ∀ j f q, l.fuQueue = (j, f) :: q → (pickU l).uTx = some (if j < k then .forwarded f else .reply m) := by
  constructor
  · intro up
    simp only [pickU, replies, forwardedBefore_of_nil up]
    rfl
  · intro j f q up
    simp only [pickU, replies, forwardedBefore_of_cons up, apply_ite Lif.uTx, pickForwarded_of_cons up, decide_eq_true_eq,
      apply_ite some]

/-- With no reply waiting, the oldest notice goes before a forwarded frame that became ready after it. -/
theorem pickU_of_notice {k : Nat} {n : NoticeFrame} {r : List (Nat × NoticeFrame)} (replies : l.replies = [])
    (notices : l.notices = (k, n) :: r) :
    (l.fuQueue = [] → (pickU l).uTx = some (.notice n)) ∧
    ∀ j f q, l.fuQueue = (j, f) :: q → (pickU l).uTx = some (if j < k then .forwarded f else .notice n) := by
  constructor
  · intro up
    simp only [pickU, replies, notices, forwardedBefore_of_nil up]
    rfl
  · intro j f q up
    simp only [pickU, replies, notices, forwardedBefore_of_cons up, apply_ite Lif.uTx, pickForwarded_of_cons up,
      decide_eq_true_eq, apply_ite some]

theorem pickU_of_forwarded {j : Nat} {f : LinkFrame} {r : List (Nat × LinkFrame)} (replies : l.replies = []) (notices : l.notices = [])
    (up : l.fuQueue = (j, f) :: r) : (pickU l).uTx = some (.forwarded f) := by
  simp only [pickU, replies, notices, pickForwarded_of_cons up]

end

/-! ### The frames that the closing of a step adds (R157) -/

/-- The making of frames adds screen frames to those that wait already. -/
theorem makeFrames_own (s : State) : ∃ l, (makeFrames s).lif.own = s.lif.own ++ l ∧ ∀ o ∈ l, o.body.isScreen = true := by
  obtain ⟨l, line, screens⟩ := (makeFrames_keeps s).ownLine
  refine ⟨l, ?_, screens⟩
  have same : (makeFrames s).lif.fTx = s.lif.fTx := by rw [makeFrames_lif]
  simpa [State.ownLine, same] using line

/-- The frame waiting mark of a terminal is set just while one of its frames waits. -/
def State.marksFrames (s : State) (k : Term) : Prop := (s.term k).frameWaiting = true ↔ ∃ p ∈ s.lif.own, p.role = .term k

theorem marksFrames_congr {t : State} {k : Term} (mark : (t.term k).frameWaiting = (s.term k).frameWaiting)
    (own : t.lif.own = s.lif.own) (h : s.marksFrames k) : t.marksFrames k := by
  rwa [State.marksFrames, mark, own]

/-- A change of a terminal that keeps its mark. -/
theorem modTerm_marksFrames {j k : Term} {f : TermState → TermState} (hf : ∀ x, (f x).frameWaiting = x.frameWaiting)
    (h : s.marksFrames j) : (s.modTerm k f).marksFrames j :=
  marksFrames_congr (PerTerm.get_set_map _ k j f TermState.frameWaiting hf) rfl h

/-- A frame sent to a terminal, whose mark is set with it. -/
theorem sendOwn_marksFrames {j k : Term} {a : Nat} {b : OwnBody} {f : TermState → TermState} (ha : s.addrOf (.term k) = some a)
    (hf : ∀ x, (f x).frameWaiting = true) (h : s.marksFrames j) : (sendOwn (.term k) b (s.modTerm k f)).marksFrames j := by
  rw [sendOwn_of_addr ha, State.marksFrames]
  have read : (s.modTerm k f).term j = if j = k then f (s.term k) else s.term j := PerTerm.get_set ..
  show ((s.modTerm k f).term j).frameWaiting = true ↔ _
  rw [read]
  by_cases same : j = k
  · simp [same, hf]
  · unfold State.marksFrames at h
    simpa [same, Ne.symm same] using h

theorem showTagged_marksFrames {j : Term} (v : Nat) (g : DisplayTag) (h : s.marksFrames j) : (showTagged v g s).marksFrames j := by
  unfold showTagged
  split
  · split <;> exact h
  all_goals exact h

theorem makeFrame_marksFrames {j : Term} (k : Term) (h : s.marksFrames j) : (makeFrame k s).marksFrames j := by
  by_cases idle : s.addrOf (.term k) = none ∨ (s.term k).frameWaiting = true
  · rwa [makeFrame_idle idle]
  · obtain ⟨served, free⟩ := not_or.mp idle
    obtain ⟨a, ha⟩ := Option.ne_none_iff_exists'.mp served
    have free := Bool.eq_false_of_not_eq_true free
    cases page : (s.term k).pagePending with
    | true =>
      rw [makeFrame_page ha free page]
      exact sendOwn_marksFrames ha (fun _ => rfl) h
    | false =>
      cases message : (s.term k).messagePending with
      | true =>
        rw [makeFrame_message ha free page message]
        exact sendOwn_marksFrames ha (fun _ => rfl) h
      | false =>
        have passed (d : List (Nat × Bool)) : (s.modTerm k fun y => { y with dirty := d }).marksFrames j :=
          modTerm_marksFrames (fun _ => rfl) h
        rw [makeFrame_pick ha free page message]
        dsimp only
        split
        · exact showTagged_marksFrames _ _ (sendOwn_marksFrames ha (fun _ => rfl) (passed _))
        · exact passed _

theorem refreshTerm_marksFrames {j : Term} (k : Term) (h : s.marksFrames j) : (refreshTerm k s).marksFrames j := by
  unfold refreshTerm
  split
  · exact modTerm_marksFrames (fun _ => rfl) h
  · exact h

theorem eachTerm_marksFrames {j : Term} {f : Term → State → State} (hf : ∀ k s, State.marksFrames s j → (f k s).marksFrames j)
    (h : s.marksFrames j) : (eachTerm f s).marksFrames j := hf .t4 _ (hf .t3 _ (hf .t2 _ (hf .t1 _ h)))

theorem makeFrames_marksFrames {k : Term} (h : s.marksFrames k) : (makeFrames s).marksFrames k := by
  rw [makeFrames, refreshTiles]
  exact eachTerm_marksFrames (fun k _ => makeFrame_marksFrames k) (eachTerm_marksFrames (fun k _ => refreshTerm_marksFrames k) h)

theorem kick_tmc (s : State) : (kick s).tmc = s.tmc := rfl

/-- A mark that fits the frames that wait fits those on their way out after the closing of the step. -/
theorem finish_marksFrames {k : Term} (free : s.lif.fTx = none) (h : s.marksFrames k) :
    ((finish s).term k).frameWaiting = true ↔ ∃ p ∈ (finish s).ownLine, p.role = .term k := by
  have line : (finish s).ownLine = (makeFrames s).lif.own := by
    have idle : (makeFrames s).lif.fTx = none := by rw [makeFrames_lif, free]
    rw [finish, kick_ownLine]
    simp only [State.ownLine, idle, List.nil_append]
  have term : (finish s).term k = (makeFrames s).term k := by rw [State.term, finish, kick_tmc, State.term]
  rw [line, term]
  exact makeFrames_marksFrames h

/-! ### What the transmitters take as a step closes (R168, R176) -/

theorem finish_restartUnsent (s : State) : (finish s).lif.restartUnsent = s.lif.restartUnsent := by
  have link := makeFrames_lif s
  rw [finish, kick_restartUnsent]
  unfold Lif.restartUnsent
  rw [link]

/-- What a free F-port transmitter takes of the frames that waited before the closing of the step. -/
theorem pickF_makeFrames (s : State) :
    (∀ d l, s.lif.drives = d :: l → (pickF (makeFrames s).lif).fTx = some (.drive d)) ∧
    (∀ o l, s.lif.drives = [] → s.lif.own = o :: l → (pickF (makeFrames s).lif).fTx = some (.own o)) ∧
    ∀ f l, s.lif.drives = [] → s.lif.own = [] → s.lif.ufQueue = f :: l →
      (pickF (makeFrames s).lif).fTx = some (.forwarded f) ∨
        ∃ o, (pickF (makeFrames s).lif).fTx = some (.own o) ∧ o.body.isScreen = true := by
  obtain ⟨screens, own, all⟩ := makeFrames_own s
  have drives : (makeFrames s).lif.drives = s.lif.drives := by rw [makeFrames_lif]
  have down : (makeFrames s).lif.ufQueue = s.lif.ufQueue := by rw [makeFrames_lif]
  refine ⟨fun d l hd => pickF_of_drive (drives.trans hd), fun o l hd ho => pickF_of_own (drives.trans hd) (by rw [own, ho]; rfl),
    fun f l hd ho hf => ?_⟩
  cases screens with
  | nil => exact .inl (pickF_of_forwarded (drives.trans hd) (by rw [own, ho]; rfl) (down.trans hf))
  | cons o _ => exact .inr ⟨o, pickF_of_own (drives.trans hd) (by rw [own, ho]; rfl), all o (List.mem_cons_self ..)⟩

/-! ### The ends of transmissions (R143, R157, R168) -/

/-- The F-port transmitter is free. -/
def State.freeF (s : State) : State := { s with lif := { s.lif with fTx := none } }

/-- What the end of a transmission leaves of LIF. -/
theorem onFSent_lif (s : State) : (onFSent s).lif = s.freeF.lif := by
  unfold onFSent alarmSent screenSent
  repeat' split
  all_goals rfl

/-- The end of a terminal's frame leaves its mark set just while another of its frames waits (R157). -/
theorem onFSent_marksFrames {k : Term} {o : OwnFrame} (sent : s.lif.fTx = some (.own o)) (role : o.role = .term k) :
    (onFSent s).marksFrames k := by
  have marked : (screenSent (.term k) s.freeF).marksFrames k := by
    rw [screenSent, State.marksFrames, State.term_modTerm_self]
    simp [State.freeF]
  have shown (b : OwnBody) {t : State} (h : t.marksFrames k) : (alarmSent b t).marksFrames k := by
    unfold alarmSent
    split <;> exact h
  rw [onFSent, sent]
  exact shown o.body (role ▸ marked)

theorem screenSent_term (k : Term) (s : State) :
    screenSent (.term k) s.freeF =
      s.freeF.modTerm k fun y => { y with frameWaiting := decide (∃ p ∈ s.lif.own, p.role = .term k) } := by
  have mark : (s.lif.own.any fun o => decide (o.role = .term k)) = decide (∃ p ∈ s.lif.own, p.role = .term k) := by
    simp [List.any_eq]
  rw [← mark]
  rfl

/-- A sent frame that shows no alarm changes no entry. -/
theorem alarmSent_eq (b : OwnBody) (s : State) :
    alarmSent b s =
      match b with
      | .screenTile _ _ _ _ (.alarm code scope) _ =>
        { s with alc := { s.alc with
          list := s.alc.list.map fun e => if e.code = code ∧ e.scope = scope then { e with shown := true } else e } }
      | _ => s := rfl

/-- The end of a transmission at the U-port, after the closing of the step: no reply is added but LIF's own. -/
theorem onUSent_replied (s : State) : Replied { s with lif := pickU { s.lif with uTx := none } } [] (finish (onUSent s)) :=
  finish_replied (.refl _) (List.append_nil _).symm rfl rfl

/-- Settles O26: the picks have an equation each, and the closing of a step is `Settles` of what the end of the frame leaves. -/
theorem transmittersTakeTheirNextFrame : Obligations.TransmittersTakeTheirNextFrame := by
  refine ⟨fun l => ?_, fun s running => ⟨?_, ?_⟩⟩
  · refine ⟨restartUnsent_iff, fun d r => pickF_of_drive, fun o r => pickF_of_own, fun f r => pickF_of_forwarded,
      fun drives own down => ?_, fun k m r => pickU_of_reply, fun k n r => pickU_of_notice, fun j f r => pickU_of_forwarded,
      fun replies notices up => ?_⟩
    · simp only [pickF, drives, own, down]
    · simp only [pickU, pickForwarded, replies, notices, up]
  · intro free x
    have sent : onFSent s = x := by
      unfold onFSent x
      cases s.lif.fTx with
      | none => rfl
      | some f =>
        cases f with
        | own o =>
          dsimp only
          cases role : o.role with
          | term k => exact (congrArg (alarmSent o.body) (screenSent_term k s)).trans (alarmSent_eq ..)
          | head | feedIn | feedOut | track | heater | pull | other | unassigned => exact alarmSent_eq ..
        | drive | forwarded => rfl
    have closes : Closes x (finish (onFSent s)) := sent ▸ finish_closes _
    have unsent : (finish (onFSent s)).lif.restartUnsent = s.lif.restartUnsent := by
      rw [finish_restartUnsent, onFSent_lif]
      rfl
    have link : x.lif = s.freeF.lif := sent ▸ onFSent_lif s
    have idle : x.lif.fTx = none := by rw [link]; rfl
    obtain ⟨drive, own, down⟩ := pickF_makeFrames x
    rw [link] at drive own down
    refine ⟨_, if_neg (by simp [running]), closes, fun k o own role => ?_, fun waits => ?_, fun free => ?_⟩
    · exact finish_marksFrames (by rw [onFSent_lif]; rfl) (onFSent_marksFrames own role)
    · have waits := restartUnsent_iff.mpr waits
      rw [closes.fHolds (.inr ?_), idle]
      rwa [link]
    · have takes := closes.fSends idle (unsent.trans (Bool.eq_false_of_not_eq_true (mt restartUnsent_iff.mp free)))
      rw [takes]
      exact ⟨drive, own, down⟩
  · let free : State := { s with lif := { s.lif with uTx := none } }
    have replied : Replied (kickU free) [] (finish (onUSent s)) := onUSent_replied s
    have same := kickU_queues free
    obtain ⟨drive, own, -⟩ := pickF_makeFrames (kickU free)
    rw [same.drives, same.own] at own
    rw [same.drives] at drive
    have taken {v : UTx} (h : (pickU free.lif).uTx = some v) : (finish (onUSent s)).lif.uTx = some v :=
      (replied.uHolds (by simp [kickU, free, h])).trans h
    refine ⟨_, if_neg (by simp [running]), replied, fun m idle sent ok none_ => ?_, fun k m l replies => ?_,
      fun k n l replies notices => ?_, fun j f l replies notices up => taken (pickU_of_forwarded replies notices up)⟩
    · have answered : ¬free.lif.restartUnsent = true := fun waits => by
        obtain ⟨m, ok, sending | ⟨k, listed⟩⟩ := restartUnsent_iff.mp waits
        · cases sending
        · exact none_ _ listed ok
      have unsent : (finish (onUSent s)).lif.restartUnsent = free.lif.restartUnsent :=
        ((finish_restartUnsent _).trans (answerUnowned_restartUnsent ..)).trans (kickU_restartUnsent free)
      have takes := replied.fSends (same.fTx.trans idle) (unsent.trans (Bool.eq_false_of_not_eq_true answered))
      rw [takes]
      exact ⟨drive, own⟩
    · obtain ⟨alone, both⟩ := pickU_of_reply (l := free.lif) replies
      exact ⟨fun up => taken (alone up), fun j f q up => taken (both j f q up)⟩
    · obtain ⟨alone, both⟩ := pickU_of_notice (l := free.lif) replies notices
      exact ⟨fun up => taken (alone up), fun j f q up => taken (both j f q up)⟩

end Sys2Proof.Machine
end

section
/-! SUPPORT. Requests and their replies: the parts of a reply, the taking of a request, and what LIF answers itself (R168 to R170). -/

namespace Sys2Proof.Machine

set_option Elab.async false

variable {s : State}

/-! ### The parts of a reply (R168, R169) -/

theorem framesFor_le_iff {bytes n : Nat} : framesFor bytes ≤ n ↔ bytes ≤ 58 * n := by
  unfold framesFor Config.partBytes
  omega

theorem answerFrames_length (tag : Byte) (r : Request) (a : Answer) : (answerFrames tag r a).length = answerParts r a := by
  simp [answerFrames, replyFrames]

theorem answerFrames_getElem? {tag : Byte} {r : Request} {a : Answer} {i : Nat} (inside : i < answerParts r a) :
    (answerFrames tag r a)[i]? =
      some { tag := tag, part := i, last := decide (i + 1 = answerParts r a), op := opNumber r, answer := a } := by
  simp [answerFrames, replyFrames, inside]

/-! ### The taking of a request (R169) -/

theorem takeRequest_of_nil (tag : Byte) (r : Request) (none_ : s.lif.requests = []) : s.takeRequest tag r = some s := by
  simp only [State.takeRequest, none_]

theorem takeRequest_of_oldest {tag : Byte} {r : Request} {l : List (Byte × Request)} (oldest : s.lif.requests = (tag, r) :: l) :
    s.takeRequest tag r = some { s with lif := { s.lif with requests := l } } := by
  simp only [State.takeRequest, oldest]
  simp

theorem takeRequest_of_other {tag : Byte} {r : Request} {q : Byte × Request} {l : List (Byte × Request)}
    (oldest : s.lif.requests = q :: l) (other : q ≠ (tag, r)) : s.takeRequest tag r = none := by
  simp only [State.takeRequest, oldest]
  exact if_neg fun ⟨tags, names⟩ => other (Prod.ext tags names)

/-! ### What LIF answers itself (R169, R170) -/

section
variable {q : Byte × Request} {l : List (Byte × Request)}

theorem lifReplies_nil (n : Nat) : lifReplies n [] = ([], []) := by cases n <;> rfl

theorem lifReplies_of_owned (n : Nat) (owned : lifAnswer q.2 = none) : lifReplies n (q :: l) = ([], q :: l) := by
  cases n with
  | zero => rfl
  | succ n => rw [lifReplies, owned]

theorem lifReplies_of_refused {code : ResultCode} (n : Nat) (refused : lifAnswer q.2 = some code) :
    lifReplies (n + 1) (q :: l) =
      ({ tag := q.1, part := 0, last := true, op := opNumber q.2, answer := { result := code } } :: (lifReplies n l).1,
        (lifReplies n l).2) := by
  rw [lifReplies, refused]

theorem lifReplies_suffix (n : Nat) (l : List (Byte × Request)) : (lifReplies n l).2 <:+ l := by
  induction l generalizing n with
  | nil => rw [lifReplies_nil]
  | cons q l ih =>
    cases refused : lifAnswer q.2 with
    | none => rw [lifReplies_of_owned n refused]
    | some code =>
      cases n with
      | zero => exact List.suffix_rfl
      | succ n =>
        rw [lifReplies_of_refused n refused]
        exact (ih n).trans (List.suffix_cons q l)

/-- With the oldest request a block's own, LIF answers nothing. -/
theorem answerUnowned_of_owned (n : Nat) (owned : ∀ q l, s.lif.requests = q :: l → lifAnswer q.2 = none) :
    answerUnowned n s = s := by
  cases n with
  | zero => rfl
  | succ n =>
    rw [answerUnowned]
    cases requests : s.lif.requests with
    | nil => rfl
    | cons q l => simp only [owned q l requests]

/-- A request that LIF refuses is answered at once where it alone waits and the reply list has room. -/
theorem answerUnowned_alone {tag : Byte} {r : Request} {code : ResultCode} (n : Nat) (alone : s.lif.requests = [(tag, r)])
    (room : s.lif.replies.length < 8) (refused : lifAnswer r = some code) :
    answerUnowned (n + 1) s =
      replyNow tag (opNumber r) { result := code } { s with lif := { s.lif with requests := [] } } := by
  have space : s.replyRoom 1 = true := decide_eq_true room
  have answered : applyRequest tag r (refuse code) s =
      replyNow tag (opNumber r) { result := code } { s with lif := { s.lif with requests := [] } } := by
    rw [applyRequest_refused code alone space]
    exact (if_pos space).symm
  rw [answerUnowned, alone]
  simp only [refused, space, if_true]
  rw [answered]
  refine answerUnowned_of_owned n fun q l requests => ?_
  rw [replyNow, if_pos (show State.replyRoom { s with lif := { s.lif with requests := [] } } 1 = true from space),
    queueReplies_requests] at requests
  cases requests

end

/-! ### Management commands (R168, R169) -/

/-- A management command serves the request that it carries. -/
theorem exec_of_carries {c : Instr} {tag : Byte} {r : Request} (h : carries c = some (tag, r)) :
    ∃ f : State → Served, exec c = act (serve tag r f) := by
  have form := exec_form c
  rwa [h] at form

/-- After its reply LIF answers the request that has become the oldest, where that is its own to answer and there is room. -/
theorem Replied.answers_next {x t : State} {frames : List Mrep} {q : Byte × Request} {l : List (Byte × Request)} {code : ResultCode}
    (h : Replied x frames t) (next : x.lif.requests = q :: l) (refused : lifAnswer q.2 = some code)
    (room : x.lif.replies.length + frames.length < 8) :
    t.lif.requests <:+ l ∧ ∃ m, t.replyLine = x.replyLine ++ frames ++
      { tag := q.1, part := 0, last := true, op := opNumber q.2, answer := { result := code } } :: m := by
  obtain ⟨n, fuel⟩ : ∃ n, min Config.requestRoom (Config.replyRoom - (x.lif.replies.length + frames.length)) = n + 1 :=
    ⟨_, (Nat.sub_add_cancel (by simp only [Config.requestRoom, Config.replyRoom]; omega)).symm⟩
  have line := h.replyLine
  have left := h.requests
  rw [State.lifGoesOn, next, fuel, lifReplies_of_refused n refused] at line left
  exact ⟨left ▸ lifReplies_suffix n l, _, line⟩

/-- A command whose request cannot be taken now leaves all but what LIF answers itself. -/
theorem act_serve_replied {tag : Byte} {r : Request} {f : State → Served} (running : s.ccs.inReset = false)
    (waits : ∀ u, ¬s.takes tag r (f u).2 u) :
    ∃ t, act (serve tag r f) s = .next t ∧ Replied s [] t ∧
      ((∀ q l, s.lif.requests = q :: l → lifAnswer q.2 = none) → Closes s t) := by
  refine ⟨_, act_serve_waits running waits, finish_replied (.refl s) (List.append_nil _).symm rfl rfl, fun owned => ?_⟩
  rw [answerUnowned_of_owned _ owned]
  exact finish_closes s

/-! ### MREQ (R169) -/

/-- A complete request joins the queue and, alone there and LIF's own, is answered at once. -/
theorem joinQueue_replied {tag : Byte} {r : Request} {u : State} (space : u.lif.requests.length < 4) :
    Replied { u with lif := { u.lif with requests := u.lif.requests ++ [(tag, r)] } } [] (finish (joinQueue tag r u)) ∧
    ∀ code, u.lif.requests = [] → u.lif.replies.length < 8 → lifAnswer r = some code →
      Closes (replyNow tag (opNumber r) { result := code } u) (finish (joinQueue tag r u)) := by
  rw [joinQueue, if_pos (show u.lif.requests.length < Config.requestRoom from space)]
  refine ⟨finish_replied (.refl _) (List.append_nil _).symm rfl rfl, fun code none_ room refused => ?_⟩
  have same : ({ u with lif := { u.lif with requests := [] } } : State) = u := by rw [← none_]
  rw [Config.requestRoom, answerUnowned_alone (s := { u with lif := { u.lif with requests := u.lif.requests ++ [(tag, r)] } }) 3
    (by rw [none_]; rfl) room refused]
  exact same ▸ finish_closes _

theorem joinQueue_busy {tag : Byte} {r : Request} {u : State} (full : ¬u.lif.requests.length < 4) :
    joinQueue tag r u = replyNow tag (opNumber r) { result := .busy } u := if_neg full

/-- A gathering that is complete: content that spells no request is malformed, and its reply echoes its first byte. -/
theorem gather_complete (g : Gathering) (reads : Option Request) (s : State) :
    let clear : State := { s with lif := { s.lif with gathering := none } }
    gather g true reads s =
      joinQueue g.tag (reads.getD (.malformed (g.content.headD (Config.unstatedOperation s.free))))
        (if reads = none ∧ g.content = [] then { clear with free := s.free + 1 } else clear) := by
  intro clear
  rw [gather, if_pos rfl]
  by_cases silent : reads = none ∧ g.content = []
  · rw [if_pos silent, if_pos silent, silent.1, silent.2]
    rfl
  · rw [if_neg silent, if_neg silent, gathered]
    cases reads with
    | some r => rfl
    | none =>
      cases content : g.content with
      | nil => exact absurd ⟨rfl, content⟩ silent
      | cons b l => rfl

theorem onMreq_first {f : MreqFrame} (first : f.part = 0) :
    onMreq f s = gather { tag := f.tag, part := 0, content := f.content } f.last f.reads s := if_pos first

theorem onMreq_stray {f : MreqFrame} (later : f.part ≠ 0) (none_ : s.lif.gathering = none) : onMreq f s = badGathering f.tag s := by
  rw [onMreq, if_neg later, none_]

section
variable {f : MreqFrame} {g : Gathering} (later : f.part ≠ 0) (going : s.lif.gathering = some g)
include later going

theorem onMreq_next (tag : f.tag = g.tag) (part : f.part = g.part + 1) (room : f.part < 7 ∨ f.last = true) :
    onMreq f s = gather { tag := f.tag, part := f.part, content := g.content ++ f.content } f.last f.reads s := by
  rw [onMreq, if_neg later, going]
  dsimp only
  rw [if_pos ⟨tag, part, room.symm.imp id fun low => by simp only [Config.partsAtMost]; omega⟩, tag]

theorem onMreq_broken (broken : f.tag ≠ g.tag ∨ f.part ≠ g.part + 1 ∨ 7 ≤ f.part ∧ f.last = false) :
    onMreq f s = badGathering f.tag s := by
  rw [onMreq, if_neg later, going]
  refine if_neg fun ⟨tag, part, room⟩ => ?_
  rcases broken with other | other | ⟨high, more⟩
  · exact other tag
  · exact other part
  · simp only [Config.partsAtMost, more] at room
    simp at room
    omega

end

/-- Settles O28: a management command is `exec_of_carries`, an MREQ gathers (`gather_complete`), joins (`joinQueue_replied`) or breaks
the gathering. -/
theorem requestsAreGatheredThenQueued : Obligations.RequestsAreGatheredThenQueued := by
  refine ⟨fun r => by cases r <;> rfl, fun bytes n => framesFor_le_iff, fun op arg l k d => ⟨rfl, rfl, Nat.mul_comm ..⟩,
    fun tag r a => ⟨answerFrames_length tag r a, fun i inside => answerFrames_getElem? inside⟩,
    fun n s => decide_eq_true_iff, fun tag r s => ⟨takeRequest_of_nil tag r, fun l => takeRequest_of_oldest,
      fun q l => takeRequest_of_other⟩,
    fun n q l => ⟨lifReplies_nil n, rfl, lifReplies_of_owned n, fun code => lifReplies_of_refused n⟩, fun x n => rfl,
    fun c tag r carried => ?commands, fun f s running => ?gathering⟩
  case commands =>
    obtain ⟨f, exec_c⟩ := exec_of_carries carried
    refine ⟨f, fun s running => ⟨fun u taken => ?_, fun waits => ?_⟩⟩
    · have answers : Answers (exec c s) tag r (f u).1 (f u).2 := exec_c ▸ act_serve_answers taken
      refine ⟨answers, fun t next own op l code waiting refused room => ?_⟩
      obtain ⟨t', next', replied⟩ := answers
      obtain rfl : t' = t := by simpa using next'.symm.trans next
      exact replied.answers_next waiting refused room
    · rw [exec_c]
      exact act_serve_replied running waits
  case gathering =>
    intro c clear reply goes bad
    have replies (u : State) (op : Byte) (code : ResultCode) : replyNow f.tag op { result := code } u = reply u op code :=
      replyNow_eq ..
    have ends {x : State} (hx : onMreq f s = x) : Ends c x := act_ends_of_eq running hx
    have broken (h : onMreq f s = badGathering f.tag s) : bad := ⟨_, ends (h.trans (replies ..))⟩
    have gathers {part : Nat} {content : List Byte}
        (h : onMreq f s = gather { tag := f.tag, part := part, content := content } f.last f.reads s) : goes part content := by
      refine ⟨Config.unstatedOperation s.free, ?_⟩
      intro r clear'
      cases last : f.last with
      | false => exact ends (by rw [h, last]; rfl)
      | true =>
        have joins : onMreq f s = joinQueue f.tag r clear' := by rw [h, last]; exact gather_complete ..
        have requests : clear'.lif.requests = s.lif.requests := by unfold clear'; split <;> rfl
        have waiting : clear'.lif.replies = s.lif.replies := by unfold clear'; split <;> rfl
        rw [if_pos rfl]
        split
        · rename_i space
          obtain ⟨joined, alone⟩ := joinQueue_replied (tag := f.tag) (r := r) (requests ▸ space)
          have answered {n : Byte} {code : ResultCode} (none_ : s.lif.requests = []) (room : s.lif.replies.length < 8)
              (number : opNumber r = n) (refused : lifAnswer r = some code) :
              Closes (reply clear' n code) (finish (joinQueue f.tag r clear')) := by
            rw [← replies, ← number]
            exact alone code (requests ▸ none_) (waiting ▸ room) refused
          refine ⟨finish (joinQueue f.tag r clear'), ?_, requests ▸ joined, fun none_ room => ⟨fun n h => ?_, fun n h => ?_, fun n h => ?_⟩⟩
          · exact (if_neg (by simp [running])).trans (congrArg (fun u => Host.Outcome.next (finish u)) joins)
          · exact answered none_ room (by rw [h]; rfl) (by rw [h]; rfl)
          · exact answered none_ room (by rw [h]; rfl) (by rw [h]; rfl)
          · exact answered none_ room (by rw [h]; rfl) (by rw [h]; rfl)
        · rename_i full
          exact ends (joins.trans ((joinQueue_busy (requests ▸ full)).trans (replies ..)))
    refine ⟨fun first => gathers (onMreq_first first), fun later none_ => broken (onMreq_stray later none_), fun g going => ⟨?_, ?_⟩⟩
    · exact fun later tag part room => gathers (onMreq_next later going tag part room)
    · exact fun later wrong => broken (onMreq_broken later going wrong)

end Sys2Proof.Machine
end

section
/-! SUPPORT. Table reads (R170): what a read answers, and the fifteen tables. -/

namespace Sys2Proof.Machine

set_option Elab.async false

variable {s u : State}

theorem indexesFit_iff {lo hi first count : Nat} :
    indexesFit lo hi first count = true ↔ count ≠ 0 ∧ lo ≤ first ∧ first + count ≤ hi := by
  simp [indexesFit, Nat.one_le_iff_ne_zero, and_assoc]

/-! ### The three answers of a read -/

section ReadTable

variable {t : TableName} {lo hi first count : Nat} {d : ReplyData}

theorem readTable_of_outside (out : count = 0 ∨ first < lo ∨ hi < first + count) :
    readTable t lo hi first count d u = (u, { result := .badIndex }) := by
  have misfit : indexesFit lo hi first count = false := by
    rw [Bool.eq_false_iff, ne_eq, indexesFit_iff]
    omega
  simp [readTable, misfit, refuse]

theorem readTable_of_inside (some_ : count ≠ 0) (low : lo ≤ first) (high : first + count ≤ hi) :
    readTable t lo hi first count d u =
      if 464 < 3 + count * entryBytes t then (u, { result := .badValue }) else (u, { result := .ok, data := d }) := by
  simp only [readTable, indexesFit_iff.mpr ⟨some_, low, high⟩]
  rfl

/-- A command whose request the block serves by reading a table keeps R170. -/
theorem reads_of_eq {c : Instr} {tag : Byte} {r : Request} {f : State → Served}
    (he : exec c s = act (serve tag r f) s) (hf : f u = readTable t lo hi first count d u) :
    Reads c tag r s u t lo hi first count d := by
  refine ⟨fun out => serves_of_eq he (hf.trans (readTable_of_outside out)),
    fun some_ low high long => serves_of_eq he (hf.trans ((readTable_of_inside some_ low high).trans (if_pos long))),
    fun some_ low high short takes => ?_⟩
  rw [he]
  exact act_serve_answers_of_eq takes (hf.trans ((readTable_of_inside some_ low high).trans (if_neg (by omega))))

end ReadTable

/-- One entry fits in a reply, whatever bytes the table's entries take. -/
theorem entry_fits_reply (t : TableName) : 3 + 1 * entryBytes t ≤ 464 := by
  have := (Config.entryBytesLessOne t).isLt
  simp only [entryBytes]
  omega

/-! ### The tables that may not be there -/

theorem readUnit_of_none {first count : Nat} (none_ : u.usc.units = none) (some_ : count ≠ 0) :
    readUnit first count u = (u, { result := .notFound }) := by
  simp [readUnit, some_, none_, refuse]

theorem readUnit_of_some {first count : Nat} {l : List UnitRecord} (hl : u.usc.units = some l) :
    readUnit first count u = readTable .unit 0 l.length first count (.units ((slice l first count).map UnitRecord.fields)) u := by
  unfold readUnit
  rw [hl]
  split
  · exact (readTable_of_outside (.inl ‹_›)).symm
  · rfl

theorem readCandidate_of_none {p : Position} {first count : Nat} (none_ : u.strip p = none) (some_ : count ≠ 0) :
    readCandidate p first count u = (u, { result := .notFound }) := by
  simp [readCandidate, some_, none_, refuse]

theorem readCandidate_of_some {p : Position} {first count : Nat} {r : StripRecord} (hr : u.strip p = some r) :
    readCandidate p first count u =
      readTable .candidate 0 r.candidates.length first count (.candidates (slice r.candidates first count)) u := by
  unfold readCandidate
  rw [hr]
  split
  · exact (readTable_of_outside (.inl ‹_›)).symm
  · rfl

/-- Settles O34: a read answers what `readTable` finds, and the tables are read from the state the request was taken in. -/
theorem tableReadsReturnTheirEntries : Obligations.TableReadsReturnTheirEntries := by
  intro s u tag first count req rows used covers names
  refine ⟨entry_fits_reply, fun _ => inUse_iff, fun _ => wireInUse_iff, fun _ => recipeInUse_iff, fun _ => rfl,
    reads_of_eq (f := readForwarding first count) (exec_tableReadForwarding ..) rfl,
    reads_of_eq (f := readKind first count) (exec_tableReadKind ..) rfl,
    reads_of_eq (f := readCellParameter first count) (exec_tableReadCellParameter ..) rfl,
    reads_of_eq (f := readLot first count) (exec_tableReadLot ..) rfl,
    reads_of_eq (f := readProgram first count) (exec_tableReadProgram ..) rfl,
    reads_of_eq (f := readWire first count) (exec_tableReadWire ..) rfl,
    reads_of_eq (f := readRecipe first count) (exec_tableReadRecipe ..) rfl,
    fun none_ some_ => serves_of_eq (f := readUnit first count) (exec_tableReadUnit ..) (readUnit_of_none none_ some_),
    fun l hl => reads_of_eq (f := readUnit first count) (exec_tableReadUnit ..) (readUnit_of_some hl),
    fun p none_ some_ =>
      serves_of_eq (f := readCandidate p first count) (exec_tableReadCandidate ..) (readCandidate_of_none none_ some_),
    fun p r hr => reads_of_eq (f := readCandidate p first count) (exec_tableReadCandidate ..) (readCandidate_of_some hr),
    reads_of_eq (f := readPlan first count) (exec_tableReadPlan ..) rfl,
    reads_of_eq (f := readLimits first count) (exec_tableReadLimits ..) rfl,
    reads_of_eq (f := readTerminal first count) (exec_tableReadTerminal ..) rfl,
    reads_of_eq (f := readPage first count) (exec_tableReadPage ..) rfl,
    reads_of_eq (f := readTile first count) (exec_tableReadTile ..) rfl,
    reads_of_eq (f := readKeyMap first count) (exec_tableReadKeyMap ..) rfl⟩

end Sys2Proof.Machine
end

section
/-! SUPPORT. Table writes (R170): the first entry with a fault, what a write answers, and the tables written. -/

namespace Sys2Proof.Machine

set_option Elab.async false

variable {s u : State}

/-! ### The first entry with a fault -/

/-- `r` names the first of the `n` entries from index `first` on that has a fault, if one has. -/
def NamesFirst (r : Option (ResultCode × Nat)) (fault : Nat → Option ResultCode) (first n : Nat) : Prop :=
  (∀ i code, first ≤ i → i < first + n → fault i = some code → (∀ j, first ≤ j → j < i → fault j = none) → r = some (code, i)) ∧
  ((∀ i, first ≤ i → i < first + n → fault i = none) → r = none)

theorem namesFirst_nil {fault : Nat → Option ResultCode} {first : Nat} : NamesFirst none fault first 0 :=
  ⟨fun _ _ low high => absurd high (Nat.not_lt.mpr low), fun _ => rfl⟩

theorem namesFirst_here {fault : Nat → Option ResultCode} {first n : Nat} {code : ResultCode} (here : fault first = some code) :
    NamesFirst (some (code, first)) fault first (n + 1) := by
  refine ⟨fun i code' low high at_ before => ?_, fun clean => ?_⟩
  · rcases Nat.eq_or_lt_of_le low with rfl | later
    · cases here.symm.trans at_; rfl
    · cases here.symm.trans (before first le_rfl later)
  · cases here.symm.trans (clean first le_rfl (by omega))

theorem namesFirst_later {r : Option (ResultCode × Nat)} {fault later : Nat → Option ResultCode} {first n : Nat}
    (here : fault first = none) (same : ∀ i, first + 1 ≤ i → fault i = later i) (h : NamesFirst r later (first + 1) n) :
    NamesFirst r fault first (n + 1) := by
  refine ⟨fun i code low high at_ before => ?_, fun clean => ?_⟩
  · rcases Nat.eq_or_lt_of_le low with rfl | above
    · cases here.symm.trans at_
    · exact h.1 i code above (by omega) ((same i above).symm.trans at_)
        fun j le lt => (same j le).symm.trans (before j (by omega) lt)
  · exact h.2 fun i le lt => (same i le).symm.trans (clean i (by omega) (by omega))

/-- What a check says of entry `i` against the table with the entries before it already stored (R152, R164). -/
def faultIn {α β : Type} (check : List β → Nat → α → Option ResultCode) (stored : α → β) (table : List β) (first : Nat)
    (entries : List α) (i : Nat) : Option ResultCode :=
  (entries[i - first]?).bind (check (storeFrom table first ((entries.take (i - first)).map stored)) i)

theorem faultIn_head {α β : Type} {check : List β → Nat → α → Option ResultCode} {stored : α → β} {table : List β} {first : Nat}
    {e : α} {es : List α} : faultIn check stored table first (e :: es) first = check table first e := by
  simp [faultIn, storeFrom]

theorem faultIn_tail {α β : Type} {check : List β → Nat → α → Option ResultCode} {stored : α → β} {table : List β} {first i : Nat}
    {e : α} {es : List α} (later : first + 1 ≤ i) :
    faultIn check stored table first (e :: es) i = faultIn check stored (table.set first (stored e)) (first + 1) es i := by
  obtain ⟨k, rfl⟩ := Nat.exists_eq_add_of_le later
  rw [faultIn, faultIn, show first + 1 + k - first = k + 1 by omega, show first + 1 + k - (first + 1) = k by omega]
  rfl

theorem firstFailingIn_namesFirst {α β : Type} (check : List β → Nat → α → Option ResultCode) (stored : α → β) (table : List β)
    (first : Nat) (entries : List α) :
    NamesFirst (firstFailingIn check stored table first entries) (faultIn check stored table first entries) first
      entries.length := by
  induction entries generalizing table first with
  | nil => exact namesFirst_nil
  | cons e es ih =>
    unfold firstFailingIn
    split
    · exact namesFirst_here (faultIn_head.trans ‹_›)
    · exact namesFirst_later (faultIn_head.trans ‹_›) (fun _ => faultIn_tail) (ih ..)

/-- A check that reads no table is one made against any table. -/
theorem firstFailing_eq_in {α : Type} (check : Nat → α → Option ResultCode) (first : Nat) (entries : List α) :
    firstFailing check first entries = firstFailingIn (fun _ => check) id [] first entries := by
  induction entries generalizing first with
  | nil => rfl
  | cons e es ih =>
    unfold firstFailing firstFailingIn
    rw [ih]
    rfl

theorem firstFailing_namesFirst {α : Type} (check : Nat → α → Option ResultCode) (first : Nat) (entries : List α) :
    NamesFirst (firstFailing check first entries) (entryFault first entries check) first entries.length := by
  rw [firstFailing_eq_in]
  exact firstFailingIn_namesFirst (fun _ => check) id [] first entries

/-! ### The answers of a write -/

section WriteTable

variable {α : Type} {lo hi first count : Nat} {es : List α} {fails : Option (ResultCode × Nat)} {store : State → State}

theorem writeTable_of_inside (some_ : count ≠ 0) (exact_ : es.length = count) (low : lo ≤ first) (high : first + count ≤ hi) :
    writeTable lo hi first count es fails store u =
      match fails with
      | some x => refuseAt x.1 x.2 u
      | none => accept (store u) := by
  simp only [writeTable, if_neg some_, exact_, ne_eq, not_true_eq_false, if_false, indexesFit_iff.mpr ⟨some_, low, high⟩,
    Bool.not_true] <;> rfl

/-- A command whose request the block serves by writing a table keeps R170. -/
theorem writes_of_eq {c : Instr} {tag : Byte} {w : TableWrite} {f : State → Served} {fault : Nat → Option ResultCode} {x : State}
    (he : exec c s = act (serve tag (.tableWrite w) f) s) (hf : f u = writeTable lo hi first count es fails store u)
    (names : NamesFirst fails fault first es.length) (stores : es.length = count → first + count ≤ hi → store u = x) :
    Writes c tag w s u lo hi first count es.length fault x := by
  refine ⟨fun none_ => serves_of_eq he (hf.trans (if_pos none_)),
    fun some_ other => serves_of_eq he (hf.trans ((if_neg some_).trans (if_pos other))),
    fun some_ exact_ out => serves_of_eq he (hf.trans ?outside), fun some_ exact_ low high => ?inside⟩
  case outside =>
    have misfit : indexesFit lo hi first count = false := by
      rw [Bool.eq_false_iff, ne_eq, indexesFit_iff]
      omega
    simp [writeTable, some_, exact_, misfit, refuse]
  case inside =>
    have inside := hf.trans (writeTable_of_inside some_ exact_ low high)
    rw [exact_] at names
    refine ⟨fun i code le lt at_ before => ?_, fun clean => ?_⟩
    · rw [names.1 i code le lt at_ before] at inside
      exact serves_of_eq he inside
    · rw [names.2 clean, stores exact_ high] at inside
      exact serves_of_eq he inside

end WriteTable

/-! ### Stores -/

theorem storeFrom_getElem? {α : Type} (l es : List α) (i j : Nat) :
    (storeFrom l i es)[j]? = if i ≤ j ∧ j < i + es.length ∧ j < l.length then es[j - i]? else l[j]? := by
  induction es generalizing l i with
  | nil => simp [storeFrom]; omega
  | cons e es ih =>
    rw [storeFrom, ih, List.length_set]
    rcases Nat.lt_trichotomy i j with lt | rfl | gt
    · obtain ⟨k, rfl⟩ := Nat.exists_eq_add_of_lt lt
      rw [List.getElem?_set_ne (by omega), show i + k + 1 - (i + 1) = k by omega, show i + k + 1 - i = k + 1 by omega,
        List.getElem?_cons_succ]
      simp only [List.length_cons]
      congr 1
      simp only [eq_iff_iff]
      omega
    · by_cases inside : i < l.length <;> simp [inside]
    · rw [List.getElem?_set_ne (by omega), if_neg (by omega), if_neg (by omega)]

theorem storedRecipe_eq (e : RecipeEntry) :
    storedRecipe e =
      if e.valid then
        { e with seg2 := if e.segCount < 2 then {} else e.seg2
                 seg3 := if e.segCount < 3 then {} else e.seg3
                 seg4 := if e.segCount < 4 then {} else e.seg4 }
      else {} := by
  simp only [storedRecipe, ← Nat.not_lt, ite_not]

/-! ### Cell parameters (R171) -/

/-- A write that fits its parameter changes its place in the list of all ten. -/
theorem put_reads {p : Params} {j : Nat} {v : ParamValue} (fits : paramFits j v = true) :
    (List.range 10).map (p.put j v).read = ((List.range 10).map p.read).set j v :=
  match j, v, fits with
  | 0, .number _, _ | 1, .number _, _ | 2, .number _, _ | 3, .number _, _ | 4, .number _, _ | 5, .policy _, _
  | 6, .direction _, _ | 7, .number _, _ | 8, .direction _, _ | 9, .number _, _ => rfl

theorem put_read {p : Params} {j i : Nat} {v : ParamValue} (fits : paramFits j v = true) (hi : i < 10) :
    (p.put j v).read i = if i = j then v else p.read i := by
  have at_ := congrArg (·[i]?) (put_reads (p := p) fits)
  simp only [List.getElem?_map, List.getElem?_set, List.getElem?_range hi, List.length_map, List.length_range, Option.map_some] at at_
  split
  · simp_all
  · rename_i other
    simpa [Ne.symm other] using at_

theorem putParams_read {es : List ParamValue} {p : Params} {first i : Nat}
    (passes : ∀ k v, es[k]? = some v → checkParam (first + k) v = none) (hi : i < 10) :
    (putParams p first es).read i = if first ≤ i then es.getD (i - first) (p.read i) else p.read i := by
  induction es generalizing p first with
  | nil => simp [putParams]
  | cons v vs ih =>
    have fits : paramFits first v = true := by
      have := passes 0 v rfl
      rw [checkParam, firstBroken_cons] at this
      by_contra no
      simp [no] at this
    rw [putParams, ih (fun k w hk => ?_), put_read fits hi]
    · rcases Nat.lt_trichotomy first i with lt | rfl | gt
      · obtain ⟨k, rfl⟩ := Nat.exists_eq_add_of_lt lt
        rw [if_pos (by omega), if_neg (by omega), if_pos (by omega), show first + k + 1 - (first + 1) = k by omega,
          show first + k + 1 - first = k + 1 by omega]
        rfl
      · rw [if_neg (by omega), if_pos rfl, if_pos le_rfl, Nat.sub_self]
        rfl
      · rw [if_neg (by omega), if_neg (by omega), if_neg (by omega)]
    · rw [show first + 1 + k = first + (k + 1) by omega]
      exact passes (k + 1) w hk

/-- The parameters as written, with the strip compared where the preheat dwell is among them (R24). -/
theorem cellParameters_stored (first count : Nat) (es : List ParamValue) (u : State) :
    (let t : State := { u with ccs := { u.ccs with params := putParams u.ccs.params first es } }
     if writesDwell first count then dwellCheck t else t) =
      { u with ccs := { u.ccs with params := putParams u.ccs.params first es }
               trc := { u.trc with preheat := u.trc.preheat.map fun r =>
                 if first ≤ 4 ∧ 4 < first + count ∧ r.state = .preheat ∧ r.scrapped = false ∧
                     (putParams u.ccs.params first es).preheatDwell ≤ r.dwell then
                   { r with state := .waitBond }
                 else r } } := by
  dsimp only
  split
  · rename_i dwell
    obtain ⟨low, high⟩ : first ≤ 4 ∧ 4 < first + count := by simpa [writesDwell] using dwell
    simp only [dwellCheck_arrived, low, high, true_and]
    rfl
  · rename_i dwell
    have out (P : Prop) : ¬(first ≤ 4 ∧ 4 < first + count ∧ P) := fun h => dwell (by simp [writesDwell, h.1, h.2.1])
    simp only [out, if_false, Option.map_id']

/-- Settles O32: each table is written by `writeTable`, whose answers are those of `writes_of_eq`. -/
theorem tableWritesStoreAllOrNothing : Obligations.TableWritesStoreAllOrNothing := by
  refine ⟨fun _ => rfl, fun s u tag first count => ⟨fun l es i j => storeFrom_getElem? l es i j, fun es => ⟨?inUse, ?lot⟩,
    fun es => ?program, fun es => ?wire, fun es => ?recipe, fun es => ?plan, fun es => ?limits, fun es => ?kind,
    fun es => ⟨?params, fun passes i hi => putParams_read passes hi⟩,
    serves_of_eq (f := writeReadOnly) (exec_tableWriteUnit ..) rfl,
    serves_of_eq (f := writeReadOnly) (exec_tableWriteCandidate ..) rfl⟩⟩
  case inUse =>
    exact fun here left => serves_of_eq (f := writeLot first count es) (exec_tableWriteLot ..) (if_neg (by tauto))
  case lot =>
    exact fun away => writes_of_eq (f := writeLot first count es) (exec_tableWriteLot ..) (if_pos away)
      (firstFailing_namesFirst ..) fun _ _ => rfl
  case program =>
    exact writes_of_eq (f := writeProgram first count es) (exec_tableWriteProgram ..) rfl (firstFailing_namesFirst ..)
      fun _ _ => rfl
  case wire =>
    exact writes_of_eq (f := writeWire first count es) (exec_tableWriteWire ..) rfl (firstFailing_namesFirst ..) fun _ _ => rfl
  case recipe =>
    refine writes_of_eq (f := writeRecipe first count es) (exec_tableWriteRecipe ..) rfl (firstFailing_namesFirst ..)
      fun _ _ => ?_
    simp only [← storedRecipe_eq]
  case plan =>
    exact writes_of_eq (f := writePlan first count es) (exec_tableWritePlan ..) rfl (firstFailing_namesFirst ..) fun _ _ => rfl
  case limits =>
    exact writes_of_eq (f := writeLimits first count es) (exec_tableWriteLimits ..) rfl (firstFailing_namesFirst ..)
      fun _ _ => rfl
  case kind =>
    exact writes_of_eq (f := writeKind first count es) (exec_tableWriteKind ..) rfl (firstFailing_namesFirst ..) fun _ _ => rfl
  case params =>
    exact writes_of_eq (f := writeCellParameter first count es) (exec_tableWriteCellParameter ..) rfl
      (firstFailing_namesFirst ..) fun _ _ => cellParameters_stored first count es u

end Sys2Proof.Machine
end

section
/-! SUPPORT. Writes of the screen and forwarding tables, and the page changes they cause (R150 to R152, R158, R161, R164). -/

namespace Sys2Proof.Machine

set_option Elab.async false

variable {s u : State}

/-! ### Each terminal changed by itself -/

/-- The state with each terminal's entry changed by `f`. -/
def State.mapTerms (f : Term → TermState → TermState) (s : State) : State :=
  { s with tmc := { s.tmc with terms :=
      ⟨f .t1 s.tmc.terms.t1, f .t2 s.tmc.terms.t2, f .t3 s.tmc.terms.t3, f .t4 s.tmc.terms.t4⟩ } }

theorem mapTerms_congr {f g : Term → TermState → TermState} (h : ∀ k, f k (s.term k) = g k (s.term k)) :
    s.mapTerms f = s.mapTerms g := by
  unfold State.mapTerms
  rw [show f .t1 s.tmc.terms.t1 = _ from h .t1, show f .t2 s.tmc.terms.t2 = _ from h .t2,
    show f .t3 s.tmc.terms.t3 = _ from h .t3, show f .t4 s.tmc.terms.t4 = _ from h .t4]
  rfl

theorem eachTerm_mapTerms {f : Term → State → State} {g : State → Term → TermState → TermState}
    (hf : ∀ t s, f t s = s.modTerm t (g s t)) (hg : ∀ s t h, g (s.modTerm t h) = g s) (s : State) :
    eachTerm f s = s.mapTerms (g s) := by
  simp only [eachTerm, hf, hg]
  rfl

/-! ### Page changes (R151, R158, R161) -/

/-- A terminal's entry after a page change to page `p` (R158). -/
def State.pageChanged (s : State) (p : Nat) (y : TermState) : TermState :=
  { y with page := p, lastSent := [], message := [], messagePending := false, pagePending := true
           dirty := (s.pageTiles p).map fun i => (i, false) }

/-- A terminal's entry after its current page was touched, if it is in service (R151). -/
def State.redrawn (touched : Nat → Bool) (s : State) (k : Term) (y : TermState) : TermState :=
  if s.inService k && touched y.page then s.pageChanged y.page y else y

theorem redraw_eq {touched : State → Nat → Bool} (k : Term) (s : State) :
    redraw touched k s = s.modTerm k (s.redrawn (touched s) k) := by
  unfold redraw
  split
  · exact (modTerm_congr (if_pos ‹_›)).symm
  · exact (modTerm_self (if_neg ‹_›)).symm

theorem eachTerm_redraw {touched : State → Nat → Bool} (ht : ∀ s t h, touched (s.modTerm t h) = touched s) (s : State) :
    eachTerm (redraw touched) s = s.mapTerms (s.redrawn (touched s)) :=
  eachTerm_mapTerms (g := fun s => s.redrawn (touched s)) redraw_eq (fun s t h => by rw [ht]; rfl) s

/-- A terminal's entry after a write of the forwarding table (R161). -/
def State.reassigned (before : List ForwardingEntry) (s : State) (k : Term) (y : TermState) : TermState :=
  match s.addrOf (.term k) with
  | some a => if addrIn before (.term k) = some a then y else s.pageChanged 0 y
  | none =>
    if (addrIn before (.term k)).isSome then
      { y with dirty := [], pagePending := false, message := [], messagePending := false, lastSent := [] }
    else y

theorem roleChange_eq (before : List ForwardingEntry) (k : Term) (s : State) :
    roleChange before k s = s.modTerm k (s.reassigned before k) := by
  unfold roleChange State.reassigned
  cases s.addrOf (.term k) with
  | some a =>
    dsimp only
    split
    · exact (modTerm_self rfl).symm
    · rfl
  | none =>
    dsimp only
    split
    · rfl
    · exact (modTerm_self rfl).symm

/-! ### Levels (R150) -/

/-- The index of a terminal (R150). -/
def termIndex : Term → Nat
  | .t1 => 0
  | .t2 => 1
  | .t3 => 2
  | .t4 => 3

/-- A terminal's entry after its level was written, by the write of `es` from index `first` on, if it holds its index. -/
def levelSet (first : Nat) (es : List (Option Level)) (k : Term) (y : TermState) : TermState :=
  if first ≤ termIndex k then { y with level := ((es[termIndex k - first]?).getD (some y.level)).getD .view } else y

theorem modTerm_mapTerms {i : Nat} (hi : i < 4) (f : TermState → TermState) (g : Term → TermState → TermState) :
    (s.modTerm (termOf i) f).mapTerms g = s.mapTerms fun k y => g k (if termIndex k = i then f y else y) := by
  interval_cases i <;> rfl

theorem levelSet_cons {i : Nat} {l : Option Level} {ls : List (Option Level)} (k : Term) (y : TermState) :
    levelSet (i + 1) ls k (if termIndex k = i then { y with level := l.getD .view } else y) = levelSet i (l :: ls) k y := by
  unfold levelSet
  rcases Nat.lt_trichotomy i (termIndex k) with lt | here | gt
  · obtain ⟨n, hn⟩ := Nat.exists_eq_add_of_lt lt
    simp [hn, Nat.add_assoc, Nat.add_sub_add_left]
  · simp [← here]
  · rw [if_neg (by omega), if_neg (by omega), if_neg (by omega)]

theorem setLevels_eq {i : Nat} {es : List (Option Level)} (fits : i + es.length ≤ 4) :
    setLevels i es s = s.mapTerms (levelSet i es) := by
  induction es generalizing i s with
  | nil =>
    have kept : ∀ k y, levelSet i [] k y = y := fun k y => by simp [levelSet]
    simp only [setLevels, State.mapTerms, kept]
  | cons l ls ih =>
    simp only [List.length_cons] at fits
    rw [setLevels, ih (by omega), modTerm_mapTerms (by omega)]
    simp only [levelSet_cons]

/-! ### The tables -/

theorem forwarding_reassigned (t : State) :
    eachTerm (roleChange u.lif.forwarding) t =
      t.mapTerms fun k y =>
        match t.addrOf (.term k), u.addrOf (.term k) with
        | some a, old => if old = some a then y else t.pageChanged 0 y
        | none, some _ => { y with dirty := [], pagePending := false, message := [], messagePending := false, lastSent := [] }
        | none, none => y := by
  rw [eachTerm_mapTerms (g := fun s => s.reassigned u.lif.forwarding) (roleChange_eq _) (fun _ _ _ => rfl)]
  refine mapTerms_congr fun k => ?_
  rw [State.reassigned, State.addrOf, State.addrOf]
  cases addrIn t.lif.forwarding (.term k) with
  | some a => rfl
  | none => cases addrIn u.lif.forwarding (.term k) <;> rfl

theorem page_redrawn (first count : Nat) (t : State) :
    eachTerm (redraw fun _ p => decide (first ≤ p) && decide (p < first + count)) t =
      t.mapTerms fun k y =>
        if t.addrOf (.term k) ≠ none ∧ first ≤ y.page ∧ y.page < first + count then t.pageChanged y.page y else y := by
  refine (eachTerm_redraw (fun _ _ _ => rfl) t).trans (mapTerms_congr fun k => ?_)
  refine if_congr ?_ rfl rfl
  simp only [Bool.and_eq_true, inService_iff, decide_eq_true_eq]

theorem tile_redrawn (first count : Nat) (t : State) :
    eachTerm (redraw fun s p => (s.pageRange p).any fun i => decide (first ≤ i) && decide (i < first + count)) t =
      t.mapTerms fun k y =>
        if t.addrOf (.term k) ≠ none ∧ ∃ i ∈ t.pageRange y.page, first ≤ i ∧ i < first + count then t.pageChanged y.page y
        else y := by
  refine (eachTerm_redraw (fun _ _ _ => rfl) t).trans (mapTerms_congr fun k => ?_)
  refine if_congr ?_ rfl rfl
  simp only [Bool.and_eq_true, inService_iff, List.any_eq_true, decide_eq_true_eq]

/-- A key map is checked against the entries as they were written. -/
theorem checkKey_faultIn (first : Nat) (es : List KeyEntry) (i : Nat) :
    faultIn checkKey id u.tmc.keys first es i =
      (es[i - first]?).bind (checkKey (storeFrom u.tmc.keys first (es.take (i - first))) i) := by
  rw [faultIn, List.map_id]

/-- Settles O33: the writes of O32's `writes_of_eq`, each followed by its change of every terminal. -/
theorem screenTableWritesRedrawTheirPages : Obligations.ScreenTableWritesRedrawTheirPages := by
  intro s u tag first count each change
  refine ⟨fun es => ?forwarding, fun es => ?terminal, fun es => ?page, fun es => ?tile, fun es => ?keys⟩
  case forwarding =>
    exact writes_of_eq (f := writeForwarding first count es) (exec_tableWriteForwarding ..) rfl
      (firstFailingIn_namesFirst ..) fun _ _ => forwarding_reassigned _
  case terminal =>
    refine writes_of_eq (f := writeTerminal first count es) (exec_tableWriteTerminal ..) rfl (firstFailing_namesFirst ..)
      fun length high => ?_
    exact setLevels_eq (length ▸ high)
  case page =>
    exact writes_of_eq (f := writePage first count es) (exec_tableWritePage ..) rfl (firstFailing_namesFirst ..)
      fun _ _ => page_redrawn first count _
  case tile =>
    exact writes_of_eq (f := writeTile first count es) (exec_tableWriteTile ..) rfl (firstFailing_namesFirst ..)
      fun _ _ => tile_redrawn first count _
  case keys =>
    refine writes_of_eq (f := writeKeyMap first count es) (exec_tableWriteKeyMap ..) rfl ?_ fun _ _ => rfl
    rw [← funext (checkKey_faultIn first es)]
    exact firstFailingIn_namesFirst ..

end Sys2Proof.Machine
end

section
/-! SUPPORT. RESTART (R176): the frames of the heads (R78), the terminals, and the state before the transmitters take anything. -/

namespace Sys2Proof.Machine

set_option Elab.async false

variable {s t : State}

/-! ### The frames of R78 -/

/-- The drive 0 frame that RESTART sends to head `h`, if it was not OFF and a node holds its role. -/
def State.restartDrive (s : State) (h : Head) : Option DriveFrame :=
  if (s.head h).state = .off then none
  else (s.addrOf (.head h)).map fun a => { head := h, dst := BitVec.ofNat 8 a, drive := 0, endMark := false }

/-- The ABORT that RESTART sends to head `h`, if it was at work and a node holds its role. -/
def State.restartAbort (s : State) (h : Head) : Option OwnFrame :=
  if (s.head h).state.working then
    (s.addrOf (.head h)).map fun a =>
      { role := .head h, dst := BitVec.ofNat 8 a, body := .headCmd .abort (s.head h).cmdNo }
  else none

theorem sendDrive_of_new {h : Head} (new : ∀ x ∈ s.lif.drives, x.head ≠ h) (d : Nat) (mark : Bool) :
    sendDrive h d mark s =
      { s with lif := { s.lif with drives := s.lif.drives ++
          ((s.addrOf (.head h)).map fun a => { head := h, dst := BitVec.ofNat 8 a, drive := d, endMark := mark }).toList } } := by
  cases ha : s.addrOf (.head h) with
  | none => simp [sendDrive_of_none d mark ha]
  | some a =>
    rw [sendDrive_of_addrOf d mark ha, List.filter_eq_self.mpr fun x hx => decide_eq_true (new x hx)]
    rfl

theorem restartHead_eq {h : Head} (same : t.lif.forwarding = s.lif.forwarding) (new : ∀ x ∈ t.lif.drives, x.head ≠ h) :
    restartHead s h t =
      { t with lif := { t.lif with drives := t.lif.drives ++ (s.restartDrive h).toList
                                   own := t.lif.own ++ (s.restartAbort h).toList } } := by
  have addr : t.addrOf (.head h) = s.addrOf (.head h) := by rw [State.addrOf, same]; rfl
  unfold restartHead State.restartDrive State.restartAbort
  by_cases off : (s.head h).state = .off
  · simp [off, HeadState.working]
  · rw [if_neg off, if_neg off, sendDrive_of_new new, addr]
    dsimp only
    split
    · rw [sendOwn_eq, ← addr]
      rfl
    · simp

/-- The frames of both heads, from none: head A's before head B's (DESIGN CHOICE, log entry 3). -/
theorem restartHeads_eq (same : t.lif.forwarding = s.lif.forwarding) (drives : t.lif.drives = []) (own : t.lif.own = []) :
    restartHead s .b (restartHead s .a t) =
      { t with lif := { t.lif with drives := [Head.a, .b].filterMap s.restartDrive
                                   own := [Head.a, .b].filterMap s.restartAbort } } := by
  have pair {α : Type} (f : Head → Option α) : [Head.a, .b].filterMap f = (f .a).toList ++ (f .b).toList := by
    cases ha : f .a <;> cases hb : f .b <;> simp [ha, hb]
  have other : ∀ x ∈ (s.restartDrive .a).toList, x.head ≠ .b := by
    intro x hx
    simp only [State.restartDrive, Option.mem_toList, Option.ite_none_left_eq_some, Option.map_eq_some_iff] at hx
    obtain ⟨-, a, -, rfl⟩ := hx
    nofun
  rw [restartHead_eq (h := .a) same (by simp [drives]), pair, pair]
  refine (restartHead_eq (h := .b) (by exact same) (by simpa [drives] using other)).trans ?_
  simp only [drives, own, List.nil_append]

/-! ### The terminals (R150, R161) -/

/-- A terminal after RESTART. -/
def State.restartedTerm (s : State) (k : Term) : TermState :=
  if s.inService k then s.pageChanged 0 { level := (s.term k).level } else { level := (s.term k).level }

theorem restartTerm_eq (old : State) (k : Term) (t : State) :
    restartTerm old k t =
      t.modTerm k fun _ =>
        if t.inService k then t.pageChanged 0 { level := (old.term k).level } else { level := (old.term k).level } := by
  unfold restartTerm
  dsimp only
  rw [show (t.modTerm k fun _ => { level := (old.term k).level }).inService k = t.inService k from rfl]
  split
  · exact modTerm_modTerm ..
  · rfl

theorem eachTerm_restartTerm (forwarding : t.lif.forwarding = s.lif.forwarding) (pages : t.tmc.pages = s.tmc.pages) :
    eachTerm (restartTerm s) t = t.mapTerms fun k _ => s.restartedTerm k := by
  rw [eachTerm_mapTerms (restartTerm_eq s) (fun _ _ _ => rfl)]
  refine mapTerms_congr fun k => ?_
  simp only [State.restartedTerm, State.inService, State.addrOf, State.pageChanged, State.pageTiles, State.pageRange, forwarding,
    pages] <;> rfl

/-! ### The whole part -/

/-- The reply of RESTART. -/
def restartReply (tag : Byte) : Mrep := { tag := tag, part := 0, last := true, op := 17, answer := { result := .ok } }

/-- The notices of RESTART: STARTED, and the ALARM of ESTOP with the line asserted (R149). -/
def State.restartNotices (s : State) : List (Nat × NoticeFrame) :=
  (1, { notice := .started .restart, dropped := false }) ::
    if s.ccs.estop then [(2, { notice := .alarm .estop .cell .active 0 0, dropped := false })] else []

theorem restartNotices_map (s : State) :
    s.restartNotices.map (·.2) =
      { notice := .started .restart, dropped := false } ::
        if s.ccs.estop then [{ notice := .alarm .estop .cell .active 0 0, dropped := false }] else [] := by
  rw [State.restartNotices, List.map_cons, apply_ite (List.map _)]
  rfl

/-- The part after RESTART, before a transmitter takes a frame. -/
def State.afterRestart (s : State) (tag : Byte) : State :=
  { s.restarted tag with
    lif := { s.lif.restarted tag with
      drives := [Head.a, .b].filterMap s.restartDrive, own := [Head.a, .b].filterMap s.restartAbort
      notices := s.restartNotices, stamp := if s.ccs.estop then 3 else 2 }
    alc := if s.ccs.estop then { list := [newEntry .estop .cell 0 0] } else {}
    tmc := { s.tmc with terms := ⟨s.restartedTerm .t1, s.restartedTerm .t2, s.restartedTerm .t3, s.restartedTerm .t4⟩ } }

/-- The frames of the heads and STARTED, before ESTOP is raised. -/
def State.restartTold (s : State) (tag : Byte) : State :=
  { s.restarted tag with
    lif := { s.lif.restarted tag with
      drives := [Head.a, .b].filterMap s.restartDrive, own := [Head.a, .b].filterMap s.restartAbort
      notices := [(1, { notice := .started .restart, dropped := false })], stamp := 2 } }

theorem restartTold_eq (tag : Byte) (s : State) :
    notify (.started .restart) (restartHead s .b (restartHead s .a (s.restarted tag))) = s.restartTold tag := by
  rw [restartHeads_eq (s := s) (t := s.restarted tag) rfl rfl rfl]
  exact notify_of_room (show 0 < 16 by decide)

/-- ESTOP with the line asserted changes the list of alarms, the notices and the terminals alone. -/
theorem raiseEstop_restartTold (tag : Byte) (s : State) :
    let t := raiseEstopIfAsserted (s.restartTold tag)
    t = { s.afterRestart tag with tmc := t.tmc } ∧ t.tmc = { (s.restartTold tag).tmc with terms := t.tmc.terms } := by
  have off (h : Head) : ((s.restartTold tag).head h).state = .off := by cases h <;> rfl
  have tmc (t : State) : (eachTerm (forceAlarmTiles 0) t).tmc = { t.tmc with terms := (eachTerm (forceAlarmTiles 0) t).tmc.terms } :=
    congrArg State.tmc (eachTerm_eq (forceAlarmTiles_term_eq 0) t)
  cases line : s.ccs.estop with
  | false =>
    have kept : raiseEstopIfAsserted (s.restartTold tag) = s.restartTold tag := if_neg (by simp [State.restartTold, State.restarted, line])
    simp only [kept, State.afterRestart, State.restartNotices, line]
    exact ⟨rfl, trivial⟩
  | true =>
    have raised : raiseEstopIfAsserted (s.restartTold tag) = raiseAlarm .estop .cell 0 (s.restartTold tag) :=
      if_pos (by simp [State.restartTold, State.restarted, line])
    dsimp only
    rw [raised, raiseAlarm_of_off off rfl, notify_of_room (s := s.restartTold tag) (show 1 < 16 by decide)]
    refine ⟨?_, tmc (s.restartTold tag)⟩
    simp only [State.afterRestart, State.restartNotices, line]
    rfl

theorem restartPart_eq (tag : Byte) (s : State) : restartPart tag s = kick (s.afterRestart tag) := by
  obtain ⟨raised, tables⟩ := raiseEstop_restartTold tag s
  have before : eachTerm (restartTerm s) (raiseEstopIfAsserted (s.restartTold tag)) = s.afterRestart tag := by
    rw [eachTerm_restartTerm (by rw [raised]; rfl) (by rw [tables]; rfl), State.mapTerms, tables, raised]
    rfl
  rw [restartPart, restartTold_eq, before]

/-! ### The transmitters -/

/-- Until the OK reply has been sent the F-port transmitter takes nothing; the U-port transmitter takes that reply. -/
theorem kick_of_restartReply {k : Nat} {m : Mrep} (replies : s.lif.replies = [(k, m)]) (ok : m.restartOk = true)
    (up : s.lif.fuQueue = []) :
    kick s =
      { s with lif := { s.lif with replies := if s.lif.uTx = none then [] else s.lif.replies
                                   uTx := some (s.lif.uTx.getD (.reply m)) } } := by
  have held : kickF s = s := by simp [kickF, Lif.restartUnsent, replies, ok]
  rw [kick, held, kickU]
  cases tx : s.lif.uTx with
  | none => simp [pickU, forwardedBefore, replies, up]
  | some x =>
    simp only [Option.isNone_some, Bool.false_eq_true, if_false, reduceCtorEq, Option.getD_some]
    rw [← tx]

theorem restartPart_sent (tag : Byte) (s : State) :
    restartPart tag s =
      { s.afterRestart tag with lif := { (s.afterRestart tag).lif with
          replies := if s.lif.uTx = none then [] else [(0, restartReply tag)]
          uTx := some (s.lif.uTx.getD (.reply (restartReply tag))) } } :=
  (restartPart_eq tag s).trans (kick_of_restartReply (m := restartReply tag) rfl rfl rfl)

/-- Settles O4: `restartPart_sent`, field by field; a U-port frame being sent stays ahead of the reply. -/
theorem restartKeepsTheSettings : Obligations.RestartKeepsTheSettings := by
  intro s tag running
  have start : exec (.restart tag) s = .next (onRestart tag s) := if_neg (by simp [running])
  refine ⟨fun other => ?other, fun full => ?full, fun u taken room => ⟨restartPart tag s, ?taken, ?fields⟩⟩
  case other => rw [start, onRestart, other]
  case full =>
    have noRoom : s.replyRoom 1 = false := by
      rw [Bool.eq_false_iff, ne_eq, replyRoom_iff]
      omega
    rw [start, onRestart]
    cases s.takeRequest tag .restart <;> simp [noRoom]
  case taken =>
    rw [start, onRestart, taken]
    exact congrArg _ (if_pos (replyRoom_iff.mpr (Nat.succ_le_of_lt room)))
  case fields =>
    rw [restartPart_sent]
    refine ⟨rfl, rfl, rfl, rfl, rfl, rfl, rfl, rfl, rfl, rfl, rfl, rfl, rfl, fun k => ?terms, rfl, rfl, rfl, rfl, rfl, rfl, rfl,
      ?up, rfl, ?reply, rfl, rfl, ?notices, ?drives, ?own⟩
    case terms =>
      refine Eq.trans (b := s.restartedTerm k) (by cases k <;> rfl) (if_congr inService_iff rfl rfl)
    case up => cases tx : s.lif.uTx <;> simp only [State.upLine, tx] <;> rfl
    case reply =>
      cases tx : s.lif.uTx with
      | none => simp only [State.replyLine, tx] <;> rfl
      | some x => cases x <;> simp only [State.replyLine, tx] <;> rfl
    case notices =>
      have waiting : (s.afterRestart tag).lif.notices = s.restartNotices := rfl
      cases tx : s.lif.uTx with
      | none => simp only [State.noticeLine, tx, waiting, restartNotices_map] <;> rfl
      | some x => cases x <;> simp only [State.noticeLine, tx, waiting, restartNotices_map] <;> rfl
    case drives => exact congrArg (· ++ _) (List.append_nil _).symm
    case own => exact congrArg (· ++ _) (List.append_nil _).symm

end Sys2Proof.Machine
end

section
/-! SUPPORT. The entry to STOPPED (R38, R65, R149, R174): the conditions that stay clear while the heads go OFF, and what is kept. -/

namespace Sys2Proof.Machine

set_option Elab.async false

variable {s t : State} {c : AlarmCode} {sc : AlarmScope}

/-! ### A condition that is clear stays clear while the heads go OFF -/

theorem clearedOf_congr (alc : t.alc = s.alc) (h : s.clearedOf c sc) : t.clearedOf c sc := by
  unfold State.clearedOf
  rwa [alc]

/-- An entry of another code joins the list. -/
theorem clearedOf_appendAlarm {d : AlarmCode} {ds : AlarmScope} {k : Nat} (other : c ≠ d) (h : s.clearedOf c sc) :
    (appendAlarm d ds k s).clearedOf c sc := by
  intro e he code
  rw [appendAlarm_alc] at he
  rcases List.mem_append.mp he with old | new
  · exact h e old code
  · exact absurd (code.symm.trans (congrArg AlarmEntry.code (List.mem_singleton.mp new))) other

/-- A raise of another code leaves a condition that is clear as it is. -/
theorem clearedOf_raiseAlarm {d : AlarmCode} {ds : AlarmScope} {k : Nat} (other : c ≠ d) (h : s.clearedOf c sc) :
    (raiseAlarm d ds k s).clearedOf c sc := by
  cases hi : s.findAlarm d ds with
  | some i =>
    obtain ⟨e, he, code, -⟩ := findAlarm_eq_some hi
    simp only [raiseAlarm, hi, he]
    intro x hx code'
    rw [repeatAlarm_alc] at hx
    rcases List.mem_or_eq_of_mem_set hx with old | rfl
    · exact h x old code'
    · exact absurd (code'.symm.trans code) other
  | none =>
    simp only [raiseAlarm, hi]
    split
    · exact clearedOf_appendAlarm other h
    · split
      · refine clearedOf_appendAlarm other fun x hx => h x ?_
        rw [removeAlarm_alc] at hx
        exact List.mem_of_mem_eraseIdx hx
      · intro x hx
        rw [notify_alc] at hx
        exact h x hx

/-! ### The work of a head that goes OFF raises MISSED_WIRE alone (R104) -/

theorem reaskParked_alc (h : Head) (s : State) : (reaskParked h s).alc = s.alc := by
  unfold reaskParked
  split <;> simp

theorem atBoundary_alc (h : Head) (s : State) : (atBoundary h s).alc = s.alc := by
  unfold atBoundary
  split <;> simp

theorem unpark_alc (h : Head) (s : State) : (unpark h s).alc = s.alc := by
  unfold unpark
  split <;> rfl

theorem wireOutcome_alc (h : Head) (u w : Nat) (done : Bool) (s : State) : (wireOutcome h u w done s).alc = s.alc := by
  unfold wireOutcome
  split <;> simp

theorem stopBond_alc (h : Head) (st : ChannelState) (s : State) : (stopBond h st s).alc = s.alc := sendDrive_alc ..

section
variable (missed : c ≠ .missedWire)
include missed

theorem clearedOf_walkFrom {fuel u w : Nat} (h : s.clearedOf c sc) : (walkFrom fuel u w s).clearedOf c sc := by
  induction fuel generalizing u w s with
  | zero => exact h
  | succ fuel ih =>
    rw [walkFrom]
    split
    · unfold releaseStrip
      split
      · exact clearedOf_congr (notify_alc ..) (s := s) h
      · exact h
    · split
      · exact clearedOf_congr (notify_alc ..) (clearedOf_raiseAlarm (s := { s with vcu := _ }) missed h)
      · exact ih h

theorem clearedOf_evaluateChecking (h : s.clearedOf c sc) : (evaluateChecking s).clearedOf c sc := by
  unfold evaluateChecking
  split
  · split
    · exact clearedOf_walkFrom missed (clearedOf_congr ((unpark_alc ..).trans (unpark_alc ..)) (s := s) h)
    · exact h
  · exact h

theorem clearedOf_closeClaim {g : Head} {own : Bool} (h : s.clearedOf c sc) : (closeClaim g own s).clearedOf c sc := by
  unfold closeClaim
  dsimp only
  repeat' split
  all_goals
    refine clearedOf_evaluateChecking missed (clearedOf_congr (s := s) ?_ h)
    simp [reaskParked_alc, atBoundary_alc]

theorem clearedOf_endRebond {g : Head} {u w : Nat} {done own : Bool} (h : s.clearedOf c sc) :
    (endRebond g u w done own s).clearedOf c sc := by
  let outcome := finishUnit u (s.program s.bondProgram).wireCount (wireOutcome g u w done s)
  let ended := { outcome with vcu := { outcome.vcu with pendingWire := none, rebondHead := none } }
  have kept : ended.alc = s.alc := wireOutcome_alc g u w done s
  have asked : (reaskParked g.other (if own then atBoundary g ended else ended)).alc = s.alc := by
    split <;> simp [reaskParked_alc, atBoundary_alc, kept]
  unfold endRebond
  dsimp only
  split
  · exact clearedOf_walkFrom missed (clearedOf_congr asked h)
  · exact clearedOf_congr asked h

theorem clearedOf_wireEndReport {g : Head} {done own : Bool} (h : s.clearedOf c sc) :
    (wireEndReport g done own s).clearedOf c sc := by
  unfold wireEndReport
  split
  · exact h
  · split
    · exact h
    · split
      · exact clearedOf_endRebond missed h
      · dsimp only
        repeat' split
        · exact clearedOf_closeClaim missed (clearedOf_congr (s := s) (wireOutcome_alc ..) h)
        · exact clearedOf_closeClaim missed (clearedOf_congr (s := s) (wireOutcome_alc ..) h)
        all_goals
          refine clearedOf_congr (s := s) ?_ h
          simp [atBoundary_alc, wireOutcome_alc]

theorem clearedOf_giveUpClaim {g : Head} (h : s.clearedOf c sc) : (giveUpClaim g s).clearedOf c sc := by
  unfold giveUpClaim
  split
  · exact h
  · split
    · exact h
    · split
      · exact clearedOf_endRebond missed h
      · refine clearedOf_closeClaim missed (clearedOf_congr (s := s) ?_ h)
        split
        · exact State.modStrip_alc ..
        · rfl

theorem clearedOf_offReported {g : Head} (h : s.clearedOf c sc) : (s.offReported g).clearedOf c sc := by
  have aborted : (if (s.head g).state.working then sendHeadCmd g .abort (stopBond g .disabled s) else stopBond g .disabled s).alc =
      s.alc := by
    split
    · exact (sendOwn_alc ..).trans (stopBond_alc ..)
    · exact stopBond_alc ..
  refine clearedOf_congr (clearVotes_alc ..) ?_
  split
  · exact clearedOf_wireEndReport missed (clearedOf_congr (State.modHead_alc ..) (clearedOf_congr aborted h))
  · exact clearedOf_congr aborted h

theorem clearedOf_goOff {g : Head} (h : s.clearedOf c sc) : (goOff g s).clearedOf c sc := by
  by_cases off : (s.head g).state = .off
  · rwa [goOff, if_pos off]
  · rw [goOff_on off]
    refine clearedOf_congr (State.modHead_alc ..) ?_
    exact clearedOf_clearAlarm (clearedOf_clearAlarm (clearedOf_clearAlarm
      (clearedOf_giveUpClaim missed (clearedOf_offReported missed h))))

end

/-! ### Each head goes OFF with its conditions clear (R65) -/

theorem goOff_clears {g : Head} (on : (s.head g).state ≠ .off) (hl : s.offLawful) (law : s.alarmsLawful)
    (hc : c = .headFault ∨ c = .nsop ∨ c = .nsol) : (goOff g s).clearedOf c (.head g) := by
  rw [goOff_on on]
  exact clearedOf_congr (State.modHead_alc ..) (offCleared_clears hl law hc)

/-- A head stays on while the other goes OFF. -/
theorem goOff_other_on {g : Head} (hl : s.offLawful) (on : (s.head g.other).state ≠ .off) :
    ((goOff g s).head g.other).state ≠ .off := by
  by_cases off : (s.head g).state = .off
  · rwa [goOff, if_pos off]
  · rw [goOff_on off, State.head_modHead_other]
    exact fun o => on (((offCleared_work g hl).off g.other).mp o)

theorem goOff_both_clears {g h : Head} (on : (s.head h).state ≠ .off) (hl : s.offLawful) (law : s.alarmsLawful)
    (hc : c = .headFault ∨ c = .nsop ∨ c = .nsol) : (goOff g.other (goOff g s)).clearedOf c (.head h) := by
  rcases Head.eq_or_eq_other g h with rfl | rfl
  · exact clearedOf_goOff (by rcases hc with rfl | rfl | rfl <;> nofun) (goOff_clears on hl law hc)
  · have first := goOff_work g hl
    exact goOff_clears (goOff_other_on hl on) first.law (first.alarms law) hc

theorem eachHead_goOff_clears {h : Head} (on : (s.head h).state ≠ .off) (hl : s.offLawful) (law : s.alarmsLawful)
    (hc : c = .headFault ∨ c = .nsop ∨ c = .nsol) : (eachHead goOff s).clearedOf c (.head h) := by
  unfold eachHead
  split
  · exact goOff_both_clears (g := .a) on hl law hc
  · dsimp only
    split
    · exact goOff_both_clears (s := { s with free := s.free + 1 }) (g := .a) on hl law hc
    · exact goOff_both_clears (s := { s with free := s.free + 1 }) (g := .b) on hl law hc

/-! ### What is kept -/

/-- What the entry to STOPPED keeps, beside Cell Control: a tuple, so that each field is read off one equation. -/
def State.keptByStop (s : State) :=
  ((s.ccs, s.link, s.fdc, s.plm, s.recipes), (s.usc.programs, s.usc.wires), { s.trc with bond := none, heat := {} },
    s.trc.bond.map StripRecord.key, s.tmc.pages, s.tmc.tiles, s.tmc.keys)

theorem HeadWork.keptByStop (w : HeadWork s t) : t.keptByStop = s.keptByStop := by
  have track : { t.trc with bond := none, heat := {} } = { s.trc with bond := none, heat := {} } :=
    congrArg (fun x : Trc => { x with heat := {} }) w.track
  simp only [State.keptByStop, w.ccs, w.link, w.fdc, w.plm, w.recipes, w.programs, w.wires, track, w.bond, w.pages, w.tiles, w.keys]

theorem modHead_keptByStop (h : Head) (f : HeadCtx → HeadCtx) (s : State) : (s.modHead h f).keptByStop = s.keptByStop := rfl

theorem goOff_keptByStop {g : Head} (hl : s.offLawful) : (goOff g s).keptByStop = s.keptByStop := by
  by_cases off : (s.head g).state = .off
  · rw [goOff, if_pos off]
  · rw [goOff_on off, modHead_keptByStop]
    exact (offCleared_work g hl).keptByStop

theorem eachHead_goOff_keptByStop (hl : s.offLawful) : (eachHead goOff s).keptByStop = s.keptByStop := by
  have both (g h : Head) (u : State) (lu : u.offLawful) : (goOff h (goOff g u)).keptByStop = u.keptByStop :=
    (goOff_keptByStop (goOff_work g lu).law).trans (goOff_keptByStop lu)
  unfold eachHead
  split
  · exact both .a .b s hl
  · dsimp only
    split
    · exact both .a .b { s with free := s.free + 1 } hl
    · exact both .b .a { s with free := s.free + 1 } hl

/-! ### The steps of the entry (R174) -/

/-- Both heads OFF, as the cell enters STOPPED. -/
def State.headsStopped (s : State) : State := eachHead goOff { s with ccs := s.ccs.toStopped }

/-- The heat monitor reset, with its conditions clear (R38). -/
def State.cooled (s : State) : State :=
  clearAlarm .heatNotReady .cell (clearAlarm .heatSignal .cell { s with trc := { s.trc with heat := {} } })

/-- The HEAT notice of a monitor that was READY. -/
def State.cooledTold (s : State) : State := if s.trc.heat.state = .ready then notify (.heat false) s.cooled else s.cooled

theorem enterStopped_eq (s : State) :
    enterStopped s =
      clearAlarm .pullStation .track (clearAlarm .trackJam .track (clearAlarm .feedJam .feeder s.headsStopped.cooledTold)) := rfl

theorem headsStopped_work (hl : s.offLawful) : Work { s with ccs := s.ccs.toStopped } s.headsStopped :=
  eachHead_Work (fun h _ => goOff_work h) hl

theorem headsStopped_law (hl : s.offLawful) : s.headsStopped.offLawful := (headsStopped_work hl).law

theorem headsStopped_alarms (hl : s.offLawful) (law : s.alarmsLawful) : s.headsStopped.alarmsLawful :=
  (headsStopped_work hl).alarms law

theorem cooledTold_alc (s : State) : s.cooledTold.alc = s.cooled.alc := by
  unfold State.cooledTold
  split
  · exact notify_alc ..
  · rfl

/-- The work that follows the reset of the monitor. -/
theorem cooled_work (hl : s.offLawful) : HeadWork { s with trc := { s.trc with heat := {} } } s.cooled :=
  (clearAlarm_work (s := { s with trc := { s.trc with heat := {} } }) _ _ hl).then (clearAlarm_work _ _)

theorem cooledTold_work (hl : s.offLawful) : HeadWork { s with trc := { s.trc with heat := {} } } s.cooledTold :=
  .ite (fun _ => (cooled_work hl).then (notify_work _)) fun _ => cooled_work hl

theorem enterStopped_headWork (hl : s.offLawful) :
    HeadWork { s.headsStopped with trc := { s.headsStopped.trc with heat := {} } } (enterStopped s) := by
  have told := cooledTold_work (headsStopped_law hl)
  rw [enterStopped_eq]
  exact ((told.then (clearAlarm_work _ _)).then (clearAlarm_work _ _)).then (clearAlarm_work _ _)

/-- What is clear when the HEAT notice is queued is clear in the end. -/
theorem clearedOf_enterStopped (h : s.headsStopped.cooledTold.clearedOf c sc) : (enterStopped s).clearedOf c sc := by
  rw [enterStopped_eq]
  exact clearedOf_clearAlarm (clearedOf_clearAlarm (clearedOf_clearAlarm h))

/-- The three jams and the pull station: their clears are the last steps. -/
theorem enterStopped_clears_jams (hl : s.offLawful) (law : s.alarmsLawful)
    (hc : c = .feedJam ∧ sc = .feeder ∨ (c = .trackJam ∨ c = .pullStation) ∧ sc = .track) : (enterStopped s).clearedOf c sc := by
  have stopped := headsStopped_alarms hl law
  have told := cooledTold_work (headsStopped_law hl)
  rw [enterStopped_eq]
  have feed := told.then (clearAlarm_work .feedJam .feeder)
  have track := feed.then (clearAlarm_work .trackJam .track)
  rcases hc with ⟨rfl, rfl⟩ | ⟨rfl | rfl, rfl⟩
  · exact clearedOf_clearAlarm (clearedOf_clearAlarm (clearAlarm_clears _ _ (told.alarms stopped)))
  · exact clearedOf_clearAlarm (clearAlarm_clears _ _ (feed.alarms stopped))
  · exact clearAlarm_clears _ _ (track.alarms stopped)

/-- The conditions of the heat monitor (R38). -/
theorem enterStopped_clears_heat (hl : s.offLawful) (law : s.alarmsLawful) (hc : c = .heatSignal ∨ c = .heatNotReady) :
    (enterStopped s).clearedOf c .cell := by
  let cold : State := { s.headsStopped with trc := { s.headsStopped.trc with heat := {} } }
  have stopped : cold.alarmsLawful := headsStopped_alarms hl law
  have signal : HeadWork cold (clearAlarm .heatSignal .cell cold) := clearAlarm_work _ _ (headsStopped_law hl)
  refine clearedOf_enterStopped (clearedOf_congr (cooledTold_alc _) ?_)
  rcases hc with rfl | rfl
  · exact clearedOf_clearAlarm (clearAlarm_clears _ _ stopped)
  · exact clearAlarm_clears _ _ (signal.alarms stopped)

/-- The conditions of a head that goes OFF (R65). -/
theorem enterStopped_clears_head {h : Head} (hl : s.offLawful) (law : s.alarmsLawful) (on : (s.head h).state ≠ .off)
    (hc : c = .headFault ∨ c = .nsop ∨ c = .nsol) : (enterStopped s).clearedOf c (.head h) := by
  have off : s.headsStopped.clearedOf c (.head h) :=
    eachHead_goOff_clears (s := { s with ccs := s.ccs.toStopped }) on hl law hc
  refine clearedOf_enterStopped (clearedOf_congr (cooledTold_alc _) ?_)
  exact clearedOf_clearAlarm (clearedOf_clearAlarm (clearedOf_congr rfl off))

theorem enterStopped_keptByStop (hl : s.offLawful) :
    (enterStopped s).keptByStop = ({ s with ccs := s.ccs.toStopped } : State).keptByStop :=
  (enterStopped_headWork hl).keptByStop.trans (eachHead_goOff_keptByStop (s := { s with ccs := s.ccs.toStopped }) hl)

/-- Settles O6: the steps by `rfl`, the clears one by one, and all that is kept from `enterStopped_keptByStop`. -/
theorem enteringStoppedStopsEverything : Obligations.EnteringStoppedStopsEverything := by
  refine ⟨fun f s => ⟨fun off => if_pos off, fun onA onB => ?order⟩, fun s => ⟨rfl, fun hl => ⟨fun law e he which => ?clear, ?frame⟩⟩⟩
  case order =>
    dsimp only
    rw [eachHead, if_neg (not_or.mpr ⟨onA, onB⟩)]
    dsimp only
    split
    · exact .inl rfl
    · exact .inr rfl
  case clear =>
    rcases which with feeder | track | ⟨code, scope⟩ | ⟨h, on, scope, code⟩
    · exact enterStopped_clears_jams hl law (.inl feeder) e he rfl rfl
    · exact enterStopped_clears_jams hl law (.inr track) e he rfl rfl
    · exact enterStopped_clears_heat hl law code e he rfl scope
    · exact enterStopped_clears_head hl law on code e he rfl scope
  case frame =>
    have kept := enterStopped_keptByStop hl
    have heat : (enterStopped s).trc.heat = {} := congrArg Trc.heat (enterStopped_headWork hl).track
    have off := (enterStopped_work hl).2
    have law := (enterStopped_headWork hl).law
    generalize enterStopped s = t at kept heat off law
    simp only [State.keptByStop, Prod.mk.injEq] at kept
    obtain ⟨⟨ccs, link, fdc, plm, recipes⟩, ⟨programs, wires⟩, trc, bond, pages, tiles, keys⟩ := kept
    have link : t.link = s.link := link
    have seq : t.trc.bond.map StripRecord.seq = s.trc.bond.map StripRecord.seq := by
      have fst := congrArg (Option.map Prod.fst) bond
      rw [Option.map_map, Option.map_map] at fst
      exact fst
    exact ⟨ccs, fun h => ⟨off h, (law h (off h)).2, (law h (off h)).1⟩, heat, (congrArg Trc.op trc :),
      (congrArg Trc.nextSeq trc :), (congrArg Trc.moveNo trc :), (congrArg Trc.preheat trc :), (congrArg Trc.post trc :), seq,
      fdc, plm, recipes, programs, wires, pages, tiles, keys, (congrArg Lif.forwarding link :), (congrArg Lif.ufQueue link :),
      (congrArg Lif.fuQueue link :), (congrArg Lif.replies link :), (congrArg Lif.requests link :), (congrArg Lif.fTx link :),
      (congrArg Lif.uTx link :)⟩

end Sys2Proof.Machine
end

section
/-! SUPPORT. The step by its queue of commands: an equation for each form of the queue. -/

namespace Sys2Proof.Machine

variable {s : State}

theorem step_of_idle (idle : s.pending = []) : step s = .next s := by
  rw [step, idle]

theorem step_of_front {c : Instr} {rest : List Instr} (front : s.pending = c :: rest) :
    step s = exec c { s with pending := rest } := by
  rw [step, front]

/-- Settles O1: `step_of_front` with the queue given back is the command on `s` itself, and `step_of_idle` is the empty queue. -/
theorem stepRunsTheFrontCommand : Obligations.StepRunsTheFrontCommand := by
  intro c s
  constructor
  case left => exact step_of_front (s := { s with pending := c :: s.pending }) rfl
  case right => exact step_of_idle

end Sys2Proof.Machine
end
